-- ==== Sys2Proof/Word.lean ====
section
/-!
DEFINITION. Word types and the names of module resources (00_scope.md R6, R8, R9).
-/

namespace Sys2Proof

/-- One byte (R8). -/
abbrev Byte := BitVec 8

/-- A 16-bit word. -/
abbrev Half := BitVec 16

/-- A 32-bit word. -/
abbrev Word := BitVec 32

/-- A 64-bit word. -/
abbrev DWord := BitVec 64

/-- Channels CH0 to CH3 (R6). -/
abbrev Chan := Fin 4

/-- Cartridge slots CS0 to CS7 (R6): slot 2c is slot A of channel c, slot 2c + 1 is slot B. -/
abbrev Slot := Fin 8

/-- Port numbers of R192: 0 to 2 are M0 to M2, 3 to 33 are B0 to B30, 34 to 41 are U0 to U7. -/
abbrev Port := Fin 42

/-- Contexts of a channel (R19, R412). -/
abbrev Ctx := Fin 64

/-- The channel that owns a slot (R6). -/
def Slot.owner (s : Slot) : Chan := ⟨s.val / 2, by omega⟩

/-- 0 for slot A and 1 for slot B (R105). -/
def Slot.side (s : Slot) : Fin 2 := ⟨s.val % 2, by omega⟩

/-- The slot of channel `c` on side `i` (R6). -/
def slotOf (c : Chan) (i : Fin 2) : Slot := ⟨2 * c.val + i.val, by omega⟩

/-- The three kinds of link port (R6, R192). -/
inductive PortKind where
  | m (k : Nat)
  | b (k : Nat)
  | u (k : Nat)
  deriving DecidableEq, Repr

/-- The kind and index of a port number (R192). -/
def Port.kind (p : Port) : PortKind :=
  if p.val < 3 then .m p.val else if p.val < 34 then .b (p.val - 3) else .u (p.val - 34)

/-- Ports U0 to U7. -/
def Port.isU (p : Port) : Bool := 34 ≤ p.val

/-- Ports M0 to M2. -/
def Port.isM (p : Port) : Bool := p.val < 3

/-- A finite map in plain data: pairs of a key and a value. `Machine/Ops.lean` keeps every map in one canonical form:
keys strictly rising and no value equal to the map's default. -/
abbrev Map (α : Type) := List (Nat × α)

end Sys2Proof
end

