-- ==== Sys2Proof/Syntax.lean ====
section
/-!
DEFINITION. The commands of the block: one constructor of `Instr` per row of spec/opcode_table.json, with the
operands its rule gives it. A physical observation (a temperature, the raw result of a converter, whether a verify
passed) is an operand of the command that brings it.
-/

namespace Sys2Proof

/-- The two request paths to the object dictionary (17_object_dictionary.md, "The mailbox path" and R489). -/
inductive ReqPath where
  | mailbox
  | session (id : Nat)
  deriving DecidableEq, Repr

/-- How a register that is also an entry is written (R473): through BAR0, or by an object-dictionary request. -/
inductive Via where
  | bar0
  | od (p : ReqPath)
  deriving DecidableEq, Repr

/-- Causes of a port-complex restart (Table 19.1). -/
inductive RestartCause where
  | watchdog
  | activate
  | rollback
  deriving DecidableEq, Repr

/-- The PCI Express resets of R25 and Table 19.1. -/
inductive PcieReset where
  | fundamental
  | hot
  | linkDisable
  | linkLoss
  deriving DecidableEq, Repr

/-- What the authentication of one cartridge finds (Table 18.5, R506), in the order of the checks. -/
structure AuthAnswer where
  chainOk : Bool
  partOk : Bool
  tagsOk : Bool
  answered : Bool
  signatureOk : Bool
  deriving DecidableEq, Repr

/-- What a channel start-up finds in the hardware (Table 19.3, Table 19.4). -/
structure StartupFindings where
  /-- A failing region of step 3 and its first failing unit. -/
  regionFail : Option (Nat × Nat)
  /-- A stack that fails training or test at step 4. -/
  stackFail : Option Nat
  authA : AuthAnswer
  authB : AuthAnswer
  deriving DecidableEq, Repr

/-- The comparator that trips (Table 16.5). -/
inductive TripKind where
  | junction (c : Chan)
  | cartridge (s : Slot)
  | inputCurrent
  deriving DecidableEq, Repr

/-- What the throttle logic measures at one run of R465: temperatures in 0.125 K, current in mA. -/
structure ThrottleSample where
  junction : List Nat
  slots : List Nat
  currentMilliamp : Nat
  deriving DecidableEq, Repr

/-- The limit registers (Tables 16.6 and 16.12). -/
inductive LimitReg where
  | voltageClamp (c : Chan)
  | junctionLimits (c : Chan)
  | cartridgeLimits (c : Chan)
  | currentThrottle
  | currentTrip
  deriving DecidableEq, Repr

/-- The cores with a watchdog (Table 15.1). -/
inductive CoreKind where
  | scheduler
  | control (cluster : Fin 16)
  | powerManagement
  | security
  deriving DecidableEq, Repr

/-- A packet of Table 10.4: its header fields and its data. -/
structure Packet where
  ptype : Nat
  cls : Nat
  last : Bool
  dest : Nat
  source : Nat
  group : Nat
  segment : Nat
  seq : Nat
  hops : Nat
  epoch : Byte
  step : Word
  tag : Word
  e2e : Word
  data : List Byte
  deriving DecidableEq, Repr

/-- A flit's link header (Table 10.2) and packet area (Table 10.1). -/
structure Flit where
  ftype : Nat
  seq : BitVec 12
  ackSeq : BitVec 12
  ackValid : Bool
  nak : Bool
  firstWord : Nat
  /-- Tickets returned, one count per class. -/
  tickets : List Nat
  area : List Byte
  deriving DecidableEq, Repr

/-- What the link header of a good flit acknowledges (Table 10.2, R294), and the symbols of its codeword that the decoder of
RS(544,514) corrected, at most 15 (R290). -/
structure Received where
  ackSeq : BitVec 12
  ackValid : Bool
  nak : Bool
  corrected : Fin 16
  deriving DecidableEq, Repr

/-- A good flit as it arrives: what it holds and the symbols that the decoder corrected, at most 15 (R290). -/
structure ArrivedFlit where
  flit : Flit
  corrected : Fin 16
  deriving DecidableEq, Repr

/-- The port at which a CONTROL flit arrives and what its link header says (R294). -/
structure HeardControl where
  port : Port
  header : Received
  deriving DecidableEq, Repr

/-- How the peer answers a recalibration request (R189): whether it agrees, and the link header of the flit that says so. -/
structure RecalAnswer where
  acked : Bool
  header : Received
  deriving DecidableEq, Repr

/-- A received flit that may be bad (R290, R294, R295): one whose codeword the decoder cannot correct, or the 640 bytes of one that
it can, whose CRC and type are still to be looked at. -/
inductive BadFlit where
  | uncorrectable
  | arrived (bytes : List Byte) (corrected : Fin 16)
  deriving DecidableEq, Repr

/-- A capability message (R310) and the round-trip time that the exchange measures. -/
structure Capability where
  version : Nat
  features : Half
  moduleNumber : Nat
  channel : Nat
  port : Nat
  serial : DWord
  replayDepth : Nat
  pools : List Nat
  rttNs : Nat
  deriving DecidableEq, Repr

/-- An uplink notice (R327). -/
structure Notice where
  position : Nat
  channel : Nat
  port : Nat
  up : Bool
  remoteBlock : Nat
  sequence : Half
  deriving DecidableEq, Repr

/-- The identity of a segment (10_fabric_links.md, "Segments"). -/
structure SegKey where
  source : Nat
  dest : Nat
  group : Nat
  segment : Nat
  step : Word
  deriving DecidableEq, Repr

/-- A Miger session frame (Table 17.5): its header fields, its body as sent and its TAG. -/
structure Frame where
  version : Byte
  session : Word
  sequence : Word
  body : List Byte
  tag : List Byte
  deriving DecidableEq, Repr

/-- Why a Miger frame is discarded (R483, R484, R485). -/
inductive FrameFault where
  | foreign
  | reservedType
  | badVersion (isInit : Bool)
  | badLength (isInit : Bool)
  | unknownSession
  | badTag
  | staleSequence
  deriving DecidableEq, Repr

/-- The RC registers of Tables 14.2 and 14.3. -/
inductive RcReg where
  | moduleEventsLost
  | eventsLost (c : Chan)
  | doorbellErrors (c : Chan)
  | cqFullWaits (c : Chan)
  deriving DecidableEq, Repr

/-- The two entries of the service policy (Table 15.8). -/
inductive Policy where
  | mixedVersion
  | liveService
  deriving DecidableEq, Repr

/-- The commands: the rows of spec/opcode_table.json, in its order. -/
inductive Instr where
  | modulePowerOn (inputMillivolt : Nat) (selfTestPass : Bool)
  | modulePowerOff
  | supplyFault (inputMillivolt : Nat)
  | branchFuseOpen (c : Chan)
  | portComplexRestart (cause : RestartCause) (selfTestPass : Bool)
  | portComplexFailure
  | pcieReset (kind : PcieReset)
  | pcieLinkUp
  | msixVectorUnmask (v : Fin 2048)
  | latchOpened (slot : Slot)
  | powerCommand (path : ReqPath) (c : Chan) (target : Byte)
  | powerRampStart (branchShort : Bool)
  | transitionStepComplete (c : Chan) (authA authB : AuthAnswer)
  | channelStartup (c : Chan) (found : StartupFindings)
  | limitTrip (kind : TripKind) (value : Word)
  | currentTripRecheck (stillAbove : Bool) (value : Word)
  | throttleTick (sample : ThrottleSample)
  | coreVoltageSet (via : Via) (c : Chan) (value : Word)
  | limitRegisterWrite (via : Via) (reg : LimitReg) (value : Word)
  | metrologyConversionEnd (c : Chan) (raw : BitVec 24)
  | epochPulse
  | referenceLost
  | referenceReturned
  | timebaseLowRead (c : Chan)
  | portTimebaseLowRead
  | perfSnapshot (c : Chan)
  | snapshotComplete (c : Chan)
  | arrayLayerExecute (c : Chan) (job : Nat)
  | tileReadIssue (c : Chan)
  | tileReadComplete (c : Chan) (read : Nat)
  | vectorDelivery (c : Chan) (job : Nat)
  | deferredOutlierServe (c : Chan)
  | programDescriptor (c : Chan) (job : Nat)
  | programRelease (c : Chan) (job : Nat)
  | tileProgramStart (c : Chan)
  | tileProgramComplete (c : Chan) (prog : Nat) (verified : Bool)
  | factorRefresh (c : Chan)
  | poweredHour (slot : Slot)
  | tileCalibrationStart (c : Chan)
  | tileCalibrationComplete (c : Chan) (cal : Nat)
  | linkEyeMeasure (c : Chan) (p : Port) (width height : Nat) (islandTemp : Nat) (ser : Word)
  | linkRecalStart (c : Chan) (p : Port) (answer : RecalAnswer)
  | linkRecalRequest (c : Chan) (a : HeardControl)
  | linkRecalRetry (c : Chan) (p : Port) (answer : RecalAnswer)
  | linkRecalForced (c : Chan) (p : Port) (answer : RecalAnswer)
  | productDescriptor (c : Chan) (job : Nat)
  | engineTileComplete (c : Chan) (job : Nat) (tile : Nat)
  | transposeDescriptor (c : Chan) (job : Nat)
  | rowDescriptor (c : Chan) (job : Nat)
  | rasterDescriptor (c : Chan) (job : Nat)
  | accumulateWrite (c : Chan) (burst : Nat) (mask : BitVec 10) (increments : List Word)
  | readClear (c : Chan) (burst : Nat)
  | clear (c : Chan) (addr length : Nat)
  | weightDescriptor (c : Chan) (job : Nat)
  | weightRelease (c : Chan) (job : Nat)
  | versionBuild (c : Chan)
  | programLoad (c : Chan) (job : Nat)
  | programEntryStart (c : Chan) (entry : Fin 15)
  | descriptorComplete (c : Chan) (job : Nat)
  | stashOut (c : Chan) (job : Nat)
  | stashOutResume (c : Chan)
  | stashIn (c : Chan) (job : Nat)
  | recomputeDescriptor (c : Chan) (job : Nat)
  | numericsModeWrite (path : ReqPath) (c : Chan) (value : Byte)
  | silenceWatchWrite (path : ReqPath) (c : Chan) (offset : Nat) (data : List Byte)
  | signalDetected (c : Chan) (p : Port)
  | trainingRateSwitch (c : Chan) (p : Port)
  | pmdTrainingComplete (c : Chan) (p : Port) (locked : Bool)
  | capabilityMessage (c : Chan) (a : HeardControl) (cap : Capability)
  | discoveryTimeout (c : Chan) (p : Port)
  | trainingRetry (c : Chan) (p : Port)
  | dataFlit (c : Chan) (p : Port) (f : ArrivedFlit)
  | idleFlit (c : Chan) (p : Port) (f : ArrivedFlit)
  | badFlit (c : Chan) (p : Port) (why : BadFlit)
  | replayTimeout (c : Chan) (p : Port)
  | fastRetrainEnd (c : Chan) (p : Port)
  | fastRetrainTimeout (c : Chan) (p : Port)
  | ticketReturnTimer (c : Chan) (p : Port)
  | packetStart (c : Chan) (p : Port)
  | packetForward (c : Chan) (pkt : Packet)
  | dataPacket (c : Chan) (pkt : Packet)
  | unknownPacketType (c : Chan) (p : Port) (pkt : Packet)
  | segAck (c : Chan) (pkt : Packet)
  | segAckTimer (c : Chan) (seg : SegKey)
  | e2eTimeout (c : Chan) (seg : SegKey) (seq : Nat)
  | unreachable (c : Chan) (pkt : Packet)
  | linkFailure (c : Chan) (p : Port) (lossOfLock : Bool)
  | goodbye (c : Chan) (a : HeardControl)
  | goodbyeWaitEnd (c : Chan)
  | portEnableWrite (path : ReqPath) (c : Chan) (p : Port) (value : Byte)
  | planWrite (path : ReqPath) (c : Chan) (p : Port) (value : Word)
  | moduleNumberWrite (path : ReqPath) (value : Half)
  | uplinkNotice (c : Chan) (a : HeardControl) (notice : Notice)
  | groupDescriptor (c : Chan) (job : Nat)
  | groupRelease (c : Chan) (job : Nat)
  | groupFree (c : Chan) (group : Nat)
  | join (c : Chan) (pkt : Packet)
  | joinRepeat (c : Chan) (group : Nat)
  | blockReady (c : Chan) (pkt : Packet)
  | admitMsg (c : Chan) (pkt : Packet)
  | refuse (c : Chan) (pkt : Packet)
  | groupFormTimeout (c : Chan) (group : Nat)
  | heartbeatSend (c : Chan) (group : Nat)
  | heartbeat (c : Chan) (pkt : Packet)
  | ringmasterTimeout (c : Chan) (group : Nat)
  | takeoverRequest (c : Chan) (pkt : Packet)
  | newEpoch (c : Chan) (pkt : Packet)
  | planDescriptor (c : Chan) (job : Nat)
  | planRelease (c : Chan) (job : Nat)
  | bucketConvert (c : Chan) (group bucket : Nat)
  | partialPkt (c : Chan) (pkt : Packet)
  | slotWaitResume (c : Chan)
  | param (c : Chan) (pkt : Packet)
  | bankWriteResume (c : Chan)
  | normPart (c : Chan) (pkt : Packet)
  | norm (c : Chan) (pkt : Packet)
  | reduced (c : Chan) (pkt : Packet)
  | preparedSend (c : Chan)
  | prepared (c : Chan) (pkt : Packet)
  | sealed (c : Chan) (pkt : Packet)
  | digestUp (c : Chan) (pkt : Packet)
  | digestDown (c : Chan) (pkt : Packet)
  | recorded (c : Chan) (pkt : Packet)
  | commit (c : Chan) (pkt : Packet)
  | abort (c : Chan) (pkt : Packet)
  | stepTimeout (c : Chan)
  | statusQuery (c : Chan) (pkt : Packet)
  | status (c : Chan) (pkt : Packet)
  | statusQueryTimeout (c : Chan)
  | barrierDescriptor (c : Chan) (job : Nat)
  | barrierArrive (c : Chan) (pkt : Packet)
  | barrierRelease (c : Chan) (pkt : Packet)
  | replicaDescriptor (c : Chan) (job : Nat)
  | replicaRelease (c : Chan) (job : Nat)
  | replica (c : Chan) (pkt : Packet)
  | replicaEnd (c : Chan) (pkt : Packet)
  | replicaVerified (c : Chan) (pkt : Packet)
  | secure (c : Chan) (pkt : Packet)
  | secured (c : Chan) (pkt : Packet)
  | unwind (c : Chan) (pkt : Packet)
  | memberHeartbeatTimeout (c : Chan) (rank : Nat)
  | memberLost (c : Chan) (pkt : Packet)
  | spareClaim (c : Chan) (pkt : Packet)
  | spareAccept (c : Chan) (pkt : Packet)
  | spareClaimTimeout (c : Chan)
  | spareRescan (c : Chan)
  | replace (c : Chan) (pkt : Packet)
  | fillDescriptor (c : Chan) (job : Nat)
  | fillRequest (c : Chan) (pkt : Packet)
  | paramResend (c : Chan) (pkt : Packet)
  | filled (c : Chan) (pkt : Packet)
  | rebuilt (c : Chan) (pkt : Packet)
  | shardsLost (c : Chan) (pkt : Packet)
  | withdraw (path : ReqPath) (c : Chan) (value : Byte)
  | resetDescriptor (c : Chan) (job : Nat)
  | resetMsg (c : Chan) (pkt : Packet)
  | resetDone (c : Chan) (pkt : Packet)
  | resetRelease (c : Chan) (pkt : Packet)
  | contextEnable (c : Chan) (x : Ctx) (priority : BitVec 2)
  | contextDrain (c : Chan) (x : Ctx) (priority : BitVec 2)
  | sqTail (c : Chan) (x : Ctx) (value : Word)
  | cqHead (c : Chan) (x : Ctx) (value : Word)
  | eventHead (c : Chan) (value : Word)
  | eventControlWrite (c : Chan) (value : Word)
  | entryFetch (c : Chan)
  | fence (c : Chan) (job : Nat)
  | abandon (c : Chan) (job : Nat)
  | nop (c : Chan) (job : Nat)
  | invalidEntry (c : Chan) (job : Nat)
  | coalesceTimeout (c : Chan) (x : Option Ctx)
  | hostTransfer (c : Chan) (job : Nat)
  | moverPiece (hostData : List Byte)
  | rcRegisterRead (reg : RcReg)
  | registerWrite (offset : Nat) (wide : Bool) (value : DWord)
  | odRead (path : ReqPath) (index : Half) (sub : Byte) (offset length : Nat)
  | odWrite (path : ReqPath) (index : Half) (sub : Byte) (offset : Nat) (data : List Byte)
  | authenticate (path : ReqPath) (data : List Byte)
  | authLockoutEnd (mailbox : Bool)
  | drop (path : ReqPath)
  | subscribe (path : ReqPath) (data : List Byte)
  | challengeRead (path : ReqPath)
  | challengeExpiry (path : ReqPath)
  | hello (client : Nat)
  | sessionInit (client : Nat) (version part : Byte) (body : List Byte)
  | sessionInitPartTimeout
  | request (f : Frame)
  | notifyAck (f : Frame)
  | notifyResend (session : Nat)
  | keepalive (f : Frame)
  | close (f : Frame)
  | sessionIdleTimeout (session : Nat)
  | migerFrameDiscarded (client : Nat) (why : FrameFault)
  | coreWatchdog (c : Chan) (core : CoreKind)
  | fwStage (path : ReqPath) (c : Chan)
  | fwVerifyComplete (c : Chan)
  | fwWriteComplete (c : Chan) (ok : Bool)
  | fwActivate (path : ReqPath) (c : Chan)
  | fwConfirm (path : ReqPath) (c : Chan)
  | reboot (path : ReqPath) (c : Chan)
  | trialTimeout (c : Chan)
  | portImage (path : ReqPath) (offset : Nat) (data : List Byte)
  | portStage (path : ReqPath)
  | portActivate (path : ReqPath)
  | portConfirm (path : ReqPath)
  | servicePolicyWrite (path : ReqPath) (which : Policy) (value : Byte)
  | recoveryImage (path : ReqPath) (c : Chan) (offset : Nat) (data : List Byte)
  | fwKeyRevoke (path : ReqPath) (c : Option Chan) (value : Byte)
  | attestNonce (path : ReqPath) (c : Chan) (nonce : List Byte)
  | attestReportSigned (c : Chan)
  | installerSecret (path : ReqPath) (secret : List Byte)
  | auditFlush (c : Option Chan)
  | debugEnable (path : ReqPath) (c : Chan) (value : Byte)
  | selfTestCommand (path : ReqPath) (c : Chan) (value : Half)
  | selfTestComplete (c : Chan) (failUnit : Option Nat) (restored : Bool)
  | internalFault (c : Chan)
  | linkRecalibrationComplete (c : Chan) (p : Port) (ok : Bool) (width height : Nat)
  | busMasterEnable (value : Bool)
  | latchClosed (slot : Slot)
  | malformedRequest (path : ReqPath)
  deriving DecidableEq, Repr

end Sys2Proof
end

