-- ==== Sys2Proof/Decode.lean ====
section
/-!
DEFINITION. The commands that words spell: spec/opcode_table.json gives no row any bits (log entry 3).
-/

namespace Sys2Proof

/-- The command that `nbits` bits of a word spell by the table: none, since no row has bits. Log entry 3. -/
def decodeTableWord (nbits w : Nat) : Option Instr :=
  match nbits, w with
  | _, _ => none

end Sys2Proof
end

