-- ==== Sys2Proof/Config.lean ====
section
/-!
DEFINITION. What an implementation fixes and what the spec leaves open: constants with no body, of which nothing can
be proved but that they are functions of their arguments (notes/assumptions/5.md, 6.md, 12.md). An argument named `n`
is the value of the counter `State.free` when the value is taken, so that every use is a value of its own.
-/

namespace Sys2Proof

/-- The algorithm of a certified public key (R497). -/
inductive KeyAlgorithm where
  | slhDsaShake256s
  | slhDsaShake256f
  | mlKem1024
  deriving DecidableEq, Repr

/-- keyUsage of a device certificate (R497). -/
inductive KeyUsage where
  | digitalSignature
  | keyEncipherment
  deriving DecidableEq, Repr

/-- The fields of an X.509 v3 certificate that R497 names; keyUsage is stated for device certificates only. -/
structure CertFields where
  issuer : List Byte
  subject : List Byte
  algorithm : KeyAlgorithm
  publicKey : List Byte
  usage : Option KeyUsage
  notBefore : Word
  notAfter : List Byte
  deriving DecidableEq, Repr

end Sys2Proof

namespace Sys2Proof.Config

/-- A fresh value of any size (log entry 5). -/
opaque fresh (n : Nat) : Nat

/-- What the cells and the converter of column `j` add to the ideal input of conversion `n`, in LSB (R108, R144): the errors of
the cells within their window, drift, offset and noise (log entry 6). -/
opaque conversionError (n j : Nat) : Rat

/-- The sum of the 256 or 64 conversions that a calibration averages (R179): column `j`, measurement `k` (0 no row
driven, 1 reference current in, 2 fresh with reference current, 3 + r reference column group r). -/
opaque calibrationSum (n j k : Nat) : Int

/-- The cartridge in a socket whose latch has closed: its number, among all cartridges there are (log entry 11). -/
opaque cartridge (n : Nat) : Nat

/-- Programs that factory test gave a tile of a cartridge, taken modulo 17 (R171). -/
opaque factoryCount (cart tile : Nat) : Nat

/-- WEIGHT_VERSION of a tile that no channel has programmed (Table 4.4). -/
opaque factoryVersion (cart tile : Nat) : Byte

/-- Programs of a cartridge at delivery (R167, R171). -/
opaque factoryTotal (cart : Nat) : Nat

/-- REF_EXPECTED of a tile (R177). -/
opaque refExpected (cart tile : Nat) : Half

/-- The serial number of a cartridge (Table 18.13). -/
opaque cartridgeSerial (cart : Nat) : DWord

/-- The date of manufacture of a cartridge, as its certificate's notBefore names it (R497). -/
opaque cartridgeDate (cart : Nat) : Word

/-- R0 of thermistor `i` of a cartridge, ohms as FP32 (R469). -/
opaque thermistorR0 (cart i : Nat) : Word

/-- β of thermistor `i` of a cartridge, kelvin as FP32 (R469). -/
opaque thermistorBeta (cart i : Nat) : Word

/-- The factory value F of the reference check of a channel (R469). -/
opaque referenceFactory (c : Nat) : BitVec 24

/-- VALUE of a thermistor input where the equation of Table 16.9 gives no temperature for RESULT_RAW, R0 and β (log entry 131). -/
opaque thermistorValue (raw : BitVec 24) (r0 beta : Word) : Word

/-- VALUE of a cold-plate RTD input where the IEC 60751 equation gives no temperature for RESULT_RAW (Table 16.9; log entry 131). -/
opaque rtdValue (raw : BitVec 24) : Word

/-- What the drain computes for an activation function or its derivative on the FP32 word `x`; `nearExact` takes it where it lies
within the bound of Table 7.9 (R213; log entry 114). -/
opaque activation (code : Nat) (derivative : Bool) (x : Word) : Word

/-- The exponential that the softmax engine computes in FP32 on the word `x`; `nearExact` takes it where it lies within the bound
of R217 (log entry 114). -/
opaque expFp32 (x : Word) : Word

/-- Power drawn by a branch, in W, and current of a branch, in mA (R467, R466). -/
opaque branchPower (n c : Nat) : Nat

/-- Current of the branch of a channel, in mA (R466). -/
opaque branchCurrent (n c : Nat) : Nat

/-- Core voltage measured at the die, in mV (Table 16.6). -/
opaque coreVoltageNow (n c : Nat) : Nat

/-- Voltage at the 48 V input as FP32 (Table 16.12). -/
opaque inputVoltage (n : Nat) : Word

/-- Handshakes that a pace monitor makes in one tick (R64). -/
opaque paceStep (n c : Nat) : Nat

/-- The module serial number (Table 17.3). -/
opaque moduleSerial : DWord

/-- BOARD_ISSUE, MANUFACTURE_DATE and FIELD_MAC of the identity EEPROM (Table 17.3). -/
opaque boardIssue : Half

/-- MANUFACTURE_DATE (Table 17.3). -/
opaque manufactureDate : Word

/-- FIELD_MAC (Table 17.3). -/
opaque fieldMac : DWord

/-- DEVICE_SEED, fused into a die (Table 18.1): 0 to 3 channel c, 4 the port complex, 5 + n the base die of cartridge n. -/
opaque deviceSeed (die : Nat) : List Byte

/-- ROOT_KEY: the SLH-DSA-SHAKE-256s public key of the maker root (Table 18.1). -/
opaque rootKey : List Byte

/-- FW_KEY: a slot's SLH-DSA-SHAKE-256s public key, fused into a die (Table 18.1). -/
opaque fwKey (die slot : Nat) : List Byte

/-- The root that slh_keygen_internal of FIPS 205 computes for SLH-DSA-SHAKE-256f from SK.seed and PK.seed (R495; log entry 127). -/
opaque slhRoot (skSeed pkSeed : List Byte) : List Byte

/-- The pure SLH-DSA-SHAKE-256f signature with an empty context string (FIPS 205, R496; log entry 127). -/
opaque slhSign (secretKey message : List Byte) : List Byte

/-- Whether an SLH-DSA signature over a message verifies under a public key (FIPS 205, R496; log entry 127). -/
opaque slhVerify (publicKey message signature : List Byte) : Bool

/-- ML-KEM.KeyGen_internal of FIPS 203 for ML-KEM-1024: the encapsulation key and the decapsulation key (R495; log entry 127). -/
opaque kemKeyGen (d z : List Byte) : List Byte × List Byte

/-- The shared secret that ML-KEM-1024 decapsulates from a ciphertext (FIPS 203, R509; log entry 127). -/
opaque kemDecaps (secretKey ciphertext : List Byte) : List Byte

/-- Names of the maker root, 0, and of the issuing authority, 1, and the validity of their certificates (R497; log entry 128). -/
opaque authorityName (which : Nat) : List Byte

/-- notBefore and notAfter of the root's and the issuing certificate (R497; log entry 128). -/
opaque authorityDates (which : Nat) : Word × List Byte

/-- The SLH-DSA-SHAKE-256s public key of the issuing certificate (R497). -/
opaque issuingKey : List Byte

/-- A signature made at manufacture under ROOT_KEY, 0, or under the issuing key, 1: no device holds these private keys (R497,
R499). -/
opaque authoritySign (which : Nat) (message : List Byte) : List Byte

/-- The DER encoding of the signed part of an X.509 v3 certificate (RFC 5280, R497; log entry 128). -/
opaque derFields (t : CertFields) : List Byte

/-- The DER encoding of a certificate: its signed part and the signature over it (RFC 5280, R497; log entry 128). -/
opaque derCertificate (fields signature : List Byte) : List Byte

/-- What the ledger of a cartridge holds in page `index`, 1,024 bytes: the place of each item of R167 in the pages is not stated
(R505; log entry 129). The items: the program count of each tile, the total, the programs of the last powered hours and of the
running one, the thresholds passed, the binding and the powered hours. -/
opaque ledgerPage (index : Nat) (count : Nat → Nat) (total : Nat) (hours : List Nat) (hourNow thresholds : Nat)
    (bound : Option Nat) (poweredHours : Nat) : List Byte

/-- Pages of a wear ledger (R505; log entry 129). -/
opaque ledgerPages : Nat

/-- A secret fused or stored at manufacture (R495, R513). -/
opaque manufactureSecret (which : Nat) : List Byte

/-- The image set with which a die is delivered: die 0 to 3 is channel c, 4 the port complex (R439). -/
opaque factoryImage (die : Nat) : List Byte

/-- Whether a link or channel of another module of the block is UP, as routing finds it (R325): position, channel and
port. -/
opaque remoteUp (n position channel port : Nat) : Bool

/-- The upset or cell fault that meets the shared store of channel `c` in one tick, if any: the number of the 8-byte word within
the store, whether two bits are wrong, and whether the fault persists in the cell (R197; log entry 116). -/
opaque storeUpset (n c : Nat) : Option (Nat × Bool × Bool)

end Sys2Proof.Config
end

