-- ==== Sys2Proof/Machine/Crypto.lean ====
section
/-!
DEFINITION. The computed digests: Keccak-f[1600] with SHAKE256, KMAC256 and KMACXOF256 (18_security_and_roles.md R494,
R509, R514) and CRC-32C (10_fabric_links.md R289, R297). Bytes are lists, least significant first (R8).
-/

namespace Sys2Proof.Machine

/-- The little-endian bytes of a number. -/
def leBytes : Nat → Nat → List Byte
  | 0, _ => []
  | k + 1, v => BitVec.ofNat 8 v :: leBytes k (v / 256)

/-- The number of a little-endian byte list. -/
def leNat : List Byte → Nat
  | [] => 0
  | b :: bs => b.toNat + 256 * leNat bs

/-- A lane of the permutation: 64 bits in z. -/
abbrev Lane := BitVec 64

/-- The five planes y = 0 to 4 of a Keccak state, each of the five lanes x = 0 to 4. -/
abbrev Planes := List (List Lane)

/-- Lanes of two planes added bit by bit. -/
def addPlane (p q : List Lane) : List Lane := List.zipWith (fun a b => a ^^^ b) p q

/-- θ: every plane gets the parity of the column before it and, turned by one bit, of the column after it. -/
def theta (a : Planes) : Planes :=
  let parity := a.foldl addPlane (List.replicate 5 0)
  let fix := addPlane (parity.drop 4 ++ parity.take 4) ((parity.drop 1 ++ parity.take 1).map (fun v => v.rotateLeft 1))
  a.map (addPlane fix)

/-- One lane replaced. -/
def putLane (a : Planes) (x y : Nat) (v : Lane) : Planes := a.modify y (fun p => p.set x v)

/-- ρ and π in one walk: ρ visits the lanes in the order (x, y) to (y, 2x + 3y) from (1, 0), which is also where π takes each of
them, and turns the lane of visit t by (t + 1)(t + 2) / 2 bits; `left` visits remain, and `b` gathers what has been placed. -/
def walkLanes (a : Planes) : Nat → Nat → Nat → Planes → Planes
  | 0, _, _, b => b
  | left + 1, x, y, b =>
    let t := 23 - left
    let v := ((a.getD y []).getD x 0).rotateLeft ((t + 1) * (t + 2) / 2 % 64)
    walkLanes a left y ((2 * x + 3 * y) % 5) (putLane b y ((2 * x + 3 * y) % 5) v)

/-- χ on one plane. -/
def chiPlane (p : List Lane) : List Lane :=
  addPlane p (List.zipWith (fun u v => ~~~u &&& v) (p.drop 1 ++ p.take 1) (p.drop 2 ++ p.take 2))

/-- One step of the feedback register x⁸ + x⁶ + x⁵ + x⁴ + 1 behind the round constants. -/
def rcStep (r : Nat) : Nat := if 128 ≤ r then (2 * r) ^^^ 0x171 else 2 * r

/-- The constant of a round and the register after it: bit 2 ^ j − 1 is the register's output at the round's step j. -/
def roundConstant : Nat → Nat → Nat → Lane × Nat
  | 0, _, r => (0, r)
  | k + 1, j, r =>
    let rest := roundConstant k (j + 1) (rcStep r)
    (if r % 2 = 1 then rest.1 ^^^ (1#64 <<< (2 ^ j - 1)) else rest.1, rest.2)

/-- `k` rounds from the register's value `r`. -/
def keccakRounds : Nat → Nat → Planes → Planes
  | 0, _, a => a
  | k + 1, r, a =>
    let c := roundConstant 7 0 r
    let b := (walkLanes (theta a) 24 1 0 (theta a)).map chiPlane
    keccakRounds k c.2 (b.modify 0 (fun p => p.modify 0 (fun v => v ^^^ c.1)))

/-- The bytes of a state, lanes in the order x + 5 y. -/
def planeBytes (a : Planes) : List Byte := a.flatMap (fun p => p.flatMap (fun v => leBytes 8 v.toNat))

/-- A list of 200 bytes as a state. -/
def planesOf (bs : List Byte) : Planes :=
  (List.range 5).map (fun y => (List.range 5).map (fun x => BitVec.ofNat 64 (leNat ((bs.drop (8 * (x + 5 * y))).take 8))))

/-- Keccak-f[1600] of FIPS 202 on the 200 bytes of its state. -/
def permute (bs : List Byte) : List Byte := planeBytes (keccakRounds 24 1 (planesOf bs))

/-- Takes in the blocks of a padded message, each of 136 bytes, over the state's first bytes. -/
def soak : Nat → List Byte → List Byte → List Byte
  | 0, _, st => st
  | k + 1, msg, st =>
    soak k (msg.drop 136) (permute (List.zipWith (fun a b => a ^^^ b) st (msg.take 136) ++ st.drop 136))

/-- Gives `n` bytes out, at most 136 for each of `k` states. -/
def wring : Nat → Nat → List Byte → List Byte
  | 0, _, _ => []
  | k + 1, n, st => if n ≤ 136 then st.take n else st.take 136 ++ wring k (n - 136) (permute st)

/-- The sponge of capacity 512 bits with a domain byte: `n` bytes of output. -/
def sponge136 (domain : Byte) (msg : List Byte) (n : Nat) : List Byte :=
  let blocks := msg.length / 136 + 1
  let gap := List.replicate (136 * blocks - msg.length - 1) 0#8
  let padded := if gap = [] then msg ++ [domain ||| 0x80#8] else msg ++ [domain] ++ gap.dropLast ++ [0x80#8]
  wring (n / 136 + 1) n (soak blocks padded (List.replicate 200 0#8))

/-- SHAKE256 with `n` bytes of output. -/
def shake256 (msg : List Byte) (n : Nat) : List Byte := sponge136 0x1F#8 msg n

/-- Big-endian bytes of a number, without leading zeros, at least one. -/
def beBytes (v : Nat) : List Byte :=
  let k := max 1 ((Nat.log2 v) / 8 + 1)
  (leBytes k v).reverse

/-- left_encode (SP 800-185). -/
def leftEncode (v : Nat) : List Byte := BitVec.ofNat 8 (beBytes v).length :: beBytes v

/-- right_encode (SP 800-185). -/
def rightEncode (v : Nat) : List Byte := beBytes v ++ [BitVec.ofNat 8 (beBytes v).length]

/-- encode_string (SP 800-185). -/
def encodeString (s : List Byte) : List Byte := leftEncode (8 * s.length) ++ s

/-- bytepad to 136 (SP 800-185). -/
def bytepad (x : List Byte) : List Byte :=
  let y := leftEncode 136 ++ x
  y ++ List.replicate ((136 - y.length % 136) % 136) 0#8

/-- The name KMAC in bytes. -/
def kmacName : List Byte := [0x4B#8, 0x4D#8, 0x41#8, 0x43#8]

/-- KMAC256 of `n` bytes with customisation `s`; `xof` gives KMACXOF256 (SP 800-185). -/
def kmac256 (xof : Bool) (key msg : List Byte) (n : Nat) (s : List Byte) : List Byte :=
  let body := bytepad (encodeString key) ++ msg ++ rightEncode (if xof then 0 else 8 * n)
  sponge136 0x04#8 (bytepad (encodeString kmacName ++ encodeString s) ++ body) n

/-- One bit step of CRC-32C, reflected. -/
def crcBit (c : Nat) : Nat := if c % 2 = 1 then (c / 2) ^^^ 0x82F63B78 else c / 2

/-- CRC-32C of a byte list: initial value and final inversion of all ones. -/
def crc32c (bs : List Byte) : Nat :=
  (bs.foldl (fun c b => crcBit (crcBit (crcBit (crcBit (crcBit (crcBit (crcBit (crcBit (c ^^^ b.toNat))))))))) 0xFFFFFFFF)
    ^^^ 0xFFFFFFFF

end Sys2Proof.Machine
end

