-- ==== Sys2Proof/Machine/Numeric.lean ====
section
/-!
DEFINITION. Binary floating-point arithmetic on exact values: FP32, BF16 and KA48 (03_number_formats.md R93 to R95).
A value is an exact dyadic number; rounding to a format is one explicit step, to nearest even or toward zero (R278).
-/

namespace Sys2Proof.Machine

/-- A value of a wide format: the canonical NaN, a signed infinity, or (−1)^neg × m × 2^e. -/
inductive Fp where
  | nan
  | inf (neg : Bool)
  | fin (neg : Bool) (m : Nat) (e : Int)
  deriving DecidableEq, Repr

/-- A wide format: its precision in bits and the exponent of its least subnormal (R93, R94). -/
structure Fmt where
  p : Nat
  lsb : Int
  deriving DecidableEq, Repr

/-- FP32 (R93). -/
def fp32 : Fmt := ⟨24, -149⟩

/-- BF16 (R93). -/
def bf16 : Fmt := ⟨8, -133⟩

/-- KA48 (R94): the exponent range of FP32 with 40 bits of significand. -/
def ka48 : Fmt := ⟨40, -165⟩

/-- The two roundings: to nearest even (R93) and toward zero (R278). -/
inductive Rounding where
  | nearest
  | towardZero
  deriving DecidableEq, Repr

/-- Number of significant bits of `m`. -/
def bitLen (m : Nat) : Nat := if m = 0 then 0 else Nat.log2 m + 1

/-- +0. -/
def Fp.zero : Fp := .fin false 0 0

/-- 1.0. -/
def Fp.one : Fp := .fin false 1 0

/-- The value of an integer. -/
def Fp.ofInt (i : Int) : Fp := .fin (decide (i < 0)) i.natAbs 0

/-- Sign change; NaN has no sign. -/
def Fp.neg : Fp → Fp
  | .nan => .nan
  | .inf n => .inf (!n)
  | .fin n m e => .fin (!n) m e

/-- Magnitude. -/
def Fp.abs : Fp → Fp
  | .nan => .nan
  | .inf _ => .inf false
  | .fin _ m e => .fin false m e

/-- Whether the value is finite. -/
def Fp.isFinite : Fp → Bool
  | .fin _ _ _ => true
  | _ => false

/-- Whether the value is the canonical NaN. -/
def Fp.isNan : Fp → Bool
  | .nan => true
  | _ => false

/-- Whether the value is a zero of either sign. -/
def Fp.isZero : Fp → Bool
  | .fin _ m _ => m == 0
  | _ => false

/-- `m` × 2^`e` as a natural number of units 2^`u`, for `u` at most `e`. -/
def alignTo (m : Nat) (e u : Int) : Nat := m * 2 ^ (e - u).toNat

/-- The largest finite value of a format, with sign. -/
def maxFinite (f : Fmt) (neg : Bool) : Fp := .fin neg (2 ^ f.p - 1) (128 - f.p)

/-- Rounds (−1)^neg × (`m` + s) × 2^`e` to `f`, where s is 0, or lies strictly between 0 and 1 when `sticky`.
A magnitude of 2^128 or more after rounding is an infinity, or the largest finite value toward zero. -/
def roundFin (f : Fmt) (mode : Rounding) (neg : Bool) (m : Nat) (e : Int) (sticky : Bool) : Fp :=
  let t := max (e + bitLen m - f.p) f.lsb
  let shift := (t - e).toNat
  let q := m >>> shift
  let r := m - q <<< shift
  let half := (1 <<< shift) / 2
  let up := match mode with
    | .towardZero => false
    | .nearest =>
      if shift = 0 then false
      else decide (r > half) || (decide (r = half) && (sticky || q % 2 == 1))
  let q' := if up then q + 1 else q
  let u := if shift = 0 then e else t
  if q' ≠ 0 ∧ 128 ≤ u + (bitLen q' : Int) - 1 then
    (match mode with
      | .nearest => .inf neg
      | .towardZero => maxFinite f neg)
  else .fin neg q' u

/-- One rounding of an exact value to a format (R93). -/
def Fp.round (f : Fmt) (mode : Rounding) : Fp → Fp
  | .nan => .nan
  | .inf n => .inf n
  | .fin n m e => if m = 0 then .fin n 0 0 else roundFin f mode n m e false

/-- The exact sum; infinities of opposite sign give NaN. A zero sum is +0 unless both terms are −0. -/
def Fp.addExact : Fp → Fp → Fp
  | .nan, _ => .nan
  | _, .nan => .nan
  | .inf a, .inf b => if a = b then .inf a else .nan
  | .inf a, _ => .inf a
  | _, .inf b => .inf b
  | .fin a m e, .fin b n d =>
    let u := min e d
    let x : Int := if a then -(alignTo m e u : Int) else alignTo m e u
    let y : Int := if b then -(alignTo n d u : Int) else alignTo n d u
    let z := x + y
    if z = 0 then .fin (a && b) 0 0 else .fin (decide (z < 0)) z.natAbs u

/-- The exact product; 0 × ∞ gives NaN. -/
def Fp.mulExact : Fp → Fp → Fp
  | .nan, _ => .nan
  | _, .nan => .nan
  | .inf a, .inf b => .inf (a != b)
  | .inf a, .fin b m _ => if m = 0 then .nan else .inf (a != b)
  | .fin a m _, .inf b => if m = 0 then .nan else .inf (a != b)
  | .fin a m e, .fin b n d => .fin (a != b) (m * n) (e + d)

/-- The quotient rounded to `f`: ∞ ÷ ∞ and 0 ÷ 0 give NaN, and a nonzero value divided by 0 an infinity. -/
def Fp.divRound (f : Fmt) (mode : Rounding) : Fp → Fp → Fp
  | .nan, _ => .nan
  | _, .nan => .nan
  | .inf _, .inf _ => .nan
  | .inf a, .fin b _ _ => .inf (a != b)
  | .fin a _ _, .inf b => .fin (a != b) 0 0
  | .fin a m e, .fin b n d =>
    if n = 0 then (if m = 0 then .nan else .inf (a != b))
    else if m = 0 then .fin (a != b) 0 0
    else
      let k := f.p + 3 + bitLen n
      let num := m * 2 ^ k
      roundFin f mode (a != b) (num / n) (e - d - k) (decide (num % n ≠ 0))

/-- The square root rounded to `f`; of a negative value NaN. -/
def Fp.sqrtRound (f : Fmt) (mode : Rounding) : Fp → Fp
  | .nan => .nan
  | .inf n => if n then .nan else .inf false
  | .fin n m e =>
    if m = 0 then .fin n 0 0
    else if n then .nan
    else
      let m' := if e % 2 = 0 then m else 2 * m
      let e' := if e % 2 = 0 then e else e - 1
      let k := f.p + 3
      let big := m' * 2 ^ (2 * k)
      let r := Nat.sqrt big
      roundFin f mode false r (e' / 2 - k) (decide (r * r ≠ big))

/-- Whether the exact sum of two values is an invalid operation: infinities of opposite sign. -/
def addInvalid : Fp → Fp → Bool
  | .inf a, .inf b => a != b
  | _, _ => false

/-- Whether the exact product of two values is an invalid operation: 0 × ∞. -/
def mulInvalid (a b : Fp) : Bool :=
  match a, b with
  | .inf _, .fin _ m _ => m == 0
  | .fin _ m _, .inf _ => m == 0
  | _, _ => false

/-- Three-way comparison of two finite or infinite values; NaN is unordered. -/
def Fp.cmp : Fp → Fp → Option Ordering
  | .nan, _ => none
  | _, .nan => none
  | .inf a, .inf b => some (if a = b then .eq else if a then .lt else .gt)
  | .inf a, _ => some (if a then .lt else .gt)
  | _, .inf b => some (if b then .gt else .lt)
  | .fin a m e, .fin b n d =>
    let u := min e d
    let x : Int := if a then -(alignTo m e u : Int) else alignTo m e u
    let y : Int := if b then -(alignTo n d u : Int) else alignTo n d u
    some (compare x y)

/-- a > b; false when either is NaN. -/
def Fp.gt (a b : Fp) : Bool := Fp.cmp a b == some .gt

/-- a ≤ b; false when either is NaN. -/
def Fp.le (a b : Fp) : Bool := match Fp.cmp a b with
  | some .lt => true
  | some .eq => true
  | _ => false

/-- The larger of two values that are not NaN. -/
def Fp.maxOf (a b : Fp) : Fp := if Fp.gt b a then b else a

/-- FP32 sum, round to nearest even. -/
def add32 (a b : Fp) : Fp := (Fp.addExact a b).round fp32 .nearest

/-- FP32 difference. -/
def sub32 (a b : Fp) : Fp := add32 a b.neg

/-- FP32 product. -/
def mul32 (a b : Fp) : Fp := (Fp.mulExact a b).round fp32 .nearest

/-- FP32 quotient. -/
def div32 (a b : Fp) : Fp := Fp.divRound fp32 .nearest a b

/-- FP32 square root. -/
def sqrt32 (a : Fp) : Fp := Fp.sqrtRound fp32 .nearest a

/-- Rounding to FP32. -/
def toF32 (a : Fp) : Fp := a.round fp32 .nearest

/-- Rounding to BF16. -/
def toBf (a : Fp) : Fp := a.round bf16 .nearest

/-- The encoding of a value of format `f` (R93, R94): sign, biased exponent, fraction. -/
def Fp.encode (f : Fmt) : Fp → Nat
  | .nan => 0xFF * 2 ^ (f.p - 1) + 2 ^ (f.p - 2)
  | .inf n => (if n then 2 ^ (f.p + 7) else 0) + 0xFF * 2 ^ (f.p - 1)
  | .fin n m e =>
    let sign := if n then 2 ^ (f.p + 7) else 0
    if m = 0 then sign
    else
      let top := e + bitLen m - 1
      if top < -126 then sign + alignTo m e f.lsb
      else
        let frac := if bitLen m ≤ f.p then m <<< (f.p - bitLen m) else m >>> (bitLen m - f.p)
        sign + (top + 127).toNat * 2 ^ (f.p - 1) + (frac - 2 ^ (f.p - 1))

/-- The value of an encoding of format `f`; every NaN reads as the canonical NaN (R93). -/
def Fp.decode (f : Fmt) (w : Nat) : Fp :=
  let frac := w % 2 ^ (f.p - 1)
  let ex := w / 2 ^ (f.p - 1) % 256
  let neg := w / 2 ^ (f.p + 7) % 2 == 1
  if ex = 255 then (if frac = 0 then .inf neg else .nan)
  else if ex = 0 then .fin neg frac f.lsb
  else .fin neg (2 ^ (f.p - 1) + frac) (f.lsb + ex - 1)

/-- The FP32 value of a 32-bit word. -/
def f32 (w : Nat) : Fp := Fp.decode fp32 w

/-- The FP32 word of a value. -/
def w32 (v : Fp) : Nat := Fp.encode fp32 v

/-- The BF16 value of a 16-bit word. -/
def b16 (w : Nat) : Fp := Fp.decode bf16 w

/-- Sum in ascending order, each addition rounded to FP32, from +0. -/
def sum32 (l : List Fp) : Fp := l.foldl add32 Fp.zero

/-- Rounding half to even of `n` ÷ `d` to an integer (`d` nonzero). -/
def roundHalfEven (n : Int) (d : Nat) : Int :=
  let q := n / (d : Int)
  let r := n - q * d
  if 2 * r > d then q + 1 else if 2 * r = d then (if q % 2 = 0 then q else q + 1) else q

/-- An exact value as a rational; 0 for one that is not finite. -/
def Fp.toRat : Fp → Rat
  | .fin n m e =>
    let v : Rat := if 0 ≤ e then ((m * 2 ^ e.toNat : Nat) : Rat) else (m : Rat) / ((2 ^ (-e).toNat : Nat) : Rat)
    if n then -v else v
  | _ => 0

/-- Rounding of a rational half to even. -/
def ratRound (q : Rat) : Int := roundHalfEven q.num q.den

end Sys2Proof.Machine
end

