-- ==== Sys2Proof/Machine/Blocks.lean ====
section
/-!
DEFINITION. Block formats, block scales, conversion, block products, the draw generator and KP32 units
(03_number_formats.md R67 to R104, 09_training_numerics.md R258 to R279).
-/

namespace Sys2Proof.Machine

/-- The four block formats (R67, Table 7.4). -/
inductive BlkFmt where
  | kf4
  | ki4
  | kf6a
  | kf6b
  deriving DecidableEq, Repr

/-- Width of an element code in bits (R67). -/
def BlkFmt.bits : BlkFmt → Nat
  | .kf4 => 4
  | .ki4 => 4
  | .kf6a => 6
  | .kf6b => 6

/-- Whether the format has six bits. -/
def BlkFmt.six : BlkFmt → Bool
  | .kf6a => true
  | .kf6b => true
  | _ => false

/-- Exponent of the integer unit (Table 3.1). -/
def BlkFmt.unit : BlkFmt → Int
  | .kf4 => -1
  | .ki4 => 0
  | .kf6a => -4
  | .kf6b => -3

/-- Line-tag and tensor format code (Tables 3.8 and 7.4). -/
def BlkFmt.code : BlkFmt → Nat
  | .kf4 => 0
  | .ki4 => 1
  | .kf6a => 2
  | .kf6b => 3

/-- Elements of a line (R85, R86). -/
def BlkFmt.perLine (f : BlkFmt) : Nat := if f.six then 64 else 112

/-- Blocks of a line (R85, R86). -/
def BlkFmt.blocksPerLine (f : BlkFmt) : Nat := if f.six then 4 else 7

/-- Largest magnitude code that a conversion writes: the code of Qmax (Table 3.1). -/
def BlkFmt.topCode : BlkFmt → Nat
  | .kf4 => 7
  | .ki4 => 7
  | .kf6a => 31
  | .kf6b => 31

/-- Magnitude code `c` in integer units (R67): for a floating code with mantissa width w and bias b, M for E = 0 and
(2^w + M) × 2^(E − 1) otherwise; for KI4 the code itself. -/
def BlkFmt.gridK (f : BlkFmt) (c : Nat) : Nat :=
  match f with
  | .ki4 => c
  | .kf4 => if c < 2 then c else (2 + c % 2) * 2 ^ (c / 2 - 1)
  | .kf6a => if c < 4 then c else (4 + c % 4) * 2 ^ (c / 4 - 1)
  | .kf6b => if c < 8 then c else (8 + c % 8) * 2 ^ (c / 8 - 1)

/-- Qmax in integer units (Table 3.1). -/
def BlkFmt.qmaxK (f : BlkFmt) : Nat := f.gridK f.topCode

/-- The integer of an element code (R67, R69, R70): a negative zero reads as 0, KI4 code 8 as −8. -/
def BlkFmt.codeK (f : BlkFmt) (code : Nat) : Int :=
  match f with
  | .ki4 => if code < 8 then (code : Int) else (code : Int) - 16
  | _ =>
    let half := 2 ^ (f.bits - 1)
    if code < half then (f.gridK code : Int) else -(f.gridK (code - half) : Int)

/-- The code of a signed magnitude; zero is the all-zero code (R69). -/
def BlkFmt.encode (f : BlkFmt) (neg : Bool) (c : Nat) : Nat :=
  if c = 0 ∨ !neg then c
  else match f with
    | .ki4 => 16 - c
    | _ => 2 ^ (f.bits - 1) + c

/-- The mantissa and exponent of a block scale code from 0x01 to 0xFE (Table 3.3). -/
def ks8 (code : Nat) : Nat × Int :=
  if code < 8 then (code, -17) else (8 + code % 8, (code / 8 : Nat) - 18)

/-- A block scale as a value (Table 3.3); 0x00 is zero and 0xFF NaN. -/
def ks8Value (code : Nat) : Fp :=
  if code = 0 then Fp.zero
  else if code = 255 then .nan
  else .fin false (ks8 code).1 (ks8 code).2

/-- How round_to_grid rounds: to nearest, or stochastically with the draw of element `i` (R79, R258). -/
inductive Mode where
  | nearest
  | stochastic (draws : List Nat)
  deriving DecidableEq, Repr

/-- The draw of element `i` of a block. -/
def drawAt (draws : List Nat) (i : Nat) : Nat := draws.getD i 0

/-- Largest magnitude code of the grid not above `n` ÷ `d` integer units. -/
def BlkFmt.floorCode (f : BlkFmt) (n d : Nat) : Nat :=
  ((List.range (f.topCode + 1)).filter (fun c => f.gridK c * d ≤ n)).foldl max 0

/-- round_to_grid of the magnitude `n` ÷ `d` integer units, clamped to Qmax (R77, R79, R258): the magnitude code. -/
def BlkFmt.roundGrid (f : BlkFmt) (mode : Mode) (i n d : Nat) : Nat :=
  if f.qmaxK * d ≤ n then f.topCode
  else
    let c := f.floorCode n d
    let lo := f.gridK c
    let hi := f.gridK (c + 1)
    if lo * d = n then c
    else match mode with
      | .nearest =>
        if 2 * n > (lo + hi) * d then c + 1
        else if 2 * n < (lo + hi) * d then c
        else if c % 2 = 0 then c else c + 1
      | .stochastic draws =>
        if drawAt draws i < (n - lo * d) * 2 ^ 32 / ((hi - lo) * d) then c + 1 else c

/-- What a block conversion answers (R77): the scale, the codes, and the outcomes of R80. -/
structure BlockOut where
  scale : Nat
  codes : List Nat
  saturated : Bool
  crushed : Bool
  flushes : Nat
  /-- First element that is NaN or infinite, of a poisoned block. -/
  firstBad : Option Nat
  deriving DecidableEq, Repr

/-- The scale codes that a conversion may choose, ascending (R77, R277). -/
def scaleCodes (k2 : Bool) : List Nat :=
  if k2 then [1, 2, 4] ++ (List.range 31).map (fun i => 8 * (i + 1)) else (List.range 254).map (· + 1)

/-- Whether scale code `c` times Qmax reaches the magnitude `m` × 2^`e` (R78). -/
def scaleReaches (f : BlkFmt) (c m : Nat) (e : Int) : Bool :=
  let s := ks8 c
  let u := min (s.2 + f.unit) e
  decide (alignTo m e u ≤ alignTo (s.1 * f.qmaxK) (s.2 + f.unit) u)

/-- The quotient |y| ÷ s in integer units, as a fraction, for y = ± m × 2^e and scale code `c`. -/
def quotient (f : BlkFmt) (c m : Nat) (e : Int) : Nat × Nat :=
  let s := ks8 c
  let d := e - s.2 - f.unit
  if 0 ≤ d then (m * 2 ^ d.toNat, s.1) else (m, s.1 * 2 ^ (-d).toNat)

/-- Conversion of one block of FP32 values (R77; R277 with `k2`): `nb` element positions and the crush limit. -/
def convertBlock (f : BlkFmt) (k2 : Bool) (nb : Nat) (crush : Option Nat) (mode : Mode) (tInv : Fp)
    (xs : List Fp) : BlockOut :=
  let ys := xs.map (fun x => mul32 x tInv)
  match ys.findIdx? (fun y => !y.isFinite) with
  | some i => ⟨255, List.replicate nb 0, false, false, 0, some i⟩
  | none =>
    let a := ys.foldl (fun a y => Fp.maxOf a y.abs) Fp.zero
    match a with
    | .fin _ am ae =>
      if am = 0 then ⟨0, List.replicate nb 0, false, false, 0, none⟩
      else
        let top := if k2 then 0xF8 else 0xFE
        let found := (scaleCodes k2).find? (fun c => scaleReaches f c am ae)
        let code := found.getD top
        let one := fun (p : Fp × Nat) => match p.1 with
          | .fin n m e =>
            let q := quotient f code m e
            f.encode n (f.roundGrid mode p.2 q.1 q.2)
          | _ => 0
        let codes := ys.zipIdx.map one
        let flushes := ((ys.zip codes).filter (fun p => !p.1.isZero && p.2 == 0)).length
        ⟨code, codes ++ List.replicate (nb - codes.length) 0, found.isNone,
          (match crush with
            | some k => decide (k ≤ flushes)
            | none => false),
          flushes, none⟩
    | _ => ⟨0, List.replicate nb 0, false, false, 0, none⟩

/-- A block as an engine reads it: its scale code, its row scale, its integers, and the fault that poisons its line
(R74, R88, R197), as the kind of Table 7.6. -/
structure Block where
  scale : Nat
  rowScale : Fp
  ks : List Int
  fault : Option Nat
  degraded : Bool
  deriving DecidableEq, Repr

/-- Whether the block is poisoned, by its scale or by its line. -/
def Block.poisoned (b : Block) : Bool := b.fault.isSome || b.scale == 255

/-- Element `i` of a block decoded under R72, R83 and R84, before the rounding to the target. -/
def Block.elem (f : BlkFmt) (b : Block) (t : Fp) (i : Nat) : Fp :=
  if b.poisoned then .nan
  else if b.scale = 0 then Fp.zero
  else
    let k := b.ks.getD i 0
    let r := if f.six then b.rowScale else Fp.one
    if k = 0 then Fp.zero
    else Fp.mulExact (Fp.mulExact t r) (Fp.mulExact (ks8Value b.scale) (.fin (decide (k < 0)) k.natAbs f.unit))

/-- The exact integer sum of a block pair (R100). -/
def blockSum (a b : List Int) : Int := ((a.zip b).map (fun p => p.1 * p.2)).foldl (· + ·) 0

/-- The block result of R101: P × unit × s_a × s_b, and the row scales for KF6, rounded once to FP32. -/
def blockResult (fa fb : BlkFmt) (a b : Block) : Fp :=
  let p := blockSum a.ks b.ks
  let v := Fp.mulExact (.fin (decide (p < 0)) p.natAbs (fa.unit + fb.unit))
    (Fp.mulExact (ks8Value a.scale) (ks8Value b.scale))
  let v := if fa.six then Fp.mulExact v (Fp.mulExact a.rowScale b.rowScale) else v
  v.round fp32 .nearest

/-- The accumulator with its record of NaN-producing occurrences: its value, the first poisoned block pair (R102) and the first
invalid product or sum (R101), each with its FIRST_INVALID_BLOCK of Table 7.5: the index of the block pair along the reduction
dimension, 0xFFFFFFFF for wide operands. -/
structure Acc where
  value : Fp
  poison : Option Nat
  invalid : Option Nat
  deriving DecidableEq, Repr

/-- An empty accumulator. -/
def Acc.zero : Acc := ⟨Fp.zero, none, none⟩

/-- Adds one value, of block pair `i`, into an accumulator. -/
def Acc.add (mode : Rounding) (a : Acc) (i : Nat) (v : Fp) : Acc :=
  { a with value := (Fp.addExact a.value v).round fp32 mode,
           invalid := if addInvalid a.value v then a.invalid <|> some i else a.invalid }

/-- Adds the product of two wide operands, rounded to FP32 (R103, R211). -/
def Acc.product (mode : Rounding) (acc : Acc) (a b : Fp) : Acc :=
  let acc := if mulInvalid a b then { acc with invalid := acc.invalid <|> some 0xFFFFFFFF } else acc
  acc.add mode 0xFFFFFFFF ((Fp.mulExact a b).round fp32 .nearest)

/-- One block pair into the accumulator (R101, R102). A line fault makes it NaN without a second record (R565). -/
def Acc.block (fa fb : BlkFmt) (acc : Acc) (i : Nat) (a b : Block) : Acc :=
  if a.poisoned || b.poisoned then
    { acc with value := .nan,
               poison := if a.fault.isSome || b.fault.isSome then acc.poison else acc.poison <|> some i }
  else if a.scale = 0 ∨ b.scale = 0 then acc
  else acc.add .nearest i (blockResult fa fb a b)

/-- One K2 block pair into the accumulator (R278): 32 elements, an exact value, round toward zero. FIRST_INVALID_BLOCK is the
index `j` of the K2 block pair along the reduction dimension (log entry 115). -/
def Acc.k2Block (fa fb : BlkFmt) (acc : Acc) (j : Nat) (a b : Block) : Acc :=
  if a.poisoned || b.poisoned then
    { acc with value := .nan,
               poison := if a.fault.isSome || b.fault.isSome then acc.poison else acc.poison <|> some j }
  else if a.scale = 0 ∨ b.scale = 0 then acc
  else
    let p := blockSum a.ks b.ks
    acc.add .towardZero j (Fp.mulExact (.fin (decide (p < 0)) p.natAbs (fa.unit + fb.unit))
      (Fp.mulExact (ks8Value a.scale) (ks8Value b.scale)))

/-- Rotation of a 32-bit word to the left (R262). -/
def rotl32 (x : Word) (n : Nat) : Word := x.rotateLeft n

/-- One round of the draw generator (R262). -/
def drawRound (k0 k1 : Word) (st : Word × Word × Word × Word) (r : Nat) : Word × Word × Word × Word :=
  let (x0, x1, x2, x3) := st
  let a := [16, 12, 8, 24].getD r 0
  let b := [7, 11, 19, 13].getD r 0
  let x0 := x0 + k0 + BitVec.ofNat 32 r * 0x9E3779B9#32
  let x2 := x2 + k1 + BitVec.ofNat 32 r * 0xBB67AE85#32
  let x0 := x0 + x1
  let x3 := rotl32 (x3 ^^^ x0) a
  let x2 := x2 + x3
  let x1 := rotl32 (x1 ^^^ x2) b
  (x0, x1, x2, x3)

/-- The draw U of the five keys (R261, R262). -/
def draw (seed step tensor element index : Nat) : Nat :=
  let k0 : Word := BitVec.ofNat 32 seed
  let k1 : Word := BitVec.ofNat 32 (seed / 2 ^ 32) ^^^ BitVec.ofNat 32 (step / 2 ^ 32)
  let x1 : Word := BitVec.ofNat 32 (index * 2 ^ 16) ||| BitVec.ofNat 32 (element / 2 ^ 32 % 2 ^ 16)
  let st := [0, 1, 2, 3].foldl (drawRound k0 k1)
    (BitVec.ofNat 32 element, x1, BitVec.ofNat 32 tensor, BitVec.ofNat 32 step)
  (st.2.1 ^^^ st.2.2.2).toNat

/-- The draw keys that do not change within a tensor: seed, step, TENSOR_ID and index (Table 9.1). -/
structure DrawKeys where
  seed : Nat
  step : Nat
  tensor : Nat
  index : Nat
  deriving DecidableEq, Repr

/-- The draw of one element. -/
def DrawKeys.at (k : DrawKeys) (element : Nat) : Nat := draw k.seed k.step k.tensor element k.index

/-- The residue of a mantissa modulo 7 (R97). -/
def residue7 (m : Int) : Nat := (m % 7).toNat

/-- A KP32 unit (R96): the shared exponent and 32 entries of mantissa and residue. -/
structure Kp32 where
  x : Nat
  entries : List (Int × Nat)
  deriving DecidableEq, Repr

/-- The poisoned unit (R97). -/
def Kp32.poisonedUnit : Kp32 := ⟨255, List.replicate 32 (0, 0)⟩

/-- The value of one entry (R97). -/
def Kp32.entry (u : Kp32) (i : Nat) : Fp :=
  if u.x = 255 then .nan
  else
    let m := (u.entries.getD i (0, 0)).1
    .fin (decide (m < 0)) m.natAbs ((max u.x 1 : Nat) - 151)

/-- Rounds the magnitude `n` ÷ `d` to an integer in a mode (R98 step 4, R258). -/
def roundInt (mode : Mode) (i n d : Nat) : Nat :=
  let lo := n / d
  if lo * d = n then lo
  else match mode with
    | .nearest => if 2 * (n - lo * d) > d then lo + 1 else if 2 * (n - lo * d) < d then lo
        else if lo % 2 = 0 then lo else lo + 1
    | .stochastic draws => if drawAt draws i < (n - lo * d) * 2 ^ 32 / d then lo + 1 else lo

/-- Conversion of up to 32 KA48 values to a KP32 unit (R98). -/
def toKp32 (mode : Mode) (vs : List Fp) : Kp32 :=
  if vs.any (fun v => !v.isFinite) then Kp32.poisonedUnit
  else
    match vs.foldl (fun a v => Fp.maxOf a v.abs) Fp.zero with
    | .fin _ m e =>
      if m = 0 then ⟨0, List.replicate 32 (0, 0)⟩
      else
        let top := e + bitLen m - 1
        let x := if top < -126 then 0 else (top + 127).toNat
        let u : Int := (max x 1 : Nat) - 151
        let one := fun (p : Fp × Nat) => match p.1 with
          | .fin n k d =>
            let q := if u ≤ d then (k * 2 ^ (d - u).toNat, 1) else (k, 2 ^ (u - d).toNat)
            let r := roundInt mode p.2 q.1 q.2
            let mi : Int := if n then -(r : Int) else r
            (mi, residue7 mi)
          | _ => (0, 0)
        let es := vs.zipIdx.map one
        ⟨x, es ++ List.replicate (32 - es.length) (0, 0)⟩
    | _ => Kp32.poisonedUnit

/-- The 124 bytes of entries of a unit as one little-endian value (R96). -/
def Kp32.packed (u : Kp32) : Nat :=
  (u.entries.zipIdx.map (fun p => ((p.1.2 * 2 ^ 28 + (p.1.1 % (2 ^ 28 : Int)).toNat) * 2 ^ (31 * p.2)))).foldl (· + ·) 0

/-- The entries of a unit read from their packed value (R96). -/
def kp32Of (packed x : Nat) : Kp32 :=
  ⟨x, (List.range 32).map (fun i =>
    let w : Nat := packed / 2 ^ (31 * i) % 2 ^ 31
    let m : Nat := w % 2 ^ 28
    ((if m < 2 ^ 27 then Int.ofNat m else Int.ofNat m - Int.ofNat (2 ^ 28)), w / 2 ^ 28))⟩

/-- Whether every residue of a unit is right (R97). -/
def Kp32.residuesOk (u : Kp32) : Bool := u.x == 255 || u.entries.all (fun p => residue7 p.1 == p.2)

end Sys2Proof.Machine
end

