-- ==== Sys2Proof/Machine/Parts.lean ====
section
/-!
DEFINITION. The parts of the state, as plain data: power and clocks, memory-side jobs, weight arrays, the training step
and the host interface. `Machine/State.lean` puts them together.
-/

namespace Sys2Proof.Machine

/-! ### Power, clocks and counters (02, 16, 19) -/

/-- The channel states of Table 16.1. -/
inductive PState where
  | p0
  | p1
  | p2
  | p3
  | p4
  deriving DecidableEq, Repr

/-- POWER_STATE code (Table 14.4). -/
def PState.toNat : PState → Nat
  | .p0 => 0
  | .p1 => 1
  | .p2 => 2
  | .p3 => 3
  | .p4 => 4

/-- The state of a target code below 5 (R454). -/
def PState.ofTarget : Nat → PState
  | 0 => .p0
  | 1 => .p1
  | 2 => .p2
  | 3 => .p3
  | _ => .p4

/-- The fields of TIMEBASE_STATUS that the device holds (Table 2.4). -/
structure TbStatus where
  loadGeneration : Byte
  loadArmed : Bool
  alignError : Bool
  holdover : Bool
  refLost : Bool
  loaded : Bool
  deriving DecidableEq, Repr

/-- A timebase with its registers (R55 to R62). -/
structure Clock where
  timebase : DWord
  status : TbStatus
  epochLoad : DWord
  /-- Bits [63:32] latched by a read of TIMEBASE_LOW (R60). -/
  high : Word
  /-- The previous EPOCH capture since the last start (R57). -/
  capture : Option DWord
  deriving DecidableEq, Repr

/-- TIMEBASE_STATUS after reset (R61). -/
def TbStatus.reset : TbStatus := ⟨0, false, false, false, false, false⟩

/-- A clock after reset. -/
def Clock.reset : Clock := ⟨0, TbStatus.reset, 0, 0, none⟩

/-- One throttle kind of R465: its fraction f, 2 to 16, and its quiet count. -/
structure Throttle where
  f : Nat
  quiet : Nat
  deriving DecidableEq, Repr

/-- What starts a channel (Table 19.3, R527). -/
inductive StartKind where
  | cold
  | warm
  | reboot
  deriving DecidableEq, Repr

/-- The power state of a channel (R453 to R467, R533, R536). -/
structure Power where
  state : PState
  /-- Last accepted target of POWER_COMMAND (R454). -/
  target : PState
  inTransition : Bool
  /-- The state that the step of the transition in progress leads to (R456, Table 16.3). -/
  stepTo : PState
  /-- 1: a start-up past step 2 that has not reached step 9; 2: a return to P1 whose attach sweeps run (R186, R457). -/
  waiting : Nat
  /-- SAFE_CAUSE of Table 19.6; 0 when SAFE is 0. -/
  safeCause : Nat
  ready : Bool
  /-- A start-up whose rails are up and whose steps 2 to 9 have not run (Table 19.3). -/
  booting : Option StartKind
  /-- Timebase of the port complex when the command that starts step 1 was accepted. -/
  startTime : DWord
  fuseClosed : Bool
  /-- Cartridge supply of both slots (R31, Table 16.4). -/
  cartSupply : Bool
  coreMillivolt : Nat
  junction : Throttle
  slotThrottle0 : Throttle
  slotThrottle1 : Throttle
  /-- TRIPPED of Table 16.7. -/
  tripped : BitVec 4
  /-- Hottest sensor at the last run of the throttle logic, 0.125 K (JUNCTION_TEMP). -/
  junctionTemp : Nat
  deriving DecidableEq, Repr

/-- The performance counters and the snapshot (R63 to R66, R408). -/
structure Perf where
  /-- Snapshot words 2 to 79, live: PACE_COUNT, handshake sum, handshakes per engine, the twelve others. -/
  counters : Map Nat
  /-- Sticky overflow bits of words 2 to 79. -/
  overflow : Nat
  /-- The captured words of Table 14.5. -/
  snapshot : Map Nat
  busy : Bool
  deriving DecidableEq, Repr

/-- The metrology converter (R468 to R472). -/
structure Metro where
  /-- The input whose integration is running, 1 to 8; 0 before the first one. -/
  input : Nat
  /-- The running conversion is an open-wire check (R470). -/
  check : Bool
  /-- Conversions begun of each input, for the open-wire checks (R470). -/
  counts : Map Nat
  /-- Bit i − 1: the latest result of input i is valid. -/
  valid : Nat
  /-- The last reference check lay within ±100 ppm (R471). -/
  referenceOk : Bool
  deriving DecidableEq, Repr

/-! ### Tensors and descriptors (07) -/

/-- A tensor descriptor as loaded (Table 7.3), with its own address. -/
structure TensorDesc where
  addr : Nat
  format : Nat
  layout : Nat
  flags : Nat
  versionTag : Half
  rows : Nat
  cols : Nat
  data : Nat
  stride : Nat
  scale : Nat
  tensorId : Nat
  status : Nat
  stepTag : Nat
  recompute : Nat
  deriving DecidableEq, Repr

/-- STOCHASTIC (Table 7.3). -/
def TensorDesc.stochastic (t : TensorDesc) : Bool := t.flags.testBit 0

/-- EVENT_ON_INVALID (Table 7.3). -/
def TensorDesc.eventOnInvalid (t : TensorDesc) : Bool := t.flags.testBit 1

/-- CHECK_STEP (Table 7.3). -/
def TensorDesc.checkStep (t : TensorDesc) : Bool := t.flags.testBit 2

/-- An error of an 8-byte word of the shared store: whether two of its bits are wrong, so that it cannot be corrected, and whether the
fault persists in the cell when the word is written (R197). -/
structure StoreFault where
  uncorrectable : Bool
  persistent : Bool
  deriving DecidableEq, Repr

/-- A refused field: the innermost descriptor's type and address, the byte offset of the field, the reason (R421). -/
structure Refused where
  descType : Nat
  addr : Nat
  offset : Nat
  reason : Nat
  deriving DecidableEq, Repr

/-- A product descriptor as loaded (Table 7.8). -/
structure ProductExec where
  addr : Nat
  flags : Nat
  function : Nat
  mask : Nat
  a : TensorDesc
  b : TensorDesc
  c : TensorDesc
  bias : Nat
  deriv : Option TensorDesc
  /-- Output tiles of 128 × 16 that have completed. -/
  done : List Nat
  deriving DecidableEq, Repr

/-- How a vector of an array layer is processed (R120 to R122, R281). -/
inductive VecKind where
  | normal
  | zero
  /-- The lowest non-finite input element (R122). -/
  | nonFinite (k : Nat)
  | mirror
  deriving DecidableEq, Repr

/-- What one tile contributes to a vector: 256 FP32 words (R115, R116), an exact zero of a tile that is not read
(R110), or NaN outputs of a free entry (Table 4.5). -/
inductive TileOut where
  | passed (ws : List Nat)
  | fallback (ws : List Nat)
  | skipped
  | free
  deriving DecidableEq, Repr

/-- The products of one diverted element with its column of the parameter tensor as the outlier engine formed them, by output: the
FP32 word, whether the product is 0 × ∞, and DEGRADED of the parameter line (R220). -/
structure Outlier where
  index : Nat
  terms : List (Nat × Bool × Bool)
  deriving DecidableEq, Repr

/-- One input vector of an execution (R120 to R126). -/
structure VecState where
  index : Nat
  kind : VecKind
  /-- KI4/32 blocks: scale and 32 codes each (R92). -/
  quant : List (Nat × List Nat)
  /-- x′ in FP32 words. -/
  xp : List Nat
  /-- Diverted elements: input index and BF16 word, ascending (R124, R125). -/
  diverted : List (Nat × Nat)
  /-- Diverted elements that wait in the deferred queue. -/
  deferredLeft : Nat
  clipped : Bool
  /-- The diverted elements served so far, ascending. -/
  outliers : List Outlier
  outs : Map (Option TileOut)
  deriving DecidableEq, Repr

/-- An array layer descriptor as loaded (Table 4.2), with the execution's progress. -/
structure ArrayExec where
  addr : Nat
  frozen : Bool
  sidePath : Bool
  k : Nat
  n : Nat
  vectors : Nat
  tiles : List Nat
  scaleAddr : Nat
  snapshot : TensorDesc
  param : TensorDesc
  input : TensorDesc
  output : TensorDesc
  rank : Nat
  bank : Nat
  tau : Nat
  theta : Nat
  limit : Nat
  status : Nat
  /-- LAYER_ID under R567, 0xFFFF for none. -/
  layer : Nat
  tag : Half
  vecs : List VecState
  /-- Vectors delivered so far, in order (R123). -/
  delivered : Nat
  /-- First clipped element raised (R126). -/
  clipRaised : Bool
  /-- FROZEN_TILE_READ raised (Table 4.5). -/
  frozenRaised : Bool
  /-- Tiles whose FREE_TILE_READ has been raised (Table 4.5). -/
  freeRaised : List Nat
  deriving DecidableEq, Repr

/-- Who waits for a descriptor: a submission entry, an entry of the loaded program, or a recompute descriptor. -/
inductive Owner where
  | sub (x : Nat) (sqIndex entryId flags : Nat)
  | entry (slot index : Nat) (mb cls weight : Nat) (lastGrad : Bool)
  | recompute (parent : Nat)
  deriving DecidableEq, Repr

/-- A row descriptor as loaded (R216). -/
structure RowExec where
  op : Nat
  causal : Bool
  x : Option TensorDesc
  y : Option TensorDesc
  dy : Option TensorDesc
  dx : Option TensorDesc
  mask : Option TensorDesc
  gamma : Option TensorDesc
  beta : Option TensorDesc
  stats : Option TensorDesc
  grad : Option TensorDesc
  scale : Fp
  eps : Fp
  offset : Int
  deriving DecidableEq, Repr

/-- A raster descriptor as loaded (Table 7.11). -/
structure RasterExec where
  packed12 : Bool
  bandSeq : Bool
  bands : Nat
  patch : Nat
  maskBand : Bool
  nodataEnable : Bool
  width : Nat
  height : Nat
  source : Nat
  rowBytes : Nat
  bandBytes : Nat
  gains : Nat
  nodata : Nat
  out : TensorDesc
  deriving DecidableEq, Repr

/-- A descriptor as its engine has loaded it, once, with every descriptor it points to (R200). -/
inductive Held where
  | product (x : ProductExec)
  | transpose (src dst : TensorDesc)
  | row (x : RowExec)
  | raster (x : RasterExec)
  | array (x : ArrayExec)
  | stashOut (t : TensorDesc) (key : Nat)
  | stashIn (t : TensorDesc) (key : Nat) (free : Bool)
  deriving DecidableEq, Repr

/-- Where a descriptor's execution stands. -/
inductive Phase where
  /-- Started; the descriptor has not been loaded. -/
  | started
  /-- Held back by a wait (host transfer, program load) before its descriptor is loaded; it is taken up again later. -/
  | waiting
  /-- Loaded, and not executing: a wait of R235 or R156 holds it, or its engine has not come to it (R200, R240). -/
  | held (x : Held)
  /-- A registered weight whose build waits while its older tag is live (R232, R236). -/
  | building (weight : Nat)
  | product (x : ProductExec)
  | array (x : ArrayExec)
  /-- Programming of the layer with this LAYER_ID (R150). -/
  | programming (layer programmed takenOver retired : Nat)
  /-- Release of a layer that waits for entries in calibrating (R151). -/
  | releasing (layer : Nat)
  /-- A stash OUT of this KEY and granule count, stalled (R253). -/
  | stalled (key granules : Nat) (t : TensorDesc)
  /-- A stash IN whose dropped tensor is recomputed: descriptor addresses left, KEY, FREE (R254). -/
  | recomputing (left : List Nat) (key : Nat) (free : Bool)
  /-- A host transfer: direction, host and channel address, length, bytes moved (R424). -/
  | transfer (toHost : Bool) (host chan length moved : Nat)
  /-- The loaded interleave program. -/
  | program
  /-- A group, plan, replica, barrier, fill or reset descriptor under way on this group. -/
  | group (g : Nat)
  /-- A FENCE or ABANDON entry that has begun and waits for what it names (Table 14.8). -/
  | begun
  /-- Ended with success; DESCRIPTOR_COMPLETE writes its completion. -/
  | ended (result0 result1 : Nat)
  deriving DecidableEq, Repr

/-- A descriptor under way on a channel. -/
structure Job where
  id : Nat
  owner : Owner
  /-- DESC of the entry. -/
  addr : Nat
  descType : Nat
  phase : Phase
  /-- Waits already counted: bank (R235), refresh (R156), gradient buffer (R250). -/
  counted : List Nat
  /-- Lowest invalid index of this execution by tensor descriptor address (R207). -/
  lowest : Map (Option Nat)
  deriving DecidableEq, Repr

/-! ### Weight arrays (04, 05, 06) -/

/-- Tile states (Table 4.4). -/
inductive TileState where
  | free
  | programmed
  | spare
  | loading
  | calibrating
  | suspect
  | frozen
  | retired
  deriving DecidableEq, Repr

/-- STATE code (Table 4.4). -/
def TileState.toNat : TileState → Nat
  | .free => 0
  | .programmed => 1
  | .spare => 2
  | .loading => 3
  | .calibrating => 4
  | .suspect => 5
  | .frozen => 6
  | .retired => 7

/-- A tile directory entry (Table 4.4). Its physical tile is position `pos` of its own spare group (R131);
PROGRAM_COUNT, WEIGHT_VERSION and CAL_TEMP belong to that physical tile. `wasSuspect` is the cartridge's record of an
entry that was suspect when its calibration began (R133). -/
structure DirEntry where
  state : TileState
  relapse : Bool
  pairValid : Bool
  pair : Nat
  pos : Nat
  wasSuspect : Bool
  deriving DecidableEq, Repr

/-- What a tile header holds (R107, R145). -/
structure TileHeader where
  checkGain : Half
  weightVersion : Byte
  result : Bool
  deriving DecidableEq, Repr

/-- A calibration record (Tables 6.1 and 6.2): 258 words of GAIN_CODE and OFFSET. -/
structure CalRecord where
  residual : Nat
  calTemp : Nat
  result : Nat
  count : Nat
  columns : List (Int × Int)
  deriving DecidableEq, Repr

/-- A record never written (Tables 6.1 and 6.2). -/
def CalRecord.blank : CalRecord := ⟨255, 0, 0, 0, []⟩

/-- A cartridge slot with the cartridge's own stores (R167, R174, R177). Tile numbers are die × 65,536 + die tile. -/
structure SlotState where
  latchClosed : Bool
  present : Bool
  /-- The number of the cartridge in the socket (Config.cartridge). -/
  cart : Nat
  status : Nat
  /-- Authenticated to the channel at the last attach: the slot's directory is live (R133). -/
  attached : Bool
  authResult : Nat
  certificate : List Byte
  serial : DWord
  ledgerDigest : List Byte
  /-- Directory entries of the slot by logical index within the slot. -/
  dir : Map DirEntry
  headers : Map (Option TileHeader)
  /-- What the cells of each tile were last programmed to (R106, R144): the target m of row i and column j under 256·i + j, a
  pair at g = 0 unlisted. -/
  cells : Map (Map Int)
  cal : Map CalRecord
  /-- Programs of each tile since delivery (R166). -/
  counts : Map Int
  /-- Attach parks of the spare position of every group (R171). -/
  homeParks : Nat
  total : Nat
  /-- Programs of the last 168 powered hours, newest first, the running hour excluded (R167). -/
  hours : List Nat
  hourNow : Nat
  thresholds : Nat
  bound : Option Nat
  poweredHours : Nat
  /-- Next tile of the attach sweep to start; none when no sweep runs (R186). -/
  sweep : Option Nat
  /-- CARTRIDGE_TEMP in 0.125 K from 0 °C, signed (R175). -/
  temp : Option Int
  triggerLost : Bool
  lastSweepEnd : DWord
  deriving DecidableEq, Repr

/-- A registered layer (R148, R150, R152). -/
structure Layer where
  id : Nat
  k : Nat
  n : Nat
  tiles : List Nat
  scaleAddr : Nat
  param : TensorDesc
  snapshot : TensorDesc
  basis : Nat
  factors : Nat
  rank : Nat
  frozen : Bool
  tag : Half
  /-- Version whose refresh is complete; none before the first. -/
  refreshed : Option Half
  /-- The next refresh is a full projection: the first, or the first after the mirror (R152). -/
  projectNext : Bool
  /-- Latest switch version of a fold that has switched (R162). -/
  switched : Option Half
  deriving DecidableEq, Repr

/-- A fold of the fold table (R158). -/
structure Fold where
  index : Nat
  entry : Nat
  layer : Nat
  ready : Bool
  source : Half
  switch : Option Half
  /-- A fallback with RELAPSE 1 met it: the old tile retires at the switch (Table 5.5). -/
  retire : Bool
  deriving DecidableEq, Repr

/-- What a tile program is for (R146): its class and what its end does. -/
inductive Purpose where
  /-- Retirement takeover of data entry `d`. -/
  | retire (d : Nat)
  /-- Calibration cover of data entry `d`. -/
  | cover (d : Nat)
  /-- First programming of data entry `d` for a layer. -/
  | first (d layer : Nat)
  /-- Spare program of the fold at this index. -/
  | fold (j : Nat)
  /-- Park of the tile of a spare entry. -/
  | park
  deriving DecidableEq, Repr

/-- A program waiting or running (R145 to R147). `entry` holds the physical tile being programmed. -/
structure TileProg where
  id : Nat
  purpose : Purpose
  entry : Nat
  again : Bool
  deriving DecidableEq, Repr

/-- Class of a program, 1 first (R146). -/
def Purpose.cls : Purpose → Nat
  | .retire _ => 1
  | .cover _ => 2
  | .first _ _ => 3
  | .fold _ => 4
  | .park => 5

/-- How a tile is calibrated (R183, R184, R186). -/
inductive CalMode where
  | covered
  | inPlace
  | spare
  | sweep
  deriving DecidableEq, Repr

/-- A calibration under way: slot side, tile, the entry calibrated and t_cal (R179). -/
structure TileCal where
  id : Nat
  side : Nat
  tile : Nat
  entry : Nat
  mode : CalMode
  tCal : Int
  deriving DecidableEq, Repr

/-- Where a tile read stands (R127, R134, R115): waiting for issue, or active on physical tile `tile` of `side`
with `n` reads made and the sums acc[r][j] as FP32 words, row after row. -/
inductive ReadPhase where
  | waiting
  | active (side tile : Nat) (spare : Bool) (n : Nat) (acc : List Nat)
  deriving DecidableEq, Repr

/-- A tile read of a vector (R127). `counted` marks a WRITE_WAITS or CAL_HOLD_WAITS already counted. -/
structure TileRead where
  id : Nat
  job : Nat
  vec : Nat
  entry : Nat
  phase : ReadPhase
  counted : Bool
  deriving DecidableEq, Repr

/-- A deferred outlier (R125): job, vector, input index, BF16 word. -/
structure Deferred where
  job : Nat
  vec : Nat
  index : Nat
  value : Nat
  deriving DecidableEq, Repr

/-- The array gateway and the programming sequencer of a channel. -/
structure Arrays where
  reads : List TileRead
  deferred : List Deferred
  layers : List Layer
  folds : List Fold
  /-- Layers whose refresh for the current version is outstanding: LAYER_ID, ascending (R152). -/
  refreshLeft : List Nat
  refreshVersion : Half
  refreshStep : Nat
  /-- Fold selection is outstanding (R157): residuals gathered so far, by entry, FP32 words. -/
  residuals : Map Nat
  progQueue : List TileProg
  progs : List TileProg
  retireWaits : List Nat
  calQueue : List Nat
  cals : List TileCal
  /-- Entries whose release waits for a calibration or a program to end (R151). -/
  releaseWaits : List Nat
  deriving DecidableEq, Repr

/-! ### The training step (08, 09) -/

/-- A registered weight (R230, R232). -/
structure Weight where
  id : Nat
  arrayLayer : Nat
  param0 : TensorDesc
  param1 : TensorDesc
  image0 : Option TensorDesc
  image1 : Option TensorDesc
  twin0 : Option TensorDesc
  twin1 : Option TensorDesc
  grad : TensorDesc
  /-- Tag held by each parameter bank, none when empty. -/
  held0 : Option Half
  held1 : Option Half
  /-- Tag built in each image bank. -/
  built0 : Option Half
  built1 : Option Half
  /-- The buffer has been handed over by the program of this STEP and is not wholly read (R250). -/
  handed : Option Nat
  deriving DecidableEq, Repr

/-- A slot entry as loaded (Table 8.3). -/
structure SlotEntry where
  desc : Nat
  after : Nat
  mb : Nat
  cls : Nat
  lastGrad : Bool
  weight : Nat
  deriving DecidableEq, Repr

/-- Progress of an entry of the current slot: idle, loaded and held back by a wait, started, or completed (R240). -/
inductive EntryState where
  | idle
  | loaded
  | running
  | done
  deriving DecidableEq, Repr

/-- The loaded interleave program (R238 to R241). -/
structure Program where
  job : Nat
  addr : Nat
  updateLag : Bool
  micro : Nat
  step : Nat
  slots : List (List SlotEntry)
  slot : Nat
  states : List EntryState
  /-- Micro-batches of which an entry has started (R236). -/
  begun : List Nat
  /-- Entries that waited under R250, counted. -/
  gradWaited : List Nat
  /-- Micro-batches held back under R236, counted. -/
  versionHeld : List Nat
  /-- Abandoned: status of Table 8.4, slot and entry, and the refused field (R241, R421). -/
  abandoned : Option (Nat × Nat × Nat × Option Refused)
  /-- LIVE_SERVICE was 0 when the program was loaded (R449, Table 15.7). -/
  quiet : Bool
  deriving DecidableEq, Repr

/-- A stashed tensor (R251): KEY, first granule, granules; or a dropped mark (R253). -/
structure Stashed where
  key : Nat
  first : Nat
  granules : Nat
  dropped : Bool
  tensor : TensorDesc
  deriving DecidableEq, Repr

/-- A silence watch (Table 9.6). -/
structure Watch where
  tensorId : Nat
  threshold : Nat
  silent : Nat
  enabled : Bool
  reached : Bool
  overflow : Bool
  lastStep : Nat
  deriving DecidableEq, Repr

/-- A watch after reset (Table 9.6). -/
def Watch.reset : Watch := ⟨0, 0, 0, false, false, false, 0⟩

/-- Blocks counted for a watch in a program's step (R272), with the watch's TENSOR_ID and THRESHOLD when the program was loaded
(R271). -/
structure SilenceCount where
  step : Nat
  watch : Nat
  tensorId : Nat
  threshold : Nat
  blocks : Nat
  nonzero : Bool
  deriving DecidableEq, Repr

/-- Weights, program, stash and watches of a channel. -/
structure Training where
  weights : List Weight
  /-- Versions whose build is outstanding, with the weights left (R233, R280). -/
  builds : List (Half × List Nat)
  program : Option Program
  stash : List Stashed
  recordSinceSeed : Bool
  watches : Map Watch
  /-- One count for each watch that was enabled when a program was loaded (R271, R272). -/
  silence : List SilenceCount
  deriving DecidableEq, Repr

/-! ### Host interface (14, 17) -/

/-- A completion entry before its PHASE is known (Table 14.9). -/
structure Completion where
  entryId : Nat
  sqIndex : Nat
  status : Nat
  result0 : Nat
  result1 : Nat
  time : DWord
  signal : Bool
  deriving DecidableEq, Repr

/-- Signal coalescing of a carousel (R411): records gathered, and when the first came. -/
structure Coalesce where
  count : Nat
  since : Option DWord
  deriving DecidableEq, Repr

/-- A context (Table 14.6) with its doorbells and the completions it holds (R422). -/
structure Context where
  enabled : Bool
  draining : Bool
  cqFull : Bool
  configError : Bool
  priority : Nat
  sqBase : Nat
  sqSize : Nat
  cqSize : Nat
  vector : Nat
  cqBase : Nat
  sqHead : Nat
  sqTail : Nat
  cqTail : Nat
  cqHead : Nat
  phase : Bool
  coalesceReg : Word
  gathered : Coalesce
  held : List Completion
  deriving DecidableEq, Repr

/-- Context block `x` after reset: CTX_VECTOR is x (Table 14.6). -/
def Context.reset (x : Nat) : Context :=
  ⟨false, false, false, false, 0, 0, 0, 0, x, 0, 0, 0, 0, 0, true, 0, ⟨0, none⟩, []⟩

/-- An event record before PHASE and SEQUENCE are known (Table 14.12). -/
structure Event where
  code : Nat
  source : Nat
  time : DWord
  data : List Byte
  lostBefore : Bool
  deriving DecidableEq, Repr

/-- The event carousel of a channel (R426). -/
structure Carousel where
  base : Nat
  control : Word
  tail : Nat
  head : Nat
  phase : Bool
  sequence : Word
  /-- Records held while the carousel is disabled, oldest first; at most 256. -/
  held : List Event
  lostPending : Bool
  gathered : Coalesce
  deriving DecidableEq, Repr

/-- Read-clear registers with an overflow bit (R14, Table 14.3). -/
structure RcCounter where
  value : Nat
  overflow : Bool
  deriving DecidableEq, Repr

/-- The host part of a channel. -/
structure HostPart where
  contexts : Map Context
  /-- Context after which the next fetch round begins (R418). -/
  lastFetched : Nat
  events : Carousel
  eventsLost : RcCounter
  doorbellErrors : RcCounter
  cqFullWaits : RcCounter
  deriving DecidableEq, Repr

/-- The mailbox (R428 to R430): the role is 0 operator, 1 installer, 2 maker. -/
structure Mailbox where
  busy : Bool
  done : Bool
  signal : Bool
  role : Nat
  /-- The request buffer, where written, and the last response. -/
  request : Map Byte
  response : List Byte
  deriving DecidableEq, Repr

/-- An MSI-X table entry (R410). -/
structure MsixEntry where
  address : DWord
  data : Word
  masked : Bool
  deriving DecidableEq, Repr

/-- The PCI Express endpoint, its registers and the mover (R403 to R411, R424). -/
structure Endpoint where
  linkUp : Bool
  busMaster : Bool
  /-- BAR2 size in GiB (R403). -/
  bar2 : Nat
  eventChannel : Nat
  /-- Records written into the module event FIFO, modulo 2³²; MODULE_EVENT_WRITE is its low 16 bits. -/
  eventWrite : Nat
  /-- MODULE_EVENT_READ. -/
  eventRead : Nat
  /-- The last records written, newest first: what MODULE_EVENTS shows. -/
  fifo : List Event
  fifoLostPending : Bool
  moduleEventsLost : RcCounter
  apertures : Map Nat
  msix : Map MsixEntry
  pending : Map Bool
  mailbox : Mailbox
  /-- Lower halves of 64-bit registers written and not yet completed (R406), by BAR0 offset. -/
  halves : Map (Option Word)
  /-- Channel after which the mover's next round begins (R424). -/
  lastMoved : Nat
  deriving DecidableEq, Repr

/-- A Miger session (R485 to R491). -/
structure Session where
  id : Nat
  role : Nat
  /-- Cipher and tag keys of the client's frames, and of the module's (R509). -/
  inCipher : List Byte
  inTag : List Byte
  outCipher : List Byte
  outTag : List Byte
  /-- SEQUENCE of the last frame accepted from the client. -/
  lastSeq : Word
  /-- SEQUENCE of the last accepted REQUEST and the stored RESPONSE body. -/
  lastRequest : Option (Word × List Byte)
  /-- SEQUENCE of the module's next frame. -/
  nextSeq : Word
  mask : Nat
  lowCode : Nat
  highCode : Nat
  queue : List Event
  lostPending : Bool
  /-- Outstanding NOTIFY: its SEQUENCE, its body, and the sends made (R491). -/
  outstanding : Option (Word × List Byte × Nat)
  challenge : Option (List Byte)
  /-- Timebase of the port complex when the last frame of the client was accepted. -/
  heard : DWord
  deriving DecidableEq, Repr

/-- An audit record (Table 18.8) without its SEQUENCE, which is its place in the log. -/
structure AuditRecord where
  kind : Nat
  role : Nat
  path : Nat
  time : DWord
  index : Nat
  sub : Nat
  offset : Nat
  length : Nat
  session : Nat
  value : List Byte
  chain : List Byte
  deriving DecidableEq, Repr

/-- An audit log (R517 to R520): the ring by SEQUENCE modulo its size, the next SEQUENCE, the last CHAIN, and what is
stored in flash. -/
structure AuditLog where
  records : Map (Option (Nat × AuditRecord))
  head : Word
  chain : List Byte
  /-- The log as last stored in flash: next SEQUENCE, CHAIN, and TIME of the last record stored. -/
  storedHead : Word
  storedChain : List Byte
  storedTime : Option DWord
  checkpoint : List Byte
  sinceCheckpoint : Nat
  deriving DecidableEq, Repr

/-- A link-control message, carried by a CONTROL flit (R294); the spec gives its content, not its layout. -/
inductive ControlMsg where
  | capability (version : Nat) (features : Half) (moduleNumber channel port : Nat) (serial : DWord)
      (replayDepth : Nat) (pools : List Nat)
  | goodbye
  | notice (n : Notice)
  | recalRequest
  | recalAck
  | recalRefuse
  /-- The retrain request of a version-2 link (Table 10.7). -/
  | retrainRequest
  deriving DecidableEq, Repr

/-- What has crossed the block's boundary: the model's own trace of answers and messages (log entry 8). -/
inductive Output where
  | readData (value : DWord)
  | msix (vector : Nat) (address : DWord) (data : Word)
  | odResponse (path : ReqPath) (status ty length offset : Nat) (data : List Byte)
  | frame (ftype : Nat) (session seq : Word) (body tag : List Byte)
  /-- The 640 bytes of a DATA or IDLE flit (Table 10.1). -/
  | flit (c : Chan) (p : Port) (bytes : List Byte)
  /-- The statement that a base die signs at an attach, and its signature (Table 18.5, step 3). -/
  | attachStatement (slot : Nat) (statement signature : List Byte)
  /-- A CONTROL flit: the acknowledgement of its link header, and its message (R294). -/
  | control (c : Chan) (p : Port) (ackSeq : BitVec 12) (ackValid : Bool) (m : ControlMsg)
  | readValues (vs : List Nat)
  /-- The status of each value of an ACCUMULATE_WRITE: the kind of Table 9.5 of its occurrence, 0 for none. -/
  | accumulateStatus (kinds : List Nat)
  | hostWrite (address : DWord) (data : List Byte)
  | hostRead (address : DWord) (length : Nat)
  deriving DecidableEq, Repr

end Sys2Proof.Machine
end

