-- ==== Sys2Proof/Machine/SecParts.lean ====
section
/-!
DEFINITION. The parts of the state that belong to firmware, identity and self-test, as plain data (15, 17, 18, 19).
-/

namespace Sys2Proof.Machine

/-- A flash bank: the image set in it, whether it counts as verified, and the FW_KEY slot under which it verified
(R439, R442, R503). -/
structure Bank where
  image : List Byte
  verified : Bool
  keySlot : Nat
  deriving DecidableEq, Repr

/-- The private keys of a die, in the memory of the core that uses them (R495): its identity key, and on the port complex the
ML-KEM-1024 decapsulation key. -/
structure Keys where
  identity : List Byte
  kem : List Byte
  deriving DecidableEq, Repr

/-- The firmware part of a channel or of the port complex, with its fuses (R442 to R445, R494, R500 to R504). -/
structure Firmware where
  bank0 : Bank
  bank1 : Bank
  /-- ACTIVE_BANK. -/
  active : Nat
  /-- The bank whose set runs; in TRIAL it is not the active bank. -/
  running : Nat
  /-- FW_STATE: IDLE 0, VERIFYING 1, WRITING 2, STAGED 3, TRIAL 4, FAILED 5. -/
  state : Nat
  /-- FW_RESULT. -/
  result : Nat
  /-- The set being verified or written, as read from where it was staged. -/
  staged : List Byte
  /-- 0 no trial boot; 1 the next boot is a trial of the inactive bank; 2 that boot has begun and READY has not come
  (Table 15.5, steps 5 and 6); 3 READY is late, and the next boot rolls back (R444). -/
  trial : Nat
  /-- Bytes of RECOVERY_IMAGE or PORT_IMAGE written so far. -/
  incoming : List Byte
  /-- FW_KEY_REVOKED fuses. -/
  revoked : Nat
  /-- SECURITY_VERSION_MIN, fused. -/
  securityMin : Nat
  /-- DEBUG_COUNT, fused. -/
  debugCount : Nat
  /-- DEBUG_STATE. -/
  debugState : Nat
  /-- BOOT_STATE: 0 normal, 1 fallback, 2 boot-held. -/
  bootState : Nat
  /-- The keys derived at the last boot; none while the core rail is off, and once scan and debug have opened (Table 18.4 step 2,
  Table 18.9 step 3). -/
  keys : Option Keys
  deriving DecidableEq, Repr

/-- The attestation of a channel (R507). -/
structure Attest where
  nonce : List Byte
  signing : Bool
  report : Option (List Byte)
  deriving DecidableEq, Repr

/-- A self-test on demand that runs (R537, R538), with the digest of the saved copy. -/
structure SelfTest where
  region : Nat
  compat : Bool
  digest : List Byte
  deriving DecidableEq, Repr

/-- A part of a SESSION_INIT, by its sender and its index (R487). -/
structure InitPart where
  client : Nat
  part : Nat
  body : List Byte
  deriving DecidableEq, Repr

/-- Credentials and challenges of the module (R514 to R516). -/
structure Credentials where
  installerSecret : List Byte
  makerSecret : List Byte
  /-- The mailbox's outstanding challenge. -/
  challenge : Option (List Byte)
  /-- Consecutive refusals on the mailbox and across all Miger sessions. -/
  mailboxRefusals : Nat
  migerRefusals : Nat
  mailboxLocked : Bool
  migerLocked : Bool
  deriving DecidableEq, Repr

end Sys2Proof.Machine
end

