-- ==== Sys2Proof/Machine/Identity.lean ====
section
/-!
DEFINITION. The keys that each die derives from its seed, signatures, and the chain of certificates (18 R494 to R497).
-/

namespace Sys2Proof.Machine

/-- ASCII bytes of a string. -/
def ascii (t : String) : List Byte := t.toList.map (fun ch => BitVec.ofNat 8 ch.toNat)

/-- A list brought to `n` bytes: the fixed sizes of keys and signatures. -/
def sized (n : Nat) (l : List Byte) : List Byte := (l ++ List.replicate n 0#8).take n

/-! ### Derived keys (R495, Table 18.2) -/

/-- The material of a key: SHAKE256 of the die's seed and an ASCII label. -/
def keyMaterial (die : Nat) (label : String) (n : Nat) : List Byte :=
  shake256 (sized 64 (Config.deviceSeed die) ++ ascii label) n

/-- slh_keygen_internal for SLH-DSA-SHAKE-256f on SK.seed, SK.prf and PK.seed, 32 bytes each in this order: the public key
PK.seed ‖ PK.root and the private key SK.seed ‖ SK.prf ‖ PK.seed ‖ PK.root (FIPS 205). -/
def slhKeyGen (material : List Byte) : List Byte × List Byte :=
  let skSeed := material.take 32
  let pkSeed := (material.drop 64).take 32
  let publicKey := pkSeed ++ sized 32 (Config.slhRoot skSeed pkSeed)
  (publicKey, skSeed ++ (material.drop 32).take 32 ++ publicKey)

/-- The identity key pair of a die: public, private. -/
def identityKey (die : Nat) : List Byte × List Byte := slhKeyGen (keyMaterial die "KLN-ID" 96)

/-- The field encapsulation key pair of the port complex: FIELD_KEM_KEY of 1,568 bytes, and the decapsulation key; d and z are
the halves of the material. -/
def fieldKemKey : List Byte × List Byte :=
  let m := keyMaterial 4 "KLN-KEM" 64
  let k := Config.kemKeyGen (m.take 32) (m.drop 32)
  (sized 1568 k.1, k.2)

/-- The ledger key of cartridge `cart`. -/
def ledgerKey (cart : Nat) : List Byte := keyMaterial (5 + cart) "KLN-LEDGER" 32

/-- The private keys that a boot derives into the core that uses them (R495, Table 18.4 step 2). -/
def deriveKeys (die : Nat) : Keys := ⟨(identityKey die).2, if die = 4 then fieldKemKey.2 else []⟩

/-- The identity signature of a die over a message, 49,856 bytes (R496, Table 18.3). A die without its key signs nothing: it is
in P3 or P4, or its scan and debug are open, and no caller is then reached (R522). -/
def Firmware.sign (f : Firmware) (message : List Byte) : List Byte :=
  sized 49856 (Config.slhSign ((f.keys.map Keys.identity).getD []) message)

/-! ### Certificates (R497) -/

/-- notAfter of every device certificate. -/
def noExpiry : List Byte := ascii "99991231235959Z"

/-- A certificate under the root, 0, or the issuing key, 1. -/
def certify (which : Nat) (t : CertFields) : List Byte :=
  Config.derCertificate (Config.derFields t) (sized 29792 (Config.authoritySign which (Config.derFields t)))

/-- The root certificate, self-signed under ROOT_KEY. -/
def rootCert : List Byte :=
  certify 0 ⟨Config.authorityName 0, Config.authorityName 0, .slhDsaShake256s, sized 64 Config.rootKey, none,
    (Config.authorityDates 0).1, (Config.authorityDates 0).2⟩

/-- The issuing certificate, signed by the root. -/
def issuingCert : List Byte :=
  certify 0 ⟨Config.authorityName 0, Config.authorityName 1, .slhDsaShake256s, sized 64 Config.issuingKey, none,
    (Config.authorityDates 1).1, (Config.authorityDates 1).2⟩

/-- A device certificate, signed by the issuing key. -/
def deviceCert (subject : List Byte) (a : KeyAlgorithm) (key : List Byte) (u : KeyUsage) (date : Word) : List Byte :=
  certify 1 ⟨Config.authorityName 1, subject, a, key, some u, date, noExpiry⟩

/-- Subject CN of a die of the module: the serial in decimal, and CH‹c› or PORT. -/
def moduleSubject (die : Nat) : List Byte :=
  ascii "KLN-3240 " ++ ascii (toString Config.moduleSerial.toNat) ++
    (if die = 4 then ascii " PORT" else ascii " CH" ++ ascii (toString die))

/-- CHANNEL_CERT of a channel, and MODULE_CERT for die 4. -/
def identityCert (die : Nat) : List Byte :=
  deviceCert (moduleSubject die) .slhDsaShake256f (identityKey die).1 .digitalSignature Config.manufactureDate

/-- FIELD_KEM_CERT. -/
def fieldKemCert : List Byte :=
  deviceCert (moduleSubject 4) .mlKem1024 fieldKemKey.1 .keyEncipherment Config.manufactureDate

/-- The certificate that the base die of a cartridge holds. -/
def cartridgeCert (cart : Nat) : List Byte :=
  deviceCert (ascii "KLC-34 " ++ ascii (toString (Config.cartridgeSerial cart).toNat)) .slhDsaShake256f
    (identityKey (5 + cart)).1 .digitalSignature (Config.cartridgeDate cart)

/-- A certificate or a raw public key that the module serves (Tables 18.11 and 18.12); `c` is the channel of an entry of
0x1110. -/
def certificateOf (base c sub : Nat) : List Byte :=
  if base = 0x1110 then identityCert c
  else if sub = 0x10 then rootCert
  else if sub = 0x11 then issuingCert
  else if sub = 0x12 then identityCert 4
  else if sub = 0x13 then fieldKemCert
  else fieldKemKey.1

end Sys2Proof.Machine
end

