-- ==== Sys2Proof/Machine/OdTable.lean ====
section
/-!
DEFINITION. The object dictionary's entries: index, type, access by role, default, range and class (17_object_dictionary.md
R475 to R480 and the entry tables of every chapter).
-/

namespace Sys2Proof.Machine

/-- One row of an entry table. `stride` and `count` give the index step and the number of channels or slots (Table 17.2);
subindices run from `lo` to `hi`; `ty` is the code of Table 17.1; `access` holds the codes 0 none, 1 RO, 2 RW, 3 WO, 4 W1C,
5 RC, 6 RWS of operator, installer and maker (Table 17.4); `range` is the least and greatest value, (0, 0) for none. -/
structure OdRow where
  index : Nat
  stride : Nat
  count : Nat
  lo : Nat
  hi : Nat
  ty : Nat
  access : Nat × Nat × Nat
  default : Nat
  range : Nat × Nat
  persistent : Bool
  deriving DecidableEq, Repr

/-- Entries at 0x1000 (Tables 17.3). -/
def odRows1000 : List OdRow := [
  ⟨0x1000, 0, 1, 0x01, 0x01, 8, (1, 1, 1), 0, (0, 0), false⟩,
  ⟨0x1000, 0, 1, 0x02, 0x02, 8, (1, 1, 1), 0, (0, 0), false⟩,
  ⟨0x1000, 0, 1, 0x03, 0x03, 5, (1, 1, 1), 0, (0, 0), false⟩,
  ⟨0x1000, 0, 1, 0x04, 0x04, 3, (1, 1, 1), 0, (0, 0), false⟩,
  ⟨0x1000, 0, 1, 0x05, 0x05, 4, (1, 1, 1), 0, (0, 0), false⟩,
  ⟨0x1000, 0, 1, 0x06, 0x06, 5, (1, 1, 1), 0, (0, 0), false⟩,
  ⟨0x1000, 0, 1, 0x07, 0x07, 4, (1, 1, 1), 0, (0, 0), false⟩,
  ⟨0x1000, 0, 1, 0x08, 0x08, 8, (1, 2, 2), 0, (0, 0), true⟩,
  ⟨0x1000, 0, 1, 0x20, 0x20, 9, (1, 1, 1), 0, (0, 0), false⟩]

/-- Entries at 0x1010 (Tables 17.8). -/
def odRows1010 : List OdRow := [
  ⟨0x1010, 0, 1, 0x01, 0x01, 2, (1, 2, 2), 255, (0, 0), true⟩,
  ⟨0x1010, 0, 1, 0x02, 0x02, 2, (1, 2, 2), 8, (1, 255), true⟩,
  ⟨0x1010, 0, 1, 0x03, 0x03, 2, (1, 2, 2), 0, (0, 255), true⟩,
  ⟨0x1010, 0, 1, 0x04, 0x04, 2, (1, 2, 2), 32, (1, 255), true⟩,
  ⟨0x1010, 0, 1, 0x05, 0x05, 3, (1, 2, 2), 60, (5, 3600), true⟩,
  ⟨0x1010, 0, 1, 0x06, 0x06, 2, (1, 1, 1), 0, (0, 0), false⟩,
  ⟨0x1010, 0, 1, 0x07, 0x07, 2, (1, 1, 1), 0, (0, 0), false⟩,
  ⟨0x1010, 0, 1, 0x1F, 0x1F, 4, (4, 4, 4), 0, (0, 0), false⟩,
  ⟨0x1010, 0, 1, 0x20, 0x20, 5, (2, 2, 2), 0, (0, 0), false⟩,
  ⟨0x1010, 0, 1, 0x21, 0x21, 5, (2, 2, 2), 0, (0, 0), false⟩,
  ⟨0x1010, 0, 1, 0x22, 0x22, 5, (2, 2, 2), 0, (0, 0), false⟩,
  ⟨0x1010, 0, 1, 0x23, 0x23, 5, (2, 2, 2), 0, (0, 0), false⟩]

/-- Entries at 0x1100 (Tables 18.11). -/
def odRows1100 : List OdRow := [
  ⟨0x1100, 0, 1, 0x01, 0x01, 2, (1, 1, 1), 0, (0, 0), false⟩,
  ⟨0x1100, 0, 1, 0x02, 0x02, 9, (1, 1, 1), 0, (0, 0), false⟩,
  ⟨0x1100, 0, 1, 0x03, 0x03, 10, (0, 3, 3), 0, (0, 0), false⟩,
  ⟨0x1100, 0, 1, 0x10, 0x10, 10, (1, 1, 1), 0, (0, 0), false⟩,
  ⟨0x1100, 0, 1, 0x11, 0x11, 10, (1, 1, 1), 0, (0, 0), false⟩,
  ⟨0x1100, 0, 1, 0x12, 0x12, 10, (1, 1, 1), 0, (0, 0), false⟩,
  ⟨0x1100, 0, 1, 0x13, 0x13, 10, (1, 1, 1), 0, (0, 0), false⟩,
  ⟨0x1100, 0, 1, 0x14, 0x14, 10, (1, 1, 1), 0, (0, 0), false⟩,
  ⟨0x1100, 0, 1, 0x15, 0x15, 4, (1, 1, 1), 0, (0, 0), false⟩,
  ⟨0x1100, 0, 1, 0x16, 0x16, 2, (1, 1, 2), 0, (0, 0), false⟩,
  ⟨0x1100, 0, 1, 0x20, 0x20, 9, (1, 1, 1), 0, (0, 0), false⟩,
  ⟨0x1100, 0, 1, 0x21, 0x21, 4, (1, 1, 1), 0, (0, 0), false⟩,
  ⟨0x1100, 0, 1, 0x22, 0x22, 9, (1, 1, 1), 0, (0, 0), false⟩,
  ⟨0x1100, 0, 1, 0x2F, 0x2F, 4, (4, 4, 4), 0, (0, 0), false⟩,
  ⟨0x1100, 0, 1, 0x30, 0x30, 5, (2, 2, 2), 0, (0, 0), false⟩,
  ⟨0x1100, 0, 1, 0x31, 0x31, 5, (2, 2, 2), 0, (0, 0), false⟩]

/-- Entries at 0x1110 (Tables 18.12). -/
def odRows1110 : List OdRow := [
  ⟨0x1110, 1, 4, 0x01, 0x01, 10, (1, 1, 1), 0, (0, 0), false⟩,
  ⟨0x1110, 1, 4, 0x02, 0x02, 2, (1, 1, 2), 0, (0, 0), false⟩,
  ⟨0x1110, 1, 4, 0x03, 0x03, 1, (1, 1, 2), 0, (0, 0), false⟩,
  ⟨0x1110, 1, 4, 0x04, 0x04, 2, (1, 1, 1), 0, (0, 0), false⟩,
  ⟨0x1110, 1, 4, 0x05, 0x05, 2, (1, 1, 1), 0, (0, 0), false⟩,
  ⟨0x1110, 1, 4, 0x06, 0x06, 2, (1, 1, 1), 0, (0, 0), false⟩,
  ⟨0x1110, 1, 4, 0x10, 0x10, 9, (2, 2, 2), 0, (0, 0), false⟩,
  ⟨0x1110, 1, 4, 0x11, 0x11, 9, (1, 1, 1), 0, (0, 0), false⟩,
  ⟨0x1110, 1, 4, 0x20, 0x20, 9, (1, 1, 1), 0, (0, 0), false⟩,
  ⟨0x1110, 1, 4, 0x21, 0x21, 4, (1, 1, 1), 0, (0, 0), false⟩,
  ⟨0x1110, 1, 4, 0x22, 0x22, 9, (1, 1, 1), 0, (0, 0), false⟩,
  ⟨0x1110, 1, 4, 0x23, 0x23, 3, (1, 2, 2), 1024, (64, 32768), true⟩,
  ⟨0x1110, 1, 4, 0x30, 0x30, 9, (0, 3, 3), 0, (0, 0), false⟩,
  ⟨0x1110, 1, 4, 0x3F, 0x3F, 4, (4, 4, 4), 0, (0, 0), false⟩,
  ⟨0x1110, 1, 4, 0x40, 0x40, 5, (2, 2, 2), 0, (0, 0), false⟩,
  ⟨0x1110, 1, 4, 0x41, 0x41, 5, (2, 2, 2), 0, (0, 0), false⟩,
  ⟨0x1110, 1, 4, 0x42, 0x42, 5, (2, 2, 2), 0, (0, 0), false⟩,
  ⟨0x1110, 1, 4, 0x43, 0x43, 5, (2, 2, 2), 0, (0, 0), false⟩]

/-- Entries at 0x1120 (Tables 18.13). -/
def odRows1120 : List OdRow := [
  ⟨0x1120, 1, 8, 0x01, 0x01, 10, (1, 1, 1), 0, (0, 0), false⟩,
  ⟨0x1120, 1, 8, 0x02, 0x02, 5, (1, 1, 1), 0, (0, 0), false⟩,
  ⟨0x1120, 1, 8, 0x03, 0x03, 2, (1, 1, 1), 0, (0, 0), false⟩,
  ⟨0x1120, 1, 8, 0x04, 0x04, 9, (1, 1, 1), 0, (0, 0), false⟩]

/-- Entries at 0x2000 (Tables 16.10). -/
def odRows2000 : List OdRow := [
  ⟨0x2000, 256, 4, 0x01, 0x01, 3, (2, 2, 2), 750, (0, 0), false⟩,
  ⟨0x2000, 256, 4, 0x02, 0x02, 3, (1, 1, 1), 0, (0, 0), false⟩,
  ⟨0x2000, 256, 4, 0x03, 0x03, 3, (2, 2, 2), 880, (0, 0), false⟩,
  ⟨0x2000, 256, 4, 0x04, 0x04, 4, (2, 2, 2), 55051040, (0, 0), false⟩,
  ⟨0x2000, 256, 4, 0x05, 0x05, 4, (2, 2, 2), 44565136, (0, 0), false⟩,
  ⟨0x2000, 256, 4, 0x06, 0x06, 4, (4, 4, 4), 269488128, (0, 0), false⟩,
  ⟨0x2000, 256, 4, 0x07, 0x07, 7, (1, 1, 1), 0, (0, 0), false⟩,
  ⟨0x2000, 256, 4, 0x08, 0x08, 7, (1, 1, 1), 0, (0, 0), false⟩,
  ⟨0x2000, 256, 4, 0x1F, 0x1F, 4, (4, 4, 4), 0, (0, 0), false⟩,
  ⟨0x2000, 256, 4, 0x20, 0x22, 5, (2, 2, 2), 0, (0, 0), false⟩,
  ⟨0x2000, 256, 4, 0x23, 0x23, 5, (2, 2, 2), 0, (0, 0), false⟩,
  ⟨0x2000, 256, 4, 0x24, 0x24, 5, (2, 2, 2), 0, (0, 0), false⟩]

/-- Entries at 0x2800 (Tables 16.12). -/
def odRows2800 : List OdRow := [
  ⟨0x2800, 0, 1, 0x01, 0x04, 2, (2, 2, 2), 4, (0, 0), false⟩,
  ⟨0x2800, 0, 1, 0x10, 0x10, 7, (1, 1, 1), 0, (0, 0), false⟩,
  ⟨0x2800, 0, 1, 0x11, 0x11, 7, (1, 1, 1), 0, (0, 0), false⟩,
  ⟨0x2800, 0, 1, 0x12, 0x12, 7, (2, 2, 2), 1119748096, (0, 0), false⟩,
  ⟨0x2800, 0, 1, 0x13, 0x13, 7, (2, 2, 2), 1120403456, (0, 0), false⟩,
  ⟨0x2800, 0, 1, 0x1F, 0x1F, 4, (4, 4, 4), 0, (0, 0), false⟩,
  ⟨0x2800, 0, 1, 0x20, 0x20, 5, (2, 2, 2), 0, (0, 0), false⟩,
  ⟨0x2800, 0, 1, 0x21, 0x21, 5, (2, 2, 2), 0, (0, 0), false⟩]

/-- Entries at 0x3000 (Tables 16.11). -/
def odRows3000 : List OdRow := [
  ⟨0x3000, 256, 4, 0x01, 0x01, 2, (1, 2, 2), 50, (0, 0), true⟩,
  ⟨0x3000, 256, 4, 0x02, 0x02, 2, (1, 2, 2), 1, (0, 0), true⟩,
  ⟨0x3000, 256, 4, 0x03, 0x03, 2, (1, 2, 2), 255, (0, 0), true⟩,
  ⟨0x3000, 256, 4, 0x04, 0x04, 4, (1, 2, 2), 37449, (0, 0), true⟩,
  ⟨0x3000, 256, 4, 0x05, 0x05, 3, (1, 2, 2), 16, (2, 1024), true⟩,
  ⟨0x3000, 256, 4, 0x06, 0x06, 2, (1, 1, 1), 0, (0, 0), false⟩,
  ⟨0x3000, 256, 4, 0x10, 0x17, 6, (1, 1, 1), 0, (0, 0), false⟩,
  ⟨0x3000, 256, 4, 0x20, 0x27, 7, (1, 1, 1), 0, (0, 0), false⟩,
  ⟨0x3000, 256, 4, 0x30, 0x37, 5, (1, 1, 1), 0, (0, 0), false⟩,
  ⟨0x3000, 256, 4, 0x3F, 0x3F, 4, (4, 4, 4), 0, (0, 0), false⟩,
  ⟨0x3000, 256, 4, 0x40, 0x40, 5, (2, 2, 2), 0, (0, 0), false⟩,
  ⟨0x3000, 256, 4, 0x41, 0x41, 5, (2, 2, 2), 0, (0, 0), false⟩,
  ⟨0x3000, 256, 4, 0x42, 0x42, 5, (2, 2, 2), 0, (0, 0), false⟩]

/-- Entries at 0x4010 (Tables 5.8, 6.4). -/
def odRows4010 : List OdRow := [
  ⟨0x4010, 1, 8, 0x01, 0x01, 5, (1, 1, 1), 0, (0, 0), false⟩,
  ⟨0x4010, 1, 8, 0x02, 0x02, 5, (1, 1, 1), 26214400000, (0, 0), false⟩,
  ⟨0x4010, 1, 8, 0x03, 0x03, 4, (1, 1, 1), 100000, (0, 0), false⟩,
  ⟨0x4010, 1, 8, 0x04, 0x04, 3, (1, 1, 1), 0, (0, 0), false⟩,
  ⟨0x4010, 1, 8, 0x05, 0x05, 2, (1, 1, 1), 0, (0, 0), false⟩,
  ⟨0x4010, 1, 8, 0x06, 0x06, 5, (1, 1, 1), 0, (0, 0), false⟩,
  ⟨0x4010, 1, 8, 0x07, 0x07, 2, (1, 1, 1), 0, (0, 0), false⟩,
  ⟨0x4010, 1, 8, 0x08, 0x08, 4, (1, 1, 1), 0, (0, 0), false⟩,
  ⟨0x4010, 1, 8, 0x09, 0x09, 4, (1, 1, 1), 0, (0, 0), false⟩,
  ⟨0x4010, 1, 8, 0x0A, 0x0A, 4, (1, 1, 1), 0, (0, 0), false⟩,
  ⟨0x4010, 1, 8, 0x0B, 0x0B, 4, (1, 1, 1), 0, (0, 0), false⟩,
  ⟨0x4010, 1, 8, 0x0C, 0x0C, 4, (1, 1, 1), 0, (0, 0), false⟩,
  ⟨0x4010, 1, 8, 0x0D, 0x0D, 4, (1, 1, 1), 0, (0, 0), false⟩,
  ⟨0x4010, 1, 8, 0x0E, 0x0E, 4, (1, 1, 1), 0, (0, 0), false⟩,
  ⟨0x4010, 1, 8, 0x0F, 0x0F, 2, (1, 1, 1), 0, (0, 0), false⟩,
  ⟨0x4010, 1, 8, 0x10, 0x10, 7, (1, 1, 1), 0, (0, 0), false⟩,
  ⟨0x4010, 1, 8, 0x11, 0x11, 7, (1, 1, 1), 0, (0, 0), false⟩,
  ⟨0x4010, 1, 8, 0x12, 0x12, 7, (1, 1, 1), 0, (0, 0), false⟩,
  ⟨0x4010, 1, 8, 0x13, 0x13, 4, (1, 1, 1), 0, (0, 0), false⟩,
  ⟨0x4010, 1, 8, 0x14, 0x14, 5, (1, 1, 1), 0, (0, 0), false⟩,
  ⟨0x4010, 1, 8, 0x15, 0x15, 1, (1, 1, 1), 0, (0, 0), false⟩]

/-- Entries at 0x4100 (Tables 4.7, 5.7, 6.3). -/
def odRows4100a : List OdRow := [
  ⟨0x4100, 256, 4, 0x01, 0x08, 4, (1, 1, 1), 0, (0, 0), false⟩,
  ⟨0x4100, 256, 4, 0x10, 0x10, 7, (1, 2, 2), 1103101952, (1056964608, 1149239296), true⟩,
  ⟨0x4100, 256, 4, 0x11, 0x11, 2, (1, 2, 2), 4, (1, 8), true⟩,
  ⟨0x4100, 256, 4, 0x1F, 0x1F, 4, (4, 4, 4), 0, (0, 0), false⟩,
  ⟨0x4100, 256, 4, 0x20, 0x20, 5, (2, 2, 2), 0, (0, 0), false⟩,
  ⟨0x4100, 256, 4, 0x21, 0x21, 5, (2, 2, 2), 0, (0, 0), false⟩,
  ⟨0x4100, 256, 4, 0x22, 0x22, 5, (2, 2, 2), 0, (0, 0), false⟩,
  ⟨0x4100, 256, 4, 0x23, 0x23, 5, (2, 2, 2), 0, (0, 0), false⟩,
  ⟨0x4100, 256, 4, 0x24, 0x24, 5, (2, 2, 2), 0, (0, 0), false⟩,
  ⟨0x4100, 256, 4, 0x25, 0x25, 5, (2, 2, 2), 0, (0, 0), false⟩,
  ⟨0x4100, 256, 4, 0x26, 0x26, 5, (2, 2, 2), 0, (0, 0), false⟩,
  ⟨0x4100, 256, 4, 0x27, 0x27, 5, (2, 2, 2), 0, (0, 0), false⟩,
  ⟨0x4100, 256, 4, 0x28, 0x28, 5, (2, 2, 2), 0, (0, 0), false⟩,
  ⟨0x4100, 256, 4, 0x29, 0x29, 5, (2, 2, 2), 0, (0, 0), false⟩,
  ⟨0x4100, 256, 4, 0x2A, 0x2A, 5, (2, 2, 2), 0, (0, 0), false⟩,
  ⟨0x4100, 256, 4, 0x2B, 0x2B, 5, (2, 2, 2), 0, (0, 0), false⟩,
  ⟨0x4100, 256, 4, 0x2C, 0x2C, 5, (2, 2, 2), 0, (0, 0), false⟩,
  ⟨0x4100, 256, 4, 0x2D, 0x2D, 5, (2, 2, 2), 0, (0, 0), false⟩,
  ⟨0x4100, 256, 4, 0x2E, 0x2E, 5, (2, 2, 2), 0, (0, 0), false⟩,
  ⟨0x4100, 256, 4, 0x2F, 0x2F, 5, (2, 2, 2), 0, (0, 0), false⟩,
  ⟨0x4100, 256, 4, 0x30, 0x30, 3, (2, 2, 2), 0, (0, 0), false⟩,
  ⟨0x4100, 256, 4, 0x31, 0x31, 5, (2, 2, 2), 0, (0, 0), false⟩,
  ⟨0x4100, 256, 4, 0x32, 0x32, 5, (2, 2, 2), 0, (0, 0), false⟩,
  ⟨0x4100, 256, 4, 0x33, 0x33, 5, (2, 2, 2), 0, (0, 0), false⟩]

/-- Entries at 0x4100 (Tables 4.7, 5.7, 6.3). -/
def odRows4100b : List OdRow := [
  ⟨0x4100, 256, 4, 0x34, 0x34, 5, (2, 2, 2), 0, (0, 0), false⟩,
  ⟨0x4100, 256, 4, 0x35, 0x35, 5, (2, 2, 2), 0, (0, 0), false⟩,
  ⟨0x4100, 256, 4, 0x36, 0x36, 5, (2, 2, 2), 0, (0, 0), false⟩,
  ⟨0x4100, 256, 4, 0x37, 0x37, 5, (2, 2, 2), 0, (0, 0), false⟩,
  ⟨0x4100, 256, 4, 0x40, 0x40, 9, (1, 1, 1), 0, (0, 0), false⟩,
  ⟨0x4100, 256, 4, 0x50, 0x50, 7, (1, 2, 2), 1017370378, (981668463, 1056964608), true⟩,
  ⟨0x4100, 256, 4, 0x51, 0x51, 3, (1, 2, 2), 16, (1, 4096), true⟩,
  ⟨0x4100, 256, 4, 0x52, 0x52, 3, (1, 2, 2), 2048, (0, 4096), true⟩,
  ⟨0x4100, 256, 4, 0x53, 0x53, 5, (2, 2, 2), 0, (0, 0), false⟩,
  ⟨0x4100, 256, 4, 0x54, 0x54, 3, (1, 1, 1), 0, (0, 0), false⟩,
  ⟨0x4100, 256, 4, 0x55, 0x55, 3, (1, 1, 1), 0, (0, 0), false⟩,
  ⟨0x4100, 256, 4, 0x60, 0x60, 7, (1, 2, 2), 1073741824, (1056964608, 1092616192), true⟩,
  ⟨0x4100, 256, 4, 0x61, 0x61, 7, (1, 2, 2), 1069547520, (1048576000, 1082130432), true⟩,
  ⟨0x4100, 256, 4, 0x62, 0x62, 4, (1, 1, 1), 0, (0, 0), false⟩,
  ⟨0x4100, 256, 4, 0x63, 0x63, 4, (2, 2, 2), 0, (0, 0), false⟩,
  ⟨0x4100, 256, 4, 0x64, 0x64, 9, (1, 1, 1), 0, (0, 0), false⟩]

/-- Entries at 0x5000 (Tables 10.12). -/
def odRows5000 : List OdRow := [
  ⟨0x5000, 0, 1, 0x01, 0x01, 3, (1, 2, 2), 65535, (0, 32767), true⟩,
  ⟨0x5000, 0, 1, 0x02, 0x02, 1, (1, 1, 1), 0, (0, 0), false⟩,
  ⟨0x5000, 0, 1, 0x03, 0x03, 4, (1, 2, 2), 5000, (1000, 60000), true⟩]

/-- Entries at 0x5010 (Tables 11.8). -/
def odRows5010 : List OdRow := [
  ⟨0x5010, 1, 4, 0x01, 0x01, 3, (1, 1, 1), 0, (0, 0), false⟩,
  ⟨0x5010, 1, 4, 0x02, 0x02, 3, (2, 2, 2), 0, (0, 0), false⟩,
  ⟨0x5010, 1, 4, 0x03, 0x03, 4, (1, 1, 1), 0, (0, 0), false⟩,
  ⟨0x5010, 1, 4, 0x04, 0x04, 4, (1, 1, 1), 0, (0, 0), false⟩,
  ⟨0x5010, 1, 4, 0x05, 0x05, 3, (1, 1, 1), 0, (0, 0), false⟩,
  ⟨0x5010, 1, 4, 0x06, 0x06, 4, (1, 1, 1), 0, (0, 0), false⟩,
  ⟨0x5010, 1, 4, 0x07, 0x07, 4, (1, 1, 1), 0, (0, 0), false⟩,
  ⟨0x5010, 1, 4, 0x08, 0x08, 2, (1, 1, 1), 0, (0, 0), false⟩,
  ⟨0x5010, 1, 4, 0x10, 0x10, 4, (1, 2, 2), 50, (10, 10000), true⟩,
  ⟨0x5010, 1, 4, 0x11, 0x11, 4, (1, 2, 2), 500, (100, 1000000), true⟩,
  ⟨0x5010, 1, 4, 0x12, 0x12, 4, (1, 2, 2), 2000, (100, 60000), true⟩,
  ⟨0x5010, 1, 4, 0x1F, 0x1F, 4, (4, 4, 4), 0, (0, 0), false⟩,
  ⟨0x5010, 1, 4, 0x20, 0x20, 5, (2, 2, 2), 0, (0, 0), false⟩,
  ⟨0x5010, 1, 4, 0x21, 0x21, 5, (2, 2, 2), 0, (0, 0), false⟩,
  ⟨0x5010, 1, 4, 0x22, 0x22, 5, (2, 2, 2), 0, (0, 0), false⟩,
  ⟨0x5010, 1, 4, 0x30, 0x30, 9, (1, 1, 1), 0, (0, 0), false⟩]

/-- Entries at 0x5020 (Tables 12.13). -/
def odRows5020 : List OdRow := [
  ⟨0x5020, 1, 4, 0x01, 0x01, 3, (2, 2, 2), 65535, (0, 0), false⟩,
  ⟨0x5020, 1, 4, 0x02, 0x02, 5, (2, 2, 2), 0, (0, 0), false⟩,
  ⟨0x5020, 1, 4, 0x03, 0x03, 5, (2, 2, 2), 0, (0, 0), false⟩,
  ⟨0x5020, 1, 4, 0x04, 0x04, 4, (1, 2, 2), 60000, (100, 3600000), true⟩,
  ⟨0x5020, 1, 4, 0x05, 0x05, 2, (1, 1, 1), 0, (0, 0), false⟩,
  ⟨0x5020, 1, 4, 0x06, 0x06, 2, (1, 1, 1), 0, (0, 0), false⟩,
  ⟨0x5020, 1, 4, 0x07, 0x07, 3, (1, 1, 1), 0, (0, 0), false⟩,
  ⟨0x5020, 1, 4, 0x08, 0x08, 9, (1, 1, 1), 0, (0, 0), false⟩,
  ⟨0x5020, 1, 4, 0x1F, 0x1F, 4, (4, 4, 4), 0, (0, 0), false⟩,
  ⟨0x5020, 1, 4, 0x20, 0x20, 5, (2, 2, 2), 0, (0, 0), false⟩,
  ⟨0x5020, 1, 4, 0x21, 0x21, 5, (2, 2, 2), 0, (0, 0), false⟩,
  ⟨0x5020, 1, 4, 0x22, 0x22, 5, (2, 2, 2), 0, (0, 0), false⟩,
  ⟨0x5020, 1, 4, 0x23, 0x23, 5, (2, 2, 2), 0, (0, 0), false⟩,
  ⟨0x5020, 1, 4, 0x24, 0x24, 5, (2, 2, 2), 0, (0, 0), false⟩,
  ⟨0x5020, 1, 4, 0x25, 0x25, 5, (2, 2, 2), 0, (0, 0), false⟩,
  ⟨0x5020, 1, 4, 0x26, 0x26, 5, (2, 2, 2), 0, (0, 0), false⟩,
  ⟨0x5020, 1, 4, 0x27, 0x27, 5, (2, 2, 2), 0, (0, 0), false⟩,
  ⟨0x5020, 1, 4, 0x28, 0x28, 5, (2, 2, 2), 0, (0, 0), false⟩,
  ⟨0x5020, 1, 4, 0x29, 0x29, 5, (2, 2, 2), 0, (0, 0), false⟩,
  ⟨0x5020, 1, 4, 0x2A, 0x2A, 5, (2, 2, 2), 0, (0, 0), false⟩,
  ⟨0x5020, 1, 4, 0x2B, 0x2B, 5, (2, 2, 2), 0, (0, 0), false⟩,
  ⟨0x5020, 1, 4, 0x2C, 0x2C, 5, (2, 2, 2), 0, (0, 0), false⟩]

/-- Entries at 0x5030 (Tables 13.8). -/
def odRows5030 : List OdRow := [
  ⟨0x5030, 1, 4, 0x01, 0x01, 2, (1, 1, 1), 0, (0, 0), false⟩,
  ⟨0x5030, 1, 4, 0x02, 0x02, 5, (1, 1, 1), 0, (0, 0), false⟩,
  ⟨0x5030, 1, 4, 0x03, 0x03, 5, (1, 1, 1), 0, (0, 0), false⟩,
  ⟨0x5030, 1, 4, 0x04, 0x04, 4, (1, 1, 1), 0, (0, 0), false⟩,
  ⟨0x5030, 1, 4, 0x05, 0x05, 4, (1, 1, 1), 0, (0, 0), false⟩,
  ⟨0x5030, 1, 4, 0x06, 0x06, 4, (1, 1, 1), 0, (0, 0), false⟩,
  ⟨0x5030, 1, 4, 0x07, 0x07, 9, (1, 1, 1), 0, (0, 0), false⟩,
  ⟨0x5030, 1, 4, 0x08, 0x08, 1, (1, 2, 2), 0, (0, 0), true⟩,
  ⟨0x5030, 1, 4, 0x09, 0x09, 5, (2, 2, 2), 0, (0, 0), false⟩,
  ⟨0x5030, 1, 4, 0x0A, 0x0A, 1, (3, 3, 3), 0, (0, 0), false⟩,
  ⟨0x5030, 1, 4, 0x1F, 0x1F, 4, (4, 4, 4), 0, (0, 0), false⟩,
  ⟨0x5030, 1, 4, 0x20, 0x20, 5, (2, 2, 2), 0, (0, 0), false⟩,
  ⟨0x5030, 1, 4, 0x21, 0x21, 5, (2, 2, 2), 0, (0, 0), false⟩,
  ⟨0x5030, 1, 4, 0x22, 0x22, 5, (2, 2, 2), 0, (0, 0), false⟩,
  ⟨0x5030, 1, 4, 0x23, 0x23, 5, (2, 2, 2), 0, (0, 0), false⟩,
  ⟨0x5030, 1, 4, 0x24, 0x24, 5, (2, 2, 2), 0, (0, 0), false⟩,
  ⟨0x5030, 1, 4, 0x25, 0x25, 5, (2, 2, 2), 0, (0, 0), false⟩,
  ⟨0x5030, 1, 4, 0x26, 0x26, 5, (2, 2, 2), 0, (0, 0), false⟩,
  ⟨0x5030, 1, 4, 0x27, 0x27, 5, (2, 2, 2), 0, (0, 0), false⟩,
  ⟨0x5030, 1, 4, 0x28, 0x28, 5, (2, 2, 2), 0, (0, 0), false⟩,
  ⟨0x5030, 1, 4, 0x29, 0x29, 5, (2, 2, 2), 0, (0, 0), false⟩]

/-- Entries at 0x5100 (Tables 10.13). -/
def odRows5100 : List OdRow := [
  ⟨0x5100, 256, 4, 0x01, 0x2A, 4, (1, 2, 2), 0, (0, 0), true⟩,
  ⟨0x5100, 256, 4, 0x41, 0x6A, 3, (1, 1, 1), 0, (0, 0), false⟩,
  ⟨0x5100, 256, 4, 0x81, 0xAA, 1, (1, 2, 2), 1, (0, 0), true⟩,
  ⟨0x5100, 256, 4, 0xC0, 0xC0, 4, (1, 2, 2), 500, (50, 100000), true⟩,
  ⟨0x5100, 256, 4, 0xC1, 0xC1, 2, (1, 2, 2), 6, (1, 32), true⟩,
  ⟨0x5100, 256, 4, 0xCF, 0xCF, 4, (4, 4, 4), 0, (0, 0), false⟩,
  ⟨0x5100, 256, 4, 0xD0, 0xD8, 5, (2, 2, 2), 0, (0, 0), false⟩]

/-- Entries at 0x5800 (Tables 10.14). -/
def odRows5800 : List OdRow := [
  ⟨0x5800, 256, 4, 0x01, 0x01, 4, (4, 4, 4), 0, (0, 0), false⟩,
  ⟨0x5800, 256, 4, 0x02, 0x0D, 5, (2, 2, 2), 0, (0, 0), false⟩,
  ⟨0x5800, 256, 4, 0x0E, 0x0E, 5, (2, 2, 2), 0, (0, 0), false⟩,
  ⟨0x5800, 256, 4, 0x10, 0x10, 4, (1, 1, 1), 0, (0, 0), false⟩,
  ⟨0x5800, 256, 4, 0x11, 0x11, 4, (1, 1, 1), 0, (0, 0), false⟩,
  ⟨0x5800, 256, 4, 0x12, 0x12, 7, (1, 1, 1), 0, (0, 0), false⟩]

/-- Entries at 0x5C00 (Tables 6.6). -/
def odRows5C00 : List OdRow := [
  ⟨0x5C00, 256, 4, 0x01, 0x2A, 4, (1, 1, 1), 0, (0, 0), false⟩,
  ⟨0x5C00, 256, 4, 0x40, 0x40, 5, (4, 4, 4), 0, (0, 0), false⟩,
  ⟨0x5C00, 256, 4, 0x41, 0x6A, 4, (2, 2, 2), 0, (0, 0), false⟩,
  ⟨0x5C00, 256, 4, 0x6B, 0x6B, 5, (2, 2, 2), 0, (0, 0), false⟩,
  ⟨0x5C00, 256, 4, 0xF0, 0xF0, 7, (1, 2, 2), 1073741824, (1056964608, 1092616192), true⟩,
  ⟨0x5C00, 256, 4, 0xF1, 0xF1, 3, (1, 2, 2), 200, (50, 600), true⟩,
  ⟨0x5C00, 256, 4, 0xF2, 0xF2, 3, (1, 2, 2), 120, (20, 600), true⟩,
  ⟨0x5C00, 256, 4, 0xF3, 0xF3, 4, (1, 2, 2), 60, (1, 3600), true⟩]

/-- Entries at 0x6100 (Tables 7.12, 8.8, 9.8). -/
def odRows6100a : List OdRow := [
  ⟨0x6100, 256, 4, 0x01, 0x01, 4, (4, 4, 4), 0, (0, 0), false⟩,
  ⟨0x6100, 256, 4, 0x02, 0x02, 5, (2, 2, 2), 0, (0, 0), false⟩,
  ⟨0x6100, 256, 4, 0x03, 0x03, 5, (2, 2, 2), 0, (0, 0), false⟩,
  ⟨0x6100, 256, 4, 0x04, 0x04, 5, (2, 2, 2), 0, (0, 0), false⟩,
  ⟨0x6100, 256, 4, 0x05, 0x05, 5, (2, 2, 2), 0, (0, 0), false⟩,
  ⟨0x6100, 256, 4, 0x06, 0x06, 5, (2, 2, 2), 0, (0, 0), false⟩,
  ⟨0x6100, 256, 4, 0x07, 0x07, 5, (2, 2, 2), 0, (0, 0), false⟩,
  ⟨0x6100, 256, 4, 0x08, 0x08, 5, (2, 2, 2), 0, (0, 0), false⟩,
  ⟨0x6100, 256, 4, 0x09, 0x09, 5, (2, 2, 2), 0, (0, 0), false⟩,
  ⟨0x6100, 256, 4, 0x0A, 0x0A, 5, (2, 2, 2), 0, (0, 0), false⟩,
  ⟨0x6100, 256, 4, 0x0B, 0x0B, 5, (2, 2, 2), 0, (0, 0), false⟩,
  ⟨0x6100, 256, 4, 0x0C, 0x0C, 5, (2, 2, 2), 0, (0, 0), false⟩,
  ⟨0x6100, 256, 4, 0x0D, 0x0D, 5, (2, 2, 2), 0, (0, 0), false⟩,
  ⟨0x6100, 256, 4, 0x0E, 0x0E, 5, (2, 2, 2), 0, (0, 0), false⟩,
  ⟨0x6100, 256, 4, 0x0F, 0x0F, 5, (2, 2, 2), 0, (0, 0), false⟩,
  ⟨0x6100, 256, 4, 0x10, 0x10, 2, (2, 2, 2), 0, (0, 0), false⟩,
  ⟨0x6100, 256, 4, 0x11, 0x11, 5, (2, 2, 2), 0, (0, 0), false⟩,
  ⟨0x6100, 256, 4, 0x12, 0x12, 3, (1, 2, 2), 256, (1, 65535), true⟩,
  ⟨0x6100, 256, 4, 0x13, 0x13, 5, (2, 2, 2), 0, (0, 0), false⟩,
  ⟨0x6100, 256, 4, 0x14, 0x14, 5, (2, 2, 2), 0, (0, 0), false⟩,
  ⟨0x6100, 256, 4, 0x15, 0x15, 5, (2, 2, 2), 0, (0, 0), false⟩,
  ⟨0x6100, 256, 4, 0x18, 0x18, 9, (2, 2, 2), 0, (0, 0), false⟩,
  ⟨0x6100, 256, 4, 0x40, 0x40, 5, (2, 2, 2), 0, (0, 0), false⟩,
  ⟨0x6100, 256, 4, 0x41, 0x41, 5, (2, 2, 2), 0, (0, 0), false⟩]

/-- Entries at 0x6100 (Tables 8.8). -/
def odRows6100b : List OdRow := [
  ⟨0x6100, 256, 4, 0x42, 0x42, 4, (1, 1, 1), 0, (0, 0), false⟩,
  ⟨0x6100, 256, 4, 0x43, 0x43, 4, (2, 2, 2), 0, (0, 0), false⟩,
  ⟨0x6100, 256, 4, 0x44, 0x44, 3, (1, 1, 1), 0, (0, 0), false⟩]

/-- Entries at 0x7000 (Tables 15.8). -/
def odRows7000 : List OdRow := [
  ⟨0x7000, 0, 1, 0x01, 0x01, 4, (1, 1, 1), 0, (0, 0), false⟩,
  ⟨0x7000, 0, 1, 0x02, 0x02, 4, (1, 1, 1), 0, (0, 0), false⟩,
  ⟨0x7000, 0, 1, 0x10, 0x10, 9, (0, 3, 3), 0, (0, 0), false⟩,
  ⟨0x7000, 0, 1, 0x11, 0x11, 2, (0, 3, 3), 0, (0, 0), false⟩,
  ⟨0x7000, 0, 1, 0x12, 0x12, 2, (1, 1, 1), 0, (0, 0), false⟩]

/-- Entries at 0x7100 (Tables 15.9, 19.7). -/
def odRows7100a : List OdRow := [
  ⟨0x7100, 256, 4, 0x01, 0x01, 2, (1, 1, 1), 0, (0, 0), false⟩,
  ⟨0x7100, 256, 4, 0x02, 0x02, 4, (1, 1, 1), 0, (0, 0), false⟩,
  ⟨0x7100, 256, 4, 0x03, 0x03, 4, (1, 1, 1), 0, (0, 0), false⟩,
  ⟨0x7100, 256, 4, 0x04, 0x04, 4, (1, 1, 1), 0, (0, 0), false⟩,
  ⟨0x7100, 256, 4, 0x05, 0x05, 4, (1, 1, 1), 0, (0, 0), false⟩,
  ⟨0x7100, 256, 4, 0x06, 0x06, 4, (1, 1, 1), 0, (0, 0), false⟩,
  ⟨0x7100, 256, 4, 0x07, 0x07, 4, (1, 1, 1), 0, (0, 0), false⟩,
  ⟨0x7100, 256, 4, 0x08, 0x08, 3, (2, 2, 2), 1, (0, 0), false⟩,
  ⟨0x7100, 256, 4, 0x10, 0x10, 5, (1, 2, 2), 0, (0, 0), true⟩,
  ⟨0x7100, 256, 4, 0x11, 0x11, 4, (1, 2, 2), 0, (0, 0), true⟩,
  ⟨0x7100, 256, 4, 0x12, 0x12, 2, (0, 3, 3), 0, (0, 0), false⟩,
  ⟨0x7100, 256, 4, 0x13, 0x13, 2, (1, 1, 1), 0, (0, 0), false⟩,
  ⟨0x7100, 256, 4, 0x14, 0x14, 2, (1, 1, 1), 0, (0, 0), false⟩,
  ⟨0x7100, 256, 4, 0x15, 0x15, 4, (1, 2, 2), 300, (30, 3600), true⟩,
  ⟨0x7100, 256, 4, 0x1F, 0x1F, 4, (4, 4, 4), 0, (0, 0), false⟩,
  ⟨0x7100, 256, 4, 0x20, 0x20, 5, (2, 2, 2), 0, (0, 0), false⟩,
  ⟨0x7100, 256, 4, 0x21, 0x21, 5, (2, 2, 2), 0, (0, 0), false⟩,
  ⟨0x7100, 256, 4, 0x22, 0x22, 5, (2, 2, 2), 0, (0, 0), false⟩,
  ⟨0x7100, 256, 4, 0x23, 0x23, 5, (2, 2, 2), 0, (0, 0), false⟩,
  ⟨0x7100, 256, 4, 0x24, 0x24, 5, (2, 2, 2), 0, (0, 0), false⟩,
  ⟨0x7100, 256, 4, 0x25, 0x25, 5, (2, 2, 2), 0, (0, 0), false⟩,
  ⟨0x7100, 256, 4, 0x30, 0x30, 4, (1, 1, 1), 0, (0, 0), false⟩,
  ⟨0x7100, 256, 4, 0x31, 0x31, 4, (1, 1, 1), 0, (0, 0), false⟩,
  ⟨0x7100, 256, 4, 0x32, 0x32, 2, (1, 1, 1), 0, (0, 0), false⟩]

/-- Entries at 0x7100 (Tables 19.7). -/
def odRows7100b : List OdRow := [
  ⟨0x7100, 256, 4, 0x33, 0x33, 3, (3, 3, 3), 0, (0, 0), false⟩,
  ⟨0x7100, 256, 4, 0x34, 0x34, 2, (1, 1, 1), 0, (0, 0), false⟩,
  ⟨0x7100, 256, 4, 0x35, 0x35, 4, (1, 1, 1), 0, (0, 0), false⟩,
  ⟨0x7100, 256, 4, 0x36, 0x36, 4, (1, 1, 1), 0, (0, 0), false⟩,
  ⟨0x7100, 256, 4, 0x37, 0x37, 5, (1, 1, 1), 0, (0, 0), false⟩,
  ⟨0x7100, 256, 4, 0x38, 0x38, 5, (2, 2, 2), 0, (0, 0), false⟩]

/-- Entries at 0x8000 (Tables 15.8). -/
def odRows8000 : List OdRow := [
  ⟨0x8000, 0, 1, 0x01, 0x01, 1, (1, 2, 2), 1, (0, 0), true⟩,
  ⟨0x8000, 0, 1, 0x02, 0x02, 1, (1, 2, 2), 1, (0, 0), true⟩]

/-- Every entry of the object dictionary (R480, Table 17.2). -/
def odTable : List OdRow :=
  odRows1000 ++ odRows1010 ++ odRows1100 ++ odRows1110 ++ odRows1120 ++ odRows2000 ++ odRows2800 ++ odRows3000 ++ odRows4010 ++ odRows4100a ++ odRows4100b ++ odRows5000 ++ odRows5010 ++ odRows5020 ++ odRows5030 ++ odRows5100 ++ odRows5800 ++ odRows5C00 ++ odRows6100a ++ odRows6100b ++ odRows7000 ++ odRows7100a ++ odRows7100b ++ odRows8000

/-- The key of an entry in the dictionary's value map. -/
def odKey (index sub : Nat) : Nat := index * 256 + sub

/-- Whether a row holds an index, and as which channel or slot. The port entries lie at 0x5800 + 0x0100·c + p. -/
def OdRow.owner (r : OdRow) (index : Nat) : Option Nat :=
  if r.index = 0x5800 then
    (if 0x5800 ≤ index ∧ index < 0x5C00 ∧ index % 256 < 42 then some ((index - 0x5800) / 256) else none)
  else if r.stride = 0 then (if index = r.index then some 0 else none)
  else if r.index ≤ index ∧ (index - r.index) % r.stride = 0 ∧ (index - r.index) / r.stride < r.count then
    some ((index - r.index) / r.stride)
  else none

/-- The row of an entry (R475). -/
def odFind (index sub : Nat) : Option OdRow :=
  odTable.find? (fun r => (r.owner index).isSome && decide (r.lo ≤ sub) && decide (sub ≤ r.hi))

/-- The default of an entry's value. -/
def odDefault (key : Nat) : Nat := ((odFind (key / 256) (key % 256)).map (·.default)).getD 0

/-- Highest subindex in use at an index (R475). -/
def odTopSub (index : Nat) : Nat :=
  (odTable.filter (fun r => (r.owner index).isSome)).foldl (fun a r => max a r.hi) 0

/-- The overflow entry and bit of the counter at a key: bit k belongs to the subindex that the chapter names
(R138, R227, R192, R321, R343, R375, R400, R451, R473, R493, R524, R541). -/
def odOverflow (key : Nat) : Option (Nat × Nat) :=
  let index := key / 256
  let sub := key % 256
  let area := fun (ov base : Nat) => some (odKey index ov, sub - base)
  if 0x5800 ≤ index ∧ index < 0x5C00 then area 0x01 2
  else if 0x5C00 ≤ index ∧ index < 0x6000 then
    (if sub = 0x6B then some (odKey index 0x40, 42) else area 0x40 0x41)
  else if 0x5100 ≤ index ∧ index < 0x5500 then area 0xCF 0xD0
  else if 0x6100 ≤ index ∧ index < 0x6500 then area 0x01 2
  else if 0x3000 ≤ index ∧ index < 0x3400 then area 0x3F 0x40
  else if index = 0x1100 then area 0x2F 0x30
  else if 0x1110 ≤ index ∧ index < 0x1114 then area 0x3F 0x40
  else if (0x4100 ≤ index ∧ index < 0x4500) ∨ (0x5010 ≤ index ∧ index < 0x5034) ∨ (0x7100 ≤ index ∧ index < 0x7500)
      ∨ (0x2000 ≤ index ∧ index ≤ 0x2800) ∨ index = 0x1010 then area 0x1F 0x20
  else none

/-- The value at which a counter saturates: the largest value of its type (R14). -/
def odCounterMax (key : Nat) : Nat :=
  match odFind (key / 256) (key % 256) with
  | some r => if r.ty = 4 then 2 ^ 32 - 1 else 2 ^ 64 - 1
  | none => 2 ^ 64 - 1

/-- Size in bytes of a scalar type (Table 17.1). -/
def odSize (ty : Nat) : Nat :=
  match ty with
  | 1 => 1
  | 2 => 1
  | 3 => 2
  | 4 => 4
  | 5 => 8
  | 6 => 4
  | 7 => 4
  | _ => 0

end Sys2Proof.Machine
end

