-- ==== Sys2Proof/Machine/NetParts.lean ====
section
/-!
DEFINITION. The parts of the state that belong to the fabric, as plain data: links, packets under way, groups, update
plans with the step commit, and the safety net (10, 11, 12, 13).
-/

namespace Sys2Proof.Machine

/-! ### Links and transport (10) -/

/-- A packet that waits to start on a port: whether its wait for tickets has been counted, and the port in whose receive
buffer its words still lie (R300, R301). -/
structure Queued where
  pkt : Packet
  counted : Bool
  source : Option Nat
  deriving DecidableEq, Repr

/-- A link port of a channel (Tables 10.6, 10.9, 10.13, 10.14). -/
structure Link where
  /-- Bits [3:0] of LINK_STATE. -/
  state : Nat
  /-- Bits [7:4] of LINK_STATE. -/
  version : Nat
  /-- LAST_REASON. -/
  reason : Nat
  /-- The training offer is the one of 53.125 GBd (R309). -/
  slowOffer : Bool
  /-- PMD training has completed, FEC has locked and capability messages are exchanged (Table 10.6, step 4). -/
  trained : Bool
  /-- The last peer's capability message (PEER, RTT_NS). -/
  peer : Option Capability
  /-- The link's feature set (R311). -/
  features : Half
  /-- FLIT_SEQ of the next DATA flit. -/
  nextSeq : BitVec 12
  /-- Unacknowledged DATA flits, oldest first (R296). -/
  replay : List Flit
  /-- Consecutive replays without an advance of ACK_SEQ (R297). -/
  stuck : Nat
  /-- A fast retrain is under way (R297). -/
  retraining : Bool
  /-- Timebase at the start of the last fast retrain. -/
  retrainedAt : Option DWord
  /-- Tickets held, by class (R299). -/
  tickets : List Nat
  /-- Words that REDUCE, BROADCAST and BULK may still send in their turn (R301). -/
  deficit : List Nat
  /-- Class whose turn it is, 1 to 3. -/
  turn : Nat
  /-- Packets that wait to start, oldest first. -/
  queue : List Queued
  /-- FLIT_SEQ expected next from the peer. -/
  expected : BitVec 12
  /-- A DATA flit has been accepted since link-up: ACK_SEQ is meaningful. -/
  accepted : Bool
  /-- A NAK has been sent and no replay has followed yet (R295). -/
  nakSent : Bool
  /-- Words of an incomplete packet. -/
  rx : List Byte
  /-- Pending ticket returns by class (R300). -/
  returns : List Nat
  /-- GOODBYE has been sent and the wait of R319 runs. -/
  goodbye : Bool
  /-- The port goes to DISABLED, and not to DOWN, when that wait ends. -/
  disable : Bool
  /-- The link was UP when the recalibration under way began; a QUARANTINED one takes part too (R315). -/
  recalUp : Bool
  /-- A recalibration this end has asked for and the peer has not answered. -/
  asking : Bool
  /-- The link is due for recalibration (R188). -/
  due : Bool
  /-- SerDes island temperature at the last measurement, and at the last calibration, 0.125 K. -/
  islandTemp : Option Nat
  calTemp : Option Nat
  /-- Timebase at which a recalibration was first deferred (R190). -/
  deferredAt : Option DWord
  /-- PRE_FEC_SER, FP32. -/
  ser : Word
  /-- Timebase of the last event of R322. -/
  serAt : Option DWord
  deriving DecidableEq, Repr

/-- An unacknowledged packet of a segment with its retransmissions and its last transmission (R307). -/
structure Unacked where
  pkt : Packet
  retries : Nat
  sent : DWord
  deriving DecidableEq, Repr

/-- A segment open as sender (R305). -/
structure TxSegment where
  key : SegKey
  next : Nat
  /-- The LAST packet has been numbered. -/
  last : Bool
  unacked : List Unacked
  deriving DecidableEq, Repr

/-- A segment open as receiver, or completed and remembered (R306). -/
structure RxSegment where
  key : SegKey
  /-- Every earlier SEQ has been received. -/
  next : Nat
  /-- SEQs received beyond `next`. -/
  got : List Nat
  /-- SEQ of the LAST packet. -/
  last : Option Nat
  /-- Packets newly received since the last SEG_ACK. -/
  fresh : Nat
  complete : Bool
  deriving DecidableEq, Repr

/-- An entry of the block uplink table (Table 11.2). -/
structure Uplink where
  remote : Nat
  position : Nat
  channel : Nat
  port : Nat
  deriving DecidableEq, Repr

/-- What a channel holds between its links and its engines. -/
structure Transport where
  links : Map Link
  /-- Packets that wait for a segment to open or for room in one (R305, R307). -/
  outbox : List Packet
  tx : List TxSegment
  rx : List RxSegment
  /-- Packets that have arrived whole and hold receive-buffer words, with their port; none for a channel's own. -/
  inbox : List (Option Nat × Packet)
  uplinks : List Uplink
  /-- Sequence of the channel's own uplink notices. -/
  noticeSeq : Half
  /-- The last notice sequence relayed, by uplink of the block (R327). -/
  noticeSeen : Map (Option Half)
  /-- Next COLLECTIVE_CONTROL segment number, by destination (R349). -/
  controlSeg : Map Nat
  /-- Timebase of the last event of R302. -/
  unknownAt : Option DWord
  deriving DecidableEq, Repr

/-! ### Groups (11) -/

/-- States of a group other than FREE (Table 11.8). -/
inductive GroupState where
  | forming
  | active
  | rebuilding
  | failed
  | releasing
  deriving DecidableEq, Repr

/-- A ringmaster-list entry (R331). -/
structure RingEntry where
  block : Nat
  master : Nat
  succ1 : Nat
  succ2 : Nat
  deriving DecidableEq, Repr

/-- What JOIN carried (Table 12.12). -/
structure JoinInfo where
  rank : Nat
  digest : List Byte
  features : Nat
  missing : Nat
  port : Nat
  address : Nat
  /-- Fabric range (R447). -/
  low : Nat
  high : Nat
  deriving DecidableEq, Repr

/-- What BLOCK_READY carried (Table 12.12). -/
structure ReadyInfo where
  block : Nat
  features : Nat
  reason : Nat
  port : Nat
  address : Nat
  uplinks : Nat
  toBlock : Nat
  joined : Nat
  /-- The highest lowest and the lowest highest version (R447). -/
  low : Nat
  high : Nat
  /-- The list digest of the block's members (R335). -/
  digest : List Byte
  deriving DecidableEq, Repr

/-- One arrival that a ringmaster combines: at block level `child` is a rank, at the top it is a block. -/
structure Arrival where
  atTop : Bool
  msg : Nat
  step : Nat
  key : Nat
  child : Nat
  covered : Nat
  body : List Byte
  deriving DecidableEq, Repr

/-- A registered group (Table 11.3, R331 to R341). -/
structure Group where
  id : Nat
  state : GroupState
  /-- The job of its group descriptor until admission or refusal. -/
  job : Option Nat
  /-- Bytes 0 to 47 of the descriptor. -/
  desc : List Byte
  members : List Nat
  ring : List RingEntry
  top : Nat
  topSucc1 : Nat
  topSucc2 : Nat
  epoch : Word
  features : Nat
  rank : Nat
  joins : List JoinInfo
  readies : List ReadyInfo
  arrivals : List Arrival
  /-- RINGMASTER_HEARTBEAT and RINGMASTER_TIMEOUT as they stood at registration (R343). -/
  heartbeat : Nat
  timeout : Nat
  /-- Timebase of the last HEARTBEAT by sender's rank. -/
  beats : Map (Option DWord)
  /-- Barrier descriptors that wait: BARRIER_ID and job. -/
  barriers : List (Nat × Nat)
  /-- Reset descriptors that wait. -/
  resets : List Nat
  /-- This channel has asked for its block's ringmaster role and has not been granted it (R339). -/
  asked : Bool
  /-- Fabric range of the channel at registration, and the group's message version (R446, R447, R449). -/
  low : Nat
  high : Nat
  version : Nat
  /-- Received by a group image, and no fill has run since (R391). -/
  imaged : Bool
  /-- Phases reported by STATUS: rank and COMMIT_PHASE (R371). -/
  phases : List (Nat × Nat)
  /-- Replacements for which the acting top has still to advance the epoch and send the image: spare, serial and step (R387,
  R388). -/
  owed : List (Nat × Nat × Nat)
  deriving DecidableEq, Repr

/-! ### Reduction and update (12) -/

/-- A bucket of a plan (Table 12.2). -/
structure Bucket where
  weight : Nat
  count : Nat
  start : Nat
  owner : Nat
  deriving DecidableEq, Repr

/-- A registered plan (Table 12.1) with its hyperparameter record as read at load. -/
structure Plan where
  group : Nat
  flags : Nat
  optimizer : Nat
  format : Nat
  window : Nat
  buckets : List Bucket
  shard : Nat
  /-- MASTER_BASE and STATE_BASE of the owned buckets, by identifier. -/
  shards : Map (Option (Nat × Nat))
  gradScale : Nat
  beta1 : Nat
  beta2 : Nat
  epsilon : Nat
  decay : Nat
  clipNorm : Nat
  lrTable : Nat
  lrCount : Nat
  firstStep : Nat
  status : Nat
  /-- REDUCTION_AREA and REDUCTION_AREA_BYTES. -/
  area : Nat
  areaBytes : Nat
  deriving DecidableEq, Repr

/-- A claimed bucket slot (R351): arrivals by unit, and in ordered mode the children that have arrived. -/
structure SlotUse where
  index : Nat
  group : Nat
  step : Nat
  bucket : Nat
  counts : Map Nat
  children : Map (List Nat)
  /-- Units forwarded, or passed to the optimizer or the norm pass. -/
  finished : Nat
  deriving DecidableEq, Repr

/-- What has become of a bucket in a step at this channel. -/
structure BucketRun where
  group : Nat
  step : Nat
  bucket : Nat
  /-- This channel's own contribution has been read, converted and sent (R352). -/
  converted : Bool
  /-- Its gate has been seen (R350). -/
  gate : Bool
  /-- Units that have passed R361 at the owner. -/
  updated : List Nat
  /-- Units written as reduced gradients under CLIP (R360). -/
  reduced : List Nat
  /-- Units whose PARAM values are in the bank. -/
  written : List Nat
  deriving DecidableEq, Repr

/-- What has become of a step at this channel. -/
structure StepRun where
  step : Nat
  /-- Its program has completed with status 0x00. -/
  programDone : Bool
  trainedTag : Half
  lag : Bool
  prepared : Bool
  /-- Groups whose plan skips the step. -/
  skipped : List Nat
  /-- NORM by group (Table 12.12). -/
  norms : Map (Option Word)
  /-- Groups whose learning rate has been read, with its word. -/
  rates : Map (Option Nat)
  normSent : List Nat
  deriving DecidableEq, Repr

/-- The collective engine (R344 to R373, R568). -/
structure Collective where
  plans : List Plan
  slots : List SlotUse
  runs : List BucketRun
  steps : List StepRun
  /-- Values of partly used KA48 groups, by the address of the element (R352). -/
  kept : Map (Option Nat)
  /-- COMMIT_PHASE, and the step it belongs to. -/
  phase : Nat
  phaseStep : Nat
  /-- PARTIAL packets that wait for a slot (R351). -/
  waitPartial : List (Option Nat × Packet)
  /-- PARAM packets that wait for a live tag (R364). -/
  waitParam : List (Option Nat × Packet)
  /-- Copies of R568 outstanding: the step, and the weights left. -/
  copies : List (Nat × List Nat)
  /-- The top has sent its decision on this step: COMMIT broadcast (R383). -/
  committedAtTop : Nat
  /-- Timebase of the last step commit of this channel (R190, R368). -/
  committedAt : Option DWord
  /-- Reason and address of the last ABORT applied here, while COMMIT_PHASE shows it (R370, R371). -/
  abortCause : Option (Nat × Nat)
  deriving DecidableEq, Repr

/-! ### The safety net (13) -/

/-- The declaration of a replica descriptor (Table 13.1): spares with the mark of one claimed. -/
structure Replica where
  group : Nat
  buddies : List Nat
  spares : List (Nat × Bool)
  area : Nat
  bytes : Nat
  deriving DecidableEq, Repr

/-- A verified bank of a served owner (R380). -/
structure Verified where
  owner : Nat
  step : Nat
  deriving DecidableEq, Repr

/-- A lost member that the top has not yet replaced (R382, R386). -/
structure LostMember where
  address : Nat
  rank : Nat
  deriving DecidableEq, Repr

/-- A claim under way at the top (R386, R387): the candidates left to try, the first of them claimed. -/
structure Claim where
  lost : LostMember
  serial : Nat
  candidates : List Nat
  /-- NO_SPARE: a scan follows every second. -/
  dry : Bool
  deriving DecidableEq, Repr

/-- A fill under way on a spare (R391, R392). -/
structure Fill where
  job : Nat
  group : Nat
  restore : Nat
  retried : Bool
  shardDone : Bool
  /-- Served owners whose restream has been verified. -/
  served : List Nat
  /-- Positions of parameter banks still to come, as bucket runs of the restore step left: group and bucket. -/
  paramsLeft : List (Nat × Nat)
  deriving DecidableEq, Repr

/-- The safety net of a channel (R376 to R397). -/
structure Safety where
  replica : Option Replica
  verified : List Verified
  /-- Step of this channel's own stream, whether it was verified, and the streams made. -/
  streamStep : Nat
  streamOk : Bool
  streams : Nat
  /-- SECURE has been sent for this step. -/
  secureSent : Nat
  /-- A served owner's second stream failed (R380). -/
  badStream : Bool
  /-- Failures of the running stream by owner. -/
  faults : List Nat
  /-- At the top: members lost and not yet replaced, in the order of their messages. -/
  lost : List LostMember
  claim : Option Claim
  serial : Nat
  /-- MEMBER_LOST messages that this channel has sent and that REPLACE has not answered: address, rank, cause (Table 13.6). -/
  reported : List (Nat × Nat × Nat)
  /-- At the top: the restore step of the replacements under way, and the last step for which SECURED was broadcast. -/
  restore : Nat
  securedAtTop : Nat
  /-- Ranks replaced and not yet filled, as REPLACE, FILLED and REBUILT tell them. -/
  filling : List Nat
  /-- At the top: those of them whose FILL_REQUEST has come. -/
  requested : List Nat
  /-- Replacements made since the last REBUILT. -/
  replaced : Nat
  fill : Option Fill
  /-- Restore step of the fill that this spare has completed, until REBUILT (R393). -/
  filled : Option Nat
  /-- PARAM_RESENDs that wait for the spare's own masters: spare address and step (R391, Table 13.6). -/
  owedParams : List (Nat × Nat)
  /-- Programs with UPDATE_LAG are refused (R384). -/
  noLag : Bool
  /-- Watches as they stood before the evaluation of the last committed step (Table 13.4). -/
  watchesBefore : Map Watch
  lostRanks : List Nat
  /-- Layers that are refreshed by full projection before the next program loads (Table 13.4). -/
  refreshFirst : List Nat
  deriving DecidableEq, Repr

end Sys2Proof.Machine
end

