-- ==== Sys2Proof/Machine/State.lean ====
section
/-!
DEFINITION. The state of the block: the queue of waiting commands, the object dictionary, the module's shared parts and
the four channels, and the state after reset: the module unpowered, every channel in P4 (01 R41, 19 R526, R532).
-/

namespace Sys2Proof.Machine

/-- Ways a command stops with a fault. -/
inductive Fault where
  /-- Raised by ACCUMULATE_WRITE, READ_CLEAR and CLEAR on a burst address that is not in HBM or not aligned to a whole
  group: the spec gives the base die no effect there (R193, R246; log entry 104). Safe: nothing is claimed of what follows. -/
  | noSuchBurst
  deriving DecidableEq, Repr

/-- Ways a command is refused by the model. -/
inductive Refusal where
  /-- Raised by an arm of `exec` whose command has no meaning yet. Safe. -/
  | notModelled (mnemonic : String)
  deriving DecidableEq, Repr

/-- One channel (R19). -/
structure Channel where
  power : Power
  clock : Clock
  perf : Perf
  metro : Metro
  /-- HBM and the shared store (R193), each byte 0 where nothing is listed. -/
  mem : Map Byte
  /-- 8-byte store words that read with an error, by address div 8 (R197). -/
  storeErr : Map (Option StoreFault)
  slotA : SlotState
  slotB : SlotState
  arrays : Arrays
  jobs : List Job
  nextId : Nat
  /-- STEP of the last commit record (R268, R368). -/
  lastStep : Nat
  training : Training
  net : Transport
  groups : List Group
  /-- GROUP_REFUSAL by group number (Table 11.8). -/
  refusals : Map Nat
  coll : Collective
  safety : Safety
  host : HostPart
  audit : AuditLog
  fw : Firmware
  attest : Attest
  selfTest : Option SelfTest
  deriving DecidableEq, Repr

/-- The module's shared parts (R21, R23). -/
structure Module where
  on : Bool
  /-- The port complex has started and has not failed (R28, R530). -/
  alive : Bool
  refPresent : Bool
  clock : Clock
  rampQueue : List Chan
  currentThrottle : Throttle
  /-- Input current at the last run of the throttle logic, mA (INPUT_CURRENT). -/
  inputMilliamp : Nat
  endpoint : Endpoint
  sessions : List Session
  /-- Parts of SESSION_INITs whose other part has not come, oldest first (R487). -/
  initParts : List InitPart
  audit : AuditLog
  fw : Firmware
  creds : Credentials
  /-- Persistent module entries written lately, newest first: key, earlier value, time of the write (R479). -/
  recent : List (Nat × Nat × DWord)
  deriving DecidableEq, Repr

/-- The whole block. -/
structure State where
  pending : List Instr
  /-- The model's own counter: the next free value (log entry 5). -/
  free : Nat
  /-- The model's own trace of what has crossed the boundary, newest first (log entry 8). -/
  out : List Output
  /-- The object dictionary's values, by index × 256 + subindex, where they differ from their defaults. -/
  od : Map Nat
  module : Module
  ch0 : Channel
  ch1 : Channel
  ch2 : Channel
  ch3 : Channel
  deriving DecidableEq, Repr

/-- Throttle kinds after reset (Table 16.7). -/
def Throttle.reset : Throttle := ⟨16, 0⟩

/-- A channel's power state after reset: P4, FUSE_OPEN 0, nothing supplied (R532, Table 14.4, log entry 10). -/
def Power.reset : Power :=
  { state := .p4, target := .p4, inTransition := false, stepTo := .p4, waiting := 0, safeCause := 0, ready := false,
    booting := none, startTime := 0, fuseClosed := true, cartSupply := false, coreMillivolt := 0, junction := Throttle.reset,
    slotThrottle0 := Throttle.reset, slotThrottle1 := Throttle.reset, tripped := 0, junctionTemp := 0 }

/-- A slot after reset: latch open over a socket cover, no cartridge (R32, R561, log entry 11). -/
def SlotState.reset : SlotState :=
  { latchClosed := false, present := false, cart := 0, status := 0, attached := false, authResult := 0,
    certificate := [], serial := 0, ledgerDigest := [], dir := [], headers := [], cells := [], cal := [], counts := [],
    homeParks := 0, total := 0, hours := [], hourNow := 0, thresholds := 0, bound := none, poweredHours := 0,
    sweep := none, temp := none, triggerLost := false, lastSweepEnd := 0 }

/-- The gateway and sequencer with nothing under way (R529). -/
def Arrays.reset : Arrays :=
  { reads := [], deferred := [], layers := [], folds := [], refreshLeft := [], refreshVersion := 0, refreshStep := 0,
    residuals := [], progQueue := [], progs := [], retireWaits := [], calQueue := [], cals := [],
    releaseWaits := [] }

/-- The training step with nothing registered (R529). -/
def Training.reset : Training :=
  { weights := [], builds := [], program := none, stash := [], recordSinceSeed := false, watches := [],
    silence := [] }

/-- An event carousel after reset (Table 14.3). -/
def Carousel.reset : Carousel :=
  { base := 0, control := 0, tail := 0, head := 0, phase := true, sequence := 0, held := [], lostPending := false,
    gathered := ⟨0, none⟩ }

/-- The host part of a channel after reset (Tables 14.3 and 14.6). Log entry 4. -/
def HostPart.reset : HostPart :=
  { contexts := [], lastFetched := 63, events := Carousel.reset, eventsLost := ⟨0, false⟩,
    doorbellErrors := ⟨0, false⟩, cqFullWaits := ⟨0, false⟩ }

/-- The metrology converter after reset (log entry 4). -/
def Metro.reset : Metro := ⟨0, false, [], 0, true⟩

/-- The performance counters after reset. -/
def Perf.reset : Perf := ⟨[], 0, [], false⟩

/-- An empty audit log (R518). -/
def AuditLog.reset : AuditLog :=
  { records := [], head := 0, chain := List.replicate 12 0, storedHead := 0, storedChain := List.replicate 12 0,
    storedTime := none, checkpoint := [], sinceCheckpoint := 0 }

/-- A link port before its first training (Table 10.13). Log entry 4. -/
def Link.reset : Link :=
  { state := 0, version := 0, reason := 0, slowOffer := false, trained := false, peer := none, features := 0,
    nextSeq := 0, replay := [], stuck := 0, retraining := false, retrainedAt := none, tickets := [0, 0, 0, 0],
    deficit := [0, 0, 0], turn := 1, queue := [], expected := 0, accepted := false, nakSent := false, rx := [],
    returns := [0, 0, 0, 0], goodbye := false, disable := false, recalUp := false, asking := false,
    due := false, islandTemp := none, calTemp := none, deferredAt := none, ser := 0, serAt := none }

/-- Links and transport with nothing under way. -/
def Transport.reset : Transport :=
  { links := [], outbox := [], tx := [], rx := [], inbox := [], uplinks := [], noticeSeq := 0, noticeSeen := [],
    controlSeg := [], unknownAt := none }

/-- The collective engine with nothing registered (R529). -/
def Collective.reset : Collective :=
  { plans := [], slots := [], runs := [], steps := [], kept := [], phase := 0, phaseStep := 0, waitPartial := [],
    waitParam := [], copies := [], committedAtTop := 0, committedAt := none, abortCause := none }

/-- The safety net with nothing declared (R529, Table 13.8). -/
def Safety.reset : Safety :=
  { replica := none, verified := [], streamStep := 0, streamOk := false, streams := 0, secureSent := 0,
    badStream := false, faults := [], lost := [], claim := none, serial := 0, reported := [], restore := 0,
    securedAtTop := 0, filling := [], requested := [], replaced := 0,
    fill := none, filled := none, owedParams := [], noLag := false, watchesBefore := [], lostRanks := [], refreshFirst := [] }

/-- Firmware of a die as delivered: a verified set in bank 0, nothing in bank 1, no fuse blown in the field (R439,
R494, log entry 12). -/
def Firmware.reset (die : Nat) : Firmware :=
  { bank0 := ⟨Config.factoryImage die, true, 0⟩, bank1 := ⟨[], false, 0⟩, active := 0, running := 0, state := 0,
    result := 0, staged := [], trial := 0, incoming := [], revoked := 0, securityMin := 0, debugCount := 0,
    debugState := 0, bootState := 0, keys := none }

/-- Credentials as delivered (R514 to R516). Log entry 12. -/
def Credentials.reset : Credentials :=
  { installerSecret := Config.manufactureSecret 0, makerSecret := Config.manufactureSecret 1, challenge := none,
    mailboxRefusals := 0, migerRefusals := 0, mailboxLocked := false, migerLocked := false }

/-- A channel after reset; `die` is its number. -/
def Channel.reset (die : Nat) : Channel :=
  { power := Power.reset, clock := Clock.reset, perf := Perf.reset, metro := Metro.reset, mem := [], storeErr := [],
    slotA := SlotState.reset, slotB := SlotState.reset, arrays := Arrays.reset, jobs := [], nextId := 0, lastStep := 0,
    training := Training.reset, net := Transport.reset, groups := [], refusals := [], coll := Collective.reset,
    safety := Safety.reset, host := HostPart.reset, audit := AuditLog.reset, fw := Firmware.reset die,
    attest := ⟨List.replicate 32 0, false, none⟩, selfTest := none }

/-- The endpoint after reset (Table 14.2, R403). Log entries 4, 14. -/
def Endpoint.reset : Endpoint :=
  { linkUp := false, busMaster := false, bar2 := 64, eventChannel := 0, eventWrite := 0, eventRead := 0, fifo := [],
    fifoLostPending := false, moduleEventsLost := ⟨0, false⟩, apertures := [], msix := [], pending := [],
    mailbox := ⟨false, false, false, 0, [], []⟩, halves := [], lastMoved := 3 }

/-- The shared parts after reset: enable deasserted (R41), the rack reference present (log entry 9). -/
def Module.reset : Module :=
  { on := false, alive := false, refPresent := true, clock := Clock.reset, rampQueue := [],
    currentThrottle := Throttle.reset, inputMilliamp := 0, endpoint := Endpoint.reset, sessions := [],
    initParts := [], audit := AuditLog.reset, fw := Firmware.reset 4, creds := Credentials.reset, recent := [] }

/-- The machine right after reset: module off, every channel in P4 (R41, R526, R532). Log entry 4. -/
def State.reset : State :=
  { pending := [], free := 0, out := [], od := [], module := Module.reset, ch0 := Channel.reset 0,
    ch1 := Channel.reset 1, ch2 := Channel.reset 2, ch3 := Channel.reset 3 }

/-- Channel `c` (R6). -/
def State.chan (s : State) (c : Chan) : Channel :=
  match c with
  | 0 => s.ch0
  | 1 => s.ch1
  | 2 => s.ch2
  | 3 => s.ch3

/-- The state with channel `c` replaced. -/
def State.setChan (s : State) (c : Chan) (x : Channel) : State :=
  match c with
  | 0 => { s with ch0 := x }
  | 1 => { s with ch1 := x }
  | 2 => { s with ch2 := x }
  | 3 => { s with ch3 := x }

/-- Slot side `i` of a channel: 0 is slot A (R105). -/
def Channel.slot (x : Channel) (i : Nat) : SlotState := if i = 0 then x.slotA else x.slotB

/-- The channel with slot side `i` replaced. -/
def Channel.setSlot (x : Channel) (i : Nat) (y : SlotState) : Channel :=
  if i = 0 then { x with slotA := y } else { x with slotB := y }

end Sys2Proof.Machine
end

