-- ==== Sys2Proof/Machine/Ops.lean ====
section
/-!
DEFINITION. The named operations over the state: maps in canonical form, memory, dictionary values and counters, free
values, events, interrupts and audit records.
-/

namespace Sys2Proof.Machine

/-! ### Maps -/

/-- The value at a key; `d` where nothing is listed. -/
def mget {α : Type} (d : α) (k : Nat) : Map α → α
  | [] => d
  | (j, v) :: m => if j = k then v else mget d k m

/-- Removes a key. -/
def mdel {α : Type} (k : Nat) : Map α → Map α
  | [] => []
  | (j, v) :: m => if j = k then m else (j, v) :: mdel k m

/-- Puts a value at a key, keeping the keys rising. -/
def mput {α : Type} (k : Nat) (v : α) : Map α → Map α
  | [] => [(k, v)]
  | (j, w) :: m => if k < j then (k, v) :: (j, w) :: m else if k = j then (k, v) :: m else (j, w) :: mput k v m

/-- Writes a value at a key in the canonical form: the default value is not listed. -/
def mset {α : Type} [DecidableEq α] (d : α) (k : Nat) (v : α) (m : Map α) : Map α :=
  if v = d then mdel k m else mput k v m

/-- Whether the keys of a map rise strictly from above `b`. -/
def risingFrom {α : Type} : Option Nat → Map α → Bool
  | _, [] => true
  | none, (k, _) :: m => risingFrom (some k) m
  | some b, (k, _) :: m => decide (b < k) && risingFrom (some k) m

/-- The canonical form of a map: strictly rising keys and no value equal to the default. -/
def mapWf {α : Type} [DecidableEq α] (d : α) (m : Map α) : Bool :=
  risingFrom none m && m.all (fun p => decide (p.2 ≠ d))

/-- The canonical form of a channel's memory (log entry 7). -/
def Memory.wf (m : Map Byte) : Bool := mapWf 0#8 m

/-! ### Memory -/

/-- Bytes of a channel's HBM (Table 7.1). -/
def hbmSize : Nat := 0x6400000000

/-- First address of the shared store (Table 7.1). -/
def storeBase : Nat := 0x100000000000

/-- Bytes of the shared store (Table 7.1). -/
def storeSize : Nat := 0x10000000

/-- Whether `n` bytes from `a` lie wholly in HBM. -/
def inHbm (a n : Nat) : Bool := decide (a + n ≤ hbmSize)

/-- Whether `n` bytes from `a` lie wholly in the shared store. -/
def inStore (a n : Nat) : Bool := decide (storeBase ≤ a) && decide (a + n ≤ storeBase + storeSize)

/-- Whether `n` bytes from `a` lie wholly in one of the two memories (R194). -/
def inMemory (a n : Nat) : Bool := inHbm a n || inStore a n

/-- The byte at an address. Log entries 7, 13. -/
def Channel.byte (x : Channel) (a : Nat) : Byte := mget 0#8 a x.mem

/-- `n` bytes from an address. -/
def Channel.bytes (x : Channel) (a n : Nat) : List Byte := (List.range n).map (fun i => x.byte (a + i))

/-- The little-endian number in `n` bytes from an address (R8). -/
def Channel.nat (x : Channel) (a n : Nat) : Nat := leNat (x.bytes a n)

/-- Writes one byte; an address outside both memories is not written (log entry 13). Log entry 7. -/
def memPut (m : Map Byte) (a : Nat) (b : Byte) : Map Byte := if inMemory a 1 then mset 0#8 a b m else m

/-- Writes bytes from an address upward. Log entry 7. -/
def memWrite (m : Map Byte) (a : Nat) : List Byte → Map Byte
  | [] => m
  | b :: bs => memWrite (memPut m a b) (a + 1) bs

/-- Whether a word still fails once it has been written (R197). -/
def persists (f : Option StoreFault) : Bool :=
  match f with
  | some f => f.persistent
  | none => false

/-- Store words that read with an error after a write: it clears the errors of every word of each store line written, but those
that persist in the cell (R197). -/
def clearErrors (e : Map (Option StoreFault)) (a n : Nat) : Map (Option StoreFault) :=
  e.filter (fun p => !(decide (a / 64 ≤ p.1 / 8) && decide (p.1 / 8 < (a + n + 63) / 64)) || persists p.2)

/-- A channel with bytes written from an address upward. -/
def Channel.write (x : Channel) (a : Nat) (bs : List Byte) : Channel :=
  { x with mem := memWrite x.mem a bs, storeErr := clearErrors x.storeErr a bs.length }

/-- A channel with `n` little-endian bytes of a number written. -/
def Channel.writeNat (x : Channel) (a n v : Nat) : Channel := x.write a (leBytes n v)

/-- Sets every byte from `a` to `a + n − 1` to zero. Log entry 7. -/
def memClear (m : Map Byte) (a n : Nat) : Map Byte := m.filter (fun p => !(decide (a ≤ p.1) && decide (p.1 < a + n)))

/-! ### State updates -/

/-- A channel changed by a function. -/
def State.onChan (s : State) (c : Chan) (f : Channel → Channel) : State := s.setChan c (f (s.chan c))

/-- Bytes written in channel `c`. -/
def State.memWrite (s : State) (c : Chan) (a : Nat) (bs : List Byte) : State := s.onChan c (fun x => x.write a bs)

/-- The next free value, and the state that has used it (log entry 5). -/
def State.drawFree (s : State) : Nat × State := (s.free, { s with free := s.free + 1 })

/-- Adds to the boundary trace (log entry 8). -/
def State.emit (s : State) (o : Output) : State := { s with out := o :: s.out }

/-- The endpoint changed by a function. -/
def State.onEndpoint (s : State) (f : Endpoint → Endpoint) : State :=
  { s with module := { s.module with endpoint := f s.module.endpoint } }

/-! ### Interrupts (R26, R404, R410, R411) -/

/-- Entry of a vector after a reset: masked, as PCI Express has it (log entry 14). -/
def MsixEntry.reset : MsixEntry := ⟨0, 0, true⟩

/-- Whether a message of a vector can be sent now: link up, bus mastering, vector unmasked. -/
def Endpoint.canSend (e : Endpoint) (v : Nat) : Bool :=
  e.linkUp && e.busMaster && !(mget MsixEntry.reset v e.msix).masked

/-- Requests a message of a vector: sent, or its pending bit set (R26, R404). -/
def State.requestVector (s : State) (v : Nat) : State :=
  let e := s.module.endpoint
  if e.canSend v then
    let m := mget MsixEntry.reset v e.msix
    s.emit (.msix v m.address m.data)
  else s.onEndpoint (fun e => { e with pending := mset false v true e.pending })

/-- Fires one vector that is pending and can be sent (R26): once, however many messages it missed. -/
def State.firePending (s : State) (v : Nat) : State :=
  if mget false v s.module.endpoint.pending && s.module.endpoint.canSend v then
    (s.onEndpoint (fun e => { e with pending := mset false v false e.pending })).requestVector v
  else s

/-- Fires every pending vector that can be sent. -/
def State.fireAllPending (s : State) : State :=
  (s.module.endpoint.pending.map (·.1)).foldl State.firePending s

/-! ### Session frames (R484, R510, R511) -/

/-- The first 16 bytes of a Miger frame (Table 17.5). -/
def migerHeader (version ftype : Nat) (session seq : Word) (part length : Nat) : List Byte :=
  leBytes 2 0x4D47 ++ leBytes 1 version ++ leBytes 1 ftype ++ leBytes 4 session.toNat ++ leBytes 4 seq.toNat
    ++ leBytes 1 part ++ [0#8] ++ leBytes 2 length

/-- XOR of a body with the keystream of a cipher key (R510). -/
def cipher (key : List Byte) (session seq : Word) (body : List Byte) : List Byte :=
  let stream := kmac256 true key (leBytes 4 session.toNat ++ leBytes 4 seq.toNat) body.length (ascii "MIGER-ENC")
  (body.zip stream).map (fun p => p.1 ^^^ p.2)

/-- The TAG of a frame (R510). -/
def frameTag (key : List Byte) (version ftype : Nat) (session seq : Word) (body : List Byte) : List Byte :=
  kmac256 false key (migerHeader version ftype session seq 0 body.length ++ body) 32 (ascii "MIGER-TAG")

/-- The open session with an identifier. -/
def State.session (s : State) (id : Nat) : Option Session := s.module.sessions.find? (fun q => q.id == id)

/-- A session replaced. -/
def State.setSession (s : State) (q : Session) : State :=
  { s with module := { s.module with sessions := s.module.sessions.map (fun r => if r.id = q.id then q else r) } }

/-- Sends one frame of a session, with its own sequence (R485, R510); the body of SESSION_ACCEPT goes in clear. -/
def State.sendFrame (s : State) (q : Session) (ftype : Nat) (body : List Byte) : State :=
  let id := BitVec.ofNat 32 q.id
  let sent := if ftype = 0x04 then body else cipher q.outCipher id q.nextSeq body
  (s.setSession { q with nextSeq := q.nextSeq + 1 }).emit
    (.frame ftype id q.nextSeq sent (frameTag q.outTag 1 ftype id q.nextSeq sent))

/-- Closes a session, with CLOSE and its reason when there is one (R488). -/
def State.closeSession (s : State) (id : Nat) (reason : Option Nat) : State :=
  match s.session id with
  | none => s
  | some q =>
    let s := match reason with
      | some r => s.sendFrame q 0x15 (leBytes 1 r)
      | none => s
    { s with module := { s.module with sessions := s.module.sessions.filter (fun r => r.id != id) } }

/-- Sends a frame of an open session; where the SEQUENCE would reach 2³¹ it is CLOSE with reason 0 (R511). -/
def State.sessionFrame (s : State) (id ftype : Nat) (body : List Byte) : State :=
  match s.session id with
  | none => s
  | some q => if q.nextSeq.toNat + 1 < 2 ^ 31 then s.sendFrame q ftype body else s.closeSession id (some 0)

/-! ### Counters of the dictionary (R14) -/

/-- The value of an entry. -/
def State.ent (s : State) (key : Nat) : Nat := mget (odDefault key) key s.od

/-- Sets the value of an entry. -/
def State.setEnt (s : State) (key v : Nat) : State := { s with od := mset (odDefault key) key v s.od }

/-- Adds to a counter without its event; whether this reached saturation (R14). -/
def State.bumpRaw (s : State) (key n : Nat) : Bool × State :=
  let v := s.ent key
  let top := odCounterMax key
  if v = top ∨ n = 0 then (false, s)
  else if v + n < top then (false, s.setEnt key (v + n))
  else
    let s := s.setEnt key top
    match odOverflow key with
    | some (ov, bit) => (true, s.setEnt ov (s.ent ov ||| 2 ^ bit))
    | none => (true, s)

/-! ### Events (R425 to R427, R491) -/

/-- Data of COUNTER_SATURATED for an entry (Table 14.13). -/
def saturatedData (key : Nat) : List Byte := leBytes 2 (key / 256) ++ leBytes 1 (key % 256)

/-- The 32 bytes of an event record (Table 14.12). Log entry 31. -/
def Event.record (e : Event) (phase : Bool) (seq : Nat) : List Byte :=
  leBytes 2 e.code ++ leBytes 1 e.source ++ leBytes 1 ((if phase then 1 else 0) + (if e.lostBefore then 2 else 0))
    ++ leBytes 4 seq ++ leBytes 8 e.time.toNat ++ (e.data ++ List.replicate 16 0#8).take 16

/-- Whether a subscription covers a record (R490): the source's mask bit and the code. -/
def Session.covers (q : Session) (e : Event) : Bool :=
  q.mask.testBit (if e.source.testBit 2 then 4 else e.source % 4) && decide (q.lowCode ≤ e.code)
    && decide (e.code ≤ q.highCode)

/-- Offers a record to one session: queued, or dropped from a full queue (R491). -/
def Session.offer (e : Event) (q : Session) : Session :=
  if !q.covers e then q
  else if 256 ≤ q.queue.length then { q with lostPending := true }
  else { q with queue := q.queue ++ [{ e with lostBefore := q.lostPending }], lostPending := false }

/-- Sessions that drop a record. -/
def notifyDrops (e : Event) (l : List Session) : Nat :=
  (l.filter (fun q => q.covers e && decide (256 ≤ q.queue.length))).length

/-- NOTIFY_LOST (Table 17.8). -/
def keyNotifyLost : Nat := odKey 0x1010 0x23

/-- Body of a NOTIFY of records: their count, and the records with PHASE 0 (Table 17.6, R491); SEQUENCE of a record that is in
no carousel yet is not stated (log entry 31). -/
def notifyBody (l : List Event) (n : Nat) : List Byte :=
  leBytes 1 l.length ++ List.replicate 15 0#8
    ++ (l.zipIdx.map (fun q => q.1.record false (Config.fresh n / 2 ^ (32 * q.2) % 2 ^ 32))).flatten

/-- Sends the next NOTIFY of a session that has none outstanding (R491). Log entry 31. -/
def State.notify (s : State) (id : Nat) : State :=
  match s.session id with
  | none => s
  | some q =>
    if q.outstanding.isSome || q.queue.isEmpty then s
    else
      let r := s.drawFree
      let body := notifyBody (q.queue.take 40) r.1
      (r.2.setSession { q with queue := q.queue.drop 40, outstanding := some (q.nextSeq, body, 1) }).sessionFrame id 0x12 body

/-- Offers a record to every session, and counts those that drop it (R491); whether NOTIFY_LOST reached saturation. -/
def State.offerOnce (s : State) (e : Event) : Bool × State :=
  let drops := notifyDrops e s.module.sessions
  let s := { s with module := { s.module with sessions := s.module.sessions.map (Session.offer e) } }
  let r := s.bumpRaw keyNotifyLost drops
  (r.1, (r.2.module.sessions.map (fun q => q.id)).foldl State.notify r.2)

/-- Adds to a read-clear counter of `bits` bits; a saturation sets its overflow (R14). -/
def RcCounter.add (r : RcCounter) (bits n : Nat) : RcCounter :=
  if r.value + n < 2 ^ bits - 1 then { r with value := r.value + n } else ⟨2 ^ bits - 1, true⟩

/-- Whether a counter goes from short of saturation into saturation. -/
def RcCounter.saturates (old new : RcCounter) : Bool := new.overflow && !old.overflow

/-- COUNTER_SATURATED for a counter in BAR0: its offset as the record address, counter number 0 (R14; log entry 26). -/
def rcEvent (source offset : Nat) (time : DWord) : Event := ⟨0x0001, source, time, leBytes 8 offset ++ [0#8], false⟩

/-- CH_BASE(c) (R405). -/
def chBase (c : Chan) : Nat := 0x01000000 + 0x00C00000 * c.val

/-- Records of the module event FIFO (R427). -/
def fifoSize : Nat := 64

/-- Records of the module event FIFO that MODULE_EVENT_READ has not passed. -/
def Endpoint.unread (p : Endpoint) : Nat := (p.eventWrite + 65536 - p.eventRead) % 65536

/-- Writes a record into the module event FIFO and requests vector 511 (R427); a full FIFO drops it. Whether
MODULE_EVENTS_LOST reached saturation. -/
def State.fifoPut (s : State) (e : Event) : Bool × State :=
  let p := s.module.endpoint
  if fifoSize ≤ p.unread then
    let n := p.moduleEventsLost.add 31 1
    (p.moduleEventsLost.saturates n, s.onEndpoint (fun p => { p with moduleEventsLost := n, fifoLostPending := true }))
  else
    (false, (s.onEndpoint (fun p => { p with
      fifo := ({ e with lostBefore := p.fifoLostPending } :: p.fifo).take fifoSize,
      fifoLostPending := false, eventWrite := (p.eventWrite + 1) % 2 ^ 32 })).requestVector (512 * p.eventChannel + 511))

/-- COUNTER_SATURATED of NOTIFY_LOST, an entry of the port complex (R14). -/
def notifyLostEvent (time : DWord) : Event := ⟨0x0001, 4, time, saturatedData keyNotifyLost, false⟩

/-- Offers a record to every session (R491); NOTIFY_LOST at saturation raises its own event (R14). -/
def State.offerEvent (s : State) (e : Event) : State :=
  let r := s.offerOnce e
  if r.1 then
    let n := notifyLostEvent r.2.module.clock.timebase
    ((r.2.offerOnce n).2.fifoPut n).2
  else r.2

/-- A record of the port complex into the module event FIFO; MODULE_EVENTS_LOST at saturation raises its event (R14, R427). -/
def State.pushFifo (s : State) (e : Event) : State :=
  let r := s.fifoPut e
  if r.1 then r.2.offerEvent (rcEvent 4 0x18 r.2.module.clock.timebase) else r.2

/-- Raises an event of the port complex; SOURCE bit 2 is set and bits 1:0 name a channel, 0 for none (R427). -/
def State.raisePort (s : State) (c : Nat) (code : Nat) (data : List Byte) : State :=
  let e : Event := ⟨code, 4 + c, s.module.clock.timebase, data, false⟩
  (s.offerEvent e).pushFifo e

/-- Entries of the event carousel (R426). -/
def carouselSize : Nat := 8192

/-- Whether the event carousel has no free slot. Log entry 15. -/
def Carousel.full (k : Carousel) : Bool := (k.tail + 1) % carouselSize == k.head

/-- Whether the event carousel is enabled. -/
def Carousel.enabled (k : Carousel) : Bool := k.control.getLsbD 0

/-- Whether a carousel's message is due once one more record requests a signal (R411). -/
def coalesceDue (count gathered : Nat) : Bool := decide (max count 1 ≤ gathered)

/-- One record of the event carousel requests its vector, coalesced (R411). -/
def State.signalEvents (s : State) (c : Chan) : State :=
  let k := (s.chan c).host.events
  let n := k.gathered.count + 1
  let count := (k.control.extractLsb' 8 8).toNat
  let set := fun (g : Coalesce) => s.onChan c (fun x =>
    { x with host := { x.host with events := { x.host.events with gathered := g } } })
  if coalesceDue count n then (set ⟨0, none⟩).requestVector (512 * c.val + 448)
  else set ⟨n, k.gathered.since <|> some (s.chan c).clock.timebase⟩

/-- A record that a channel drops: EVENTS_LOST advances, and the next record carries LOST_BEFORE (R426). -/
def State.loseEvent (s : State) (c : Chan) : State :=
  let h := (s.chan c).host
  let n := h.eventsLost.add 63 1
  let s := s.onChan c (fun x =>
    { x with host := { x.host with eventsLost := n, events := { x.host.events with lostPending := true } } })
  if h.eventsLost.saturates n then s.offerEvent (rcEvent c.val (chBase c + 0x58) (s.chan c).clock.timebase) else s

/-- Writes one record into the carousel of a channel, or drops it when no slot is free (R426). -/
def State.carouselWrite (s : State) (c : Chan) (e : Event) : State :=
  let k := (s.chan c).host.events
  if k.full then s.loseEvent c
  else
    let e := { e with lostBefore := e.lostBefore || k.lostPending }
    let t := (k.tail + 1) % carouselSize
    let s := s.onChan c (fun x =>
      let x := x.write (k.base + 32 * k.tail) (e.record k.phase k.sequence.toNat)
      { x with host := { x.host with events := { k with tail := t, phase := if t = 0 then !k.phase else k.phase,
                                                        sequence := k.sequence + 1, lostPending := false } } })
    s.signalEvents c

/-- Puts an event into a channel's carousel, or among the held records while it is disabled (R426). -/
def State.carouselPut (s : State) (c : Chan) (e : Event) : State :=
  let k := (s.chan c).host.events
  if k.enabled then s.carouselWrite c e
  else if 256 ≤ k.held.length then s.loseEvent c
  else
    s.onChan c (fun x => { x with host := { x.host with
      events := { k with held := k.held ++ [{ e with lostBefore := k.lostPending }], lostPending := false } } })

/-- Raises an event of a channel: a copy to the port complex, and the record itself (R425, R426, R491). -/
def State.raise (s : State) (c : Chan) (code : Nat) (data : List Byte) : State :=
  let e : Event := ⟨code, c.val, (s.chan c).clock.timebase, data, false⟩
  (s.offerEvent e).carouselPut c e

/-- A latch or channel fault: the channel raises the event, and the port complex, whatever the state of the channel, raises
one of its own into the module event FIFO, which names the channel (R427). Log entry 108. -/
def State.raiseBoth (s : State) (c : Chan) (code : Nat) (data : List Byte) : State :=
  (s.raise c code data).raisePort c.val code data

/-- Advances a counter of channel `c` by `n`; on reaching saturation one event (R14). -/
def State.bumpBy (s : State) (c : Chan) (key n : Nat) : State :=
  let r := s.bumpRaw key n
  if r.1 then r.2.raise c 0x0001 (saturatedData key) else r.2

/-- Advances a counter of channel `c` by one. -/
def State.bump (s : State) (c : Chan) (key : Nat) : State := s.bumpBy c key 1

/-- Advances a counter of the module by one. -/
def State.bumpPort (s : State) (key : Nat) : State :=
  let r := s.bumpRaw key 1
  if r.1 then r.2.raisePort 0 0x0001 (saturatedData key) else r.2

/-! ### Channel availability -/

/-- SAFE (Table 14.4). -/
def Channel.safe (x : Channel) : Bool := x.power.safeCause != 0

/-- P0, P1 or P2 (R453). -/
def PState.on (p : PState) : Bool :=
  match p with
  | .p3 => false
  | .p4 => false
  | _ => true

/-- A channel whose entries and registers are served: in P0 to P2, or held in its safe state (R27, R407, R536). -/
def Channel.served (x : Channel) : Bool := x.power.state.on || x.safe

/-- A channel whose rails are up and whose cores run: served, or in a start-up past step 2 (Table 19.3). -/
def Channel.up (x : Channel) : Bool := x.served || x.power.waiting == 1

/-- Engines issue handshakes: P0 and not in the safe state; a run-out into P1 still issues (R453, R456, R536). -/
def Channel.issues (x : Channel) : Bool := x.power.state == .p0 && !x.safe

/-- Entries may start: the channel issues and no step into P1 has begun (R456). -/
def Channel.runs (x : Channel) : Bool := x.issues && !(x.power.inTransition && x.power.stepTo != .p0)

/-- Cartridge supply and link traffic go on (P0 to P2 and not safe). Log entry 65. -/
def Channel.linksRun (x : Channel) : Bool := x.up && !x.safe

/-! ### Audit log (R517 to R520) -/

/-- Bytes 0 to 35 of an audit record (Table 18.8). -/
def AuditRecord.body (r : AuditRecord) (seq : Word) : List Byte :=
  leBytes 4 seq.toNat ++ leBytes 1 r.kind ++ leBytes 1 r.role ++ leBytes 1 r.path ++ [0#8] ++ leBytes 8 r.time.toNat
    ++ leBytes 2 r.index ++ leBytes 1 r.sub ++ [0#8] ++ leBytes 4 r.offset ++ leBytes 4 r.length
    ++ leBytes 4 r.session ++ (r.value ++ List.replicate 4 0#8).take 4

/-- Appends a record to a log of `size` records: SEQUENCE, CHAIN and the ring (R518). -/
def AuditLog.append (l : AuditLog) (size : Nat) (r : AuditRecord) : AuditLog :=
  let chain := shake256 (l.chain ++ r.body l.head) 12
  { l with records := mset none (l.head.toNat % size) (some (l.head.toNat, { r with chain := chain })) l.records,
           head := l.head + 1, chain := chain, sinceCheckpoint := l.sinceCheckpoint + 1 }

/-- Stores a log in flash (R519). -/
def AuditLog.flush (l : AuditLog) (size : Nat) : AuditLog :=
  { l with storedHead := l.head, storedChain := l.chain,
           storedTime := if l.head = l.storedHead then l.storedTime
             else (match mget none ((l.head.toNat + 2 ^ 32 - 1) % 2 ^ 32 % size) l.records with
               | some (_, r) => some r.time
               | none => l.storedTime) }

/-- The log that a start finds in flash (R519): of the records since the last write to flash, the oldest `n mod` their
number plus one were stored as well. -/
def AuditLog.restart (l : AuditLog) (size n : Nat) : AuditLog :=
  let lost := (l.head - l.storedHead).toNat
  let kept := (l.storedHead.toNat + n % (lost + 1)) % 2 ^ 32
  let newest := mget none ((kept + 2 ^ 32 - 1) % 2 ^ 32 % size) l.records
  let after := fun (q : Nat) => decide ((BitVec.ofNat 32 q - BitVec.ofNat 32 kept).toNat < lost)
  if kept = l.head.toNat then
    { l with storedHead := l.head, storedChain := l.chain,
             storedTime := (match newest with
               | some (_, r) => some r.time
               | none => l.storedTime) }
  else
    { l with records := l.records.filter (fun p => match p.2 with
               | some (q, _) => !after q
               | none => false),
             head := BitVec.ofNat 32 kept, storedHead := BitVec.ofNat 32 kept,
             chain := (match newest with
               | some (_, r) => r.chain
               | none => l.storedChain),
             storedTime := (match newest with
               | some (_, r) => some r.time
               | none => l.storedTime),
             storedChain := (match newest with
               | some (_, r) => r.chain
               | none => l.storedChain) }

/-- Records of a channel's log, and of the port complex's (R517). -/
def auditSize : Nat := 65536

/-- Records of the port complex's log (R517). -/
def portAuditSize : Nat := 4096

/-- The newest checkpoint: its 64 bytes of body and the signature over them (R520). -/
def AuditLog.sign (l : AuditLog) (f : Firmware) (die : Nat) (time : DWord) : AuditLog :=
  let body := leBytes 4 l.head.toNat ++ leBytes 4 0 ++ leBytes 8 time.toNat ++ (l.chain ++ List.replicate 12 0#8).take 12
    ++ leBytes 4 0 ++ leBytes 8 Config.moduleSerial.toNat ++ leBytes 1 (if die = 4 then 0xFF else die)
    ++ List.replicate 23 0#8
  { l with checkpoint := body ++ f.sign body, sinceCheckpoint := 0 }

end Sys2Proof.Machine
end

