-- ==== Sys2Proof/Machine/Fabric.lean ====
section
/-!
DEFINITION. Packets and their way through the fabric: addresses, encoding, routes, segments as sender and as receiver
(10 R302 to R308, R312, R318; 11 R323 to R329).
-/

namespace Sys2Proof

open Machine

/-! ### Packets (Tables 10.4 and 10.5) -/

/-- Bytes 0 to 27 of a packet header, with a given HOPS. -/
def Packet.head (k : Packet) (hops : Nat) : List Byte :=
  leBytes 1 k.ptype ++ leBytes 1 (k.cls % 4 + if k.last then 4 else 0) ++ leBytes 2 k.data.length ++ leBytes 4 k.dest
    ++ leBytes 4 k.source ++ leBytes 2 k.group ++ leBytes 2 k.segment ++ leBytes 2 k.seq ++ leBytes 1 hops
    ++ leBytes 1 k.epoch.toNat ++ leBytes 4 k.step.toNat ++ leBytes 4 k.tag.toNat

/-- E2E_CRC of a packet: HOPS is taken as zero (Table 10.4). -/
def Packet.crc (k : Packet) : Word := BitVec.ofNat 32 (crc32c (k.head 0 ++ k.data))

/-- A packet with its E2E_CRC. -/
def Packet.seal (k : Packet) : Packet := { k with e2e := k.crc }

/-- The packet as bytes. -/
def Packet.bytes (k : Packet) : List Byte := k.head k.hops ++ leBytes 4 k.e2e.toNat ++ k.data

/-- Words of 16 bytes that a packet takes (R299). -/
def Packet.words (k : Packet) : Nat := 2 + (k.data.length + 15) / 16

/-- The packet at the start of a byte list that holds it whole. -/
def Packet.ofBytes (b : List Byte) : Packet :=
  let n := fun (i k : Nat) => leNat ((b.drop i).take k)
  { ptype := n 0 1, cls := n 1 1 % 4, last := (n 1 1).testBit 2, dest := n 4 4 % 131072, source := n 8 4 % 131072,
    group := n 12 2 % 1024, segment := n 14 2, seq := n 16 2, hops := n 18 1, epoch := BitVec.ofNat 8 (n 19 1),
    step := BitVec.ofNat 32 (n 20 4), tag := BitVec.ofNat 32 (n 24 4), e2e := BitVec.ofNat 32 (n 28 4),
    data := (b.drop 32).take (n 2 2) }

/-! ### Flits (Tables 10.1 and 10.2) -/

/-- The link header of a flit (Table 10.2). -/
def Flit.header (f : Flit) : Nat :=
  f.ftype % 16 * 2 ^ 60 + f.seq.toNat * 2 ^ 48 + f.ackSeq.toNat * 2 ^ 36 + (if f.ackValid then 2 ^ 35 else 0)
    + (if f.nak then 2 ^ 34 else 0) + f.firstWord % 64 * 2 ^ 28
    + ((f.tickets.take 4).zipIdx.map (fun q => q.1 % 128 * 2 ^ (7 * q.2))).sum

/-- The 640 bytes of a flit with its CRC (Table 10.1, R293). -/
def Flit.bytes (f : Flit) : List Byte :=
  let b := leBytes 8 f.header ++ f.area
  b ++ leBytes 4 (crc32c b) ++ leBytes 4 0

/-- The flit that 640 bytes spell. -/
def Flit.ofBytes (b : List Byte) : Flit :=
  let v := leNat (b.take 8)
  { ftype := v / 2 ^ 60 % 16, seq := BitVec.ofNat 12 (v / 2 ^ 48), ackSeq := BitVec.ofNat 12 (v / 2 ^ 36),
    ackValid := v.testBit 35, nak := v.testBit 34, firstWord := v / 2 ^ 28 % 64,
    tickets := (List.range 4).map (fun k => v / 2 ^ (7 * k) % 128), area := (b.drop 8).take 624 }

/-- Whether the CRC of 640 bytes matches (R293). -/
def flitCrcOk (b : List Byte) : Bool := crc32c (b.take 632) == leNat ((b.drop 632).take 4)

/-- What a flit acknowledges, with the corrected symbols of its codeword. -/
def Flit.received (f : Flit) (corrected : Fin 16) : Received := ⟨f.ackSeq, f.ackValid, f.nak, corrected⟩

/-- The segment to which a packet belongs (R305). -/
def Packet.key (k : Packet) : SegKey := ⟨k.source, k.dest, k.group, k.segment, k.step⟩

end Sys2Proof

namespace Sys2Proof.Machine

/-- Entry of the link and transport area of a channel (Table 10.13). -/
def kLink (c : Chan) (sub : Nat) : Nat := odKey (0x5100 + 0x100 * c.val) sub
/-- Entry of port `p` of a channel (Table 10.14). -/
def kPort (c : Chan) (p sub : Nat) : Nat := odKey (0x5800 + 0x100 * c.val + p) sub
/-- Entry of the link calibration area of a channel (Table 6.6). -/
def kLinkCal (c : Chan) (sub : Nat) : Nat := odKey (0x5C00 + 0x100 * c.val) sub

/-- Link port `p` of a channel. -/
def Channel.link (h : Channel) (p : Nat) : Link := mget Link.reset p h.net.links

/-- A channel with a link port replaced. -/
def Channel.setLink (h : Channel) (p : Nat) (k : Link) : Channel :=
  { h with net := { h.net with links := mset Link.reset p k h.net.links } }

/-- A link port changed by a function. -/
def State.onLink (s : State) (c : Chan) (p : Nat) (f : Link → Link) : State :=
  s.onChan c (fun h => h.setLink p (f (h.link p)))

/-- The transport part of a channel changed by a function. -/
def State.onNet (s : State) (c : Chan) (f : Transport → Transport) : State :=
  s.onChan c (fun h => { h with net := f h.net })

/-! ### Addresses (R302, R323) -/

/-- MODULE_NUMBER; 0xFFFF when unset. -/
def State.moduleNumber (s : State) : Nat := s.ent (odKey 0x5000 0x01)

/-- Position of the module in its block (R323). -/
def State.position (s : State) : Nat := s.moduleNumber % 32

/-- Block of the module (R323). -/
def State.block (s : State) : Nat := s.moduleNumber % 32768 / 32

/-- Address of a channel of the module. -/
def State.address (s : State) (c : Chan) : Nat := s.moduleNumber % 32768 * 4 + c.val

/-- Block of a channel address. -/
def addrBlock (a : Nat) : Nat := a / 128
/-- Position of a channel address in its block. -/
def addrPos (a : Nat) : Nat := a / 4 % 32
/-- Channel number of a channel address. -/
def addrChan (a : Nat) : Nat := a % 4

/-! ### Routes (R325, R328) -/

/-- Whether a route may use a link: UP and no GOODBYE sent (R316, R319). With `await`, also one under a recalibration that no other
route could replace: its packets wait for its end (R190; log entry 65). -/
def Link.routable (k : Link) (await : Bool) : Bool :=
  (k.state == 2 || (await && k.state == 7 && k.deferredAt.isSome)) && !k.goodbye

/-- Whether a route may use a port of this module. -/
def State.portUp (s : State) (await : Bool) (c p : Nat) : Bool :=
  let h := s.chan (Fin.ofNat 4 c)
  h.linksRun && (h.link p).routable await

/-- Whether the B link between positions `m` and `j` of plane `c` is UP (R324); `n` numbers what is found elsewhere. -/
def State.bUp (s : State) (await : Bool) (n m c j : Nat) : Bool :=
  let k := (j + 31 - m) % 32
  if m = s.position then s.portUp await c (3 + k)
  else if j = s.position then s.portUp await c (33 - k)
  else Config.remoteUp n m c (3 + k)

/-- Whether the M link between channels `c` and `d` at position `i` is UP (R7). -/
def State.mUp (s : State) (await : Bool) (n i c d : Nat) : Bool :=
  let k := (d + 3 - c) % 4
  if i = s.position then s.portUp await c k else Config.remoteUp n i c k

/-- B port of position `i` toward position `j` (R324). -/
def bPort (i j : Nat) : Nat := 3 + (j + 31 - i) % 32

/-- M port of channel `c` toward channel `d` (R7). -/
def mPort (c d : Nat) : Nat := (d + 3 - c) % 4

/-- The first port of the first route of Table 11.1 from channel `c` here to position `j`, channel `d`. -/
def State.blockRoute (s : State) (await : Bool) (n c j d : Nat) : Option Nat :=
  let bUp := s.bUp await n
  let mUp := s.mUp await n
  let i := s.position
  let others := (List.range 32).filter (fun m => m != i && m != j)
  let planes := (List.range 4).filter (fun e => e != c)
  let i' := (i + 1) % 32
  if i = j then
    (if mUp i c d then some (mPort c d)
      else if bUp i c i' && mUp i' c d && bUp i' d i then some (bPort i i')
      else none)
  else if c = d then
    (if bUp i c j then some (bPort i j)
      else match others.find? (fun m => bUp i c m && bUp m c j) with
        | some m => some (bPort i m)
        | none => (planes.find? (fun e => mUp i c e && bUp i e j && mUp j e c)).map (mPort c))
  else if bUp i c j && mUp j c d then some (bPort i j)
  else if mUp i c d && bUp i d j then some (mPort c d)
  else match others.find? (fun m => bUp i c m && bUp m c j && mUp j c d) with
    | some m => some (bPort i m)
    | none =>
      if mUp i c d && others.any (fun m => bUp i d m && bUp m d j) then some (mPort c d) else none

/-- The uplinks toward a block, in table order (R327, R328). -/
def Channel.exits (h : Channel) (block : Nat) : List Uplink := h.net.uplinks.filter (fun u => u.remote == block)

/-- The port out of which channel `c` sends a packet (R325, R328); `n` numbers what is found elsewhere. -/
def State.routeAt (s : State) (await : Bool) (n : Nat) (c : Chan) (source dest : Nat) : Option Nat :=
  if addrBlock dest = s.block then s.blockRoute await n c.val (addrPos dest) (addrChan dest)
  else
    let es := (s.chan c).exits (addrBlock dest)
    match es[(source + dest) % es.length]? with
    | none => none
    | some u =>
      if u.position = s.position ∧ u.channel = c.val then
        (if s.portUp await c.val (34 + u.port) then some (34 + u.port) else none)
      else s.blockRoute await n c.val u.position u.channel

/-- The route of a packet over links that are UP, else the one over a link whose recalibration it awaits (R190, R316); and the
state that has used a free value for links elsewhere. -/
def State.route (s : State) (c : Chan) (source dest : Nat) : Option Nat × State :=
  let r := s.drawFree
  (s.routeAt false r.1 c source dest <|> s.routeAt true r.1 c source dest, r.2)

/-! ### Sending (R303, R318) -/

/-- A packet put to wait on a port. -/
def State.enqueue (s : State) (c : Chan) (p : Nat) (k : Packet) (source : Option Nat) : State :=
  s.onLink c p (fun l => { l with queue := l.queue ++ [⟨k, false, source⟩] })

/-- A packet put among those that have arrived at the channel. -/
def State.toInbox (s : State) (c : Chan) (port : Option Nat) (k : Packet) : State :=
  s.onNet c (fun n => { n with inbox := n.inbox ++ [(port, k)] })

/-- Words leave the receive buffer of a port: their tickets are to be returned (R300). -/
def State.giveBack (s : State) (c : Chan) (port : Option Nat) (k : Packet) : State :=
  match port with
  | none => s
  | some p => s.onLink c p (fun l => { l with returns := l.returns.set (k.cls % 4) (l.returns.getD (k.cls % 4) 0 + k.words) })

/-- The UNREACHABLE packet that answers a packet (R312). -/
def unreachableFor (me : Nat) (k : Packet) : Packet :=
  Packet.seal { ptype := 0x07, cls := 0, last := false, dest := k.source, source := me, group := k.group,
                segment := k.segment, seq := 0, hops := 8, epoch := k.epoch, step := k.step, tag := 0, e2e := 0,
                data := leBytes 4 k.dest ++ leBytes 2 k.group ++ leBytes 2 k.segment ++ leBytes 2 k.seq
                  ++ List.replicate 6 0#8 }

/-- Sends UNREACHABLE to a packet's SOURCE if a route to it exists (R303, R318). -/
def State.sendUnreachable (s : State) (c : Chan) (k : Packet) : State :=
  let u := unreachableFor (s.address c) k
  if k.source = s.address c then s.toInbox c none u
  else
    let r := s.route c u.source u.dest
    match r.1 with
    | some p => r.2.enqueue c p u none
    | none => r.2

/-- A packet with a header as it stands goes toward its DEST; without a route it is discarded (R318). -/
def State.sendPacket (s : State) (c : Chan) (k : Packet) (source : Option Nat) : State :=
  if k.dest = s.address c then (s.giveBack c source k).toInbox c none k
  else
    let r := s.route c k.source k.dest
    match r.1 with
    | some p => r.2.enqueue c p k source
    | none => ((r.2.giveBack c source k).bump c (kLink c 0xD5)).sendUnreachable c k

/-! ### Segments as sender (R305, R307) -/

/-- Numbers the next packet of a segment and sends it. Log entry 23. -/
def State.sendNumbered (s : State) (c : Chan) (t : TxSegment) (k : Packet) : State :=
  let k := Packet.seal { k with seq := t.next, hops := 8 }
  let now := (s.chan c).clock.timebase
  let t' := { t with next := t.next + 1, last := t.last || k.last, unacked := t.unacked ++ [⟨k, 0, now⟩] }
  (s.onNet c (fun n => { n with tx := (n.tx.filter (fun u => u.key != t.key)) ++ [t'] })).sendPacket c k none

/-- Sends one waiting packet if its segment is open, or may be opened, and has room; whether it went. -/
def State.pumpOne (s : State) (c : Chan) (k : Packet) : State × Bool :=
  match (s.chan c).net.tx.find? (fun t => t.key == k.key) with
  | some t => if t.unacked.length < 1024 then (s.sendNumbered c t k, true) else (s, false)
  | none => if (s.chan c).net.tx.length < 1024 then (s.sendNumbered c ⟨k.key, 0, false, []⟩ k, true) else (s, false)

/-- Sends the waiting packets that may go, in order (R305, R307). Log entry 102. -/
def State.pump (s : State) (c : Chan) : State :=
  let waiting := (s.chan c).net.outbox
  let r := waiting.foldl (fun (a : State × List Packet) k =>
    let q := a.1.pumpOne c k
    if q.2 then (q.1, a.2) else (a.1, a.2 ++ [k])) (s, [])
  r.1.onNet c (fun n => { n with outbox := r.2 })

/-- A communication group of a channel. -/
def Channel.comm (h : Channel) (g : Nat) : Option Group := h.groups.find? (fun q => q.id == g)

/-- Sends a packet of a segment; one for the channel itself arrives at once (log entry 23). A FAILED group carries no traffic
(R340). -/
def State.post (s : State) (c : Chan) (k : Packet) : State :=
  if ((s.chan c).comm k.group).any (fun g => g.state == .failed) then s
  else if k.dest = s.address c then s.toInbox c none (Packet.seal { k with hops := 8 })
  else (s.onNet c (fun n => { n with outbox := n.outbox ++ [k] })).pump c

/-- Aborts a segment held open (R312): its packets are given up, the counter advances, the event names it. -/
def State.dropSegment (s : State) (c : Chan) (key : SegKey) (seq : Nat) : State :=
  let s := s.onNet c (fun n => { n with tx := n.tx.filter (fun t => t.key != key),
                                        outbox := n.outbox.filter (fun k => k.key != key) })
  let s := (s.bump c (kLink c 0xD6)).raise c 0x0057
    (leBytes 4 key.dest ++ leBytes 2 key.group ++ leBytes 2 key.segment ++ leBytes 2 seq)
  s.pump c

/-! ### Segments as receiver (R304, R306) -/

/-- A group replaced. -/
def Channel.setComm (h : Channel) (g : Group) : Channel :=
  { h with groups := h.groups.map (fun q => if q.id = g.id then g else q) }

/-- SELECT bits of an acknowledgement (R306). -/
def RxSegment.select (r : RxSegment) : Nat :=
  (List.range 64).foldl (fun a i => if r.got.contains (r.next + 1 + i) then a + 2 ^ i else a) 0

/-- Sends a SEG_ACK for a segment (R306). -/
def State.sendAck (s : State) (c : Chan) (r : RxSegment) (epoch : Byte) : State :=
  s.sendPacket c (Packet.seal { ptype := 0x06, cls := 0, last := false, dest := r.key.source, source := s.address c,
                                group := r.key.group, segment := r.key.segment, seq := 0, hops := 8, epoch := epoch,
                                step := r.key.step, tag := 0, e2e := 0,
                                data := leBytes 2 r.next ++ leBytes 1 (if r.complete then 1 else 0)
                                  ++ List.replicate 5 0#8 ++ leBytes 8 r.select }) none

/-- A receiving segment with one more SEQ received. -/
def RxSegment.take (r : RxSegment) (seq : Nat) (last : Bool) : RxSegment :=
  let got := if r.got.contains seq then r.got else seq :: r.got
  let next := (List.range (got.length + 1)).foldl (fun n _ => if got.contains n then n + 1 else n) r.next
  let fin := if last then some seq else r.last
  { r with next := next, got := got.filter (fun q => next ≤ q), last := fin, fresh := r.fresh + 1,
           complete := (match fin with
             | some l => decide (l < next)
             | none => false) }

/-- The state of a receiving segment replaced. -/
def State.setRx (s : State) (c : Chan) (r : RxSegment) : State :=
  s.onNet c (fun n => { n with rx := (n.rx.filter (fun q => q.key != r.key)) ++ [r] })

/-- Puts a packet into its segment; whether it is to be delivered (R306). -/
def State.intoSegment (s : State) (c : Chan) (k : Packet) : State × Bool :=
  let r := ((s.chan c).net.rx.find? (fun q => q.key == k.key)).getD ⟨k.key, 0, [], none, 0, false⟩
  if r.complete || decide (k.seq < r.next) || r.got.contains k.seq then
    ((s.bump c (kLink c 0xD1)).sendAck c r k.epoch, false)
  else
    let r' := r.take k.seq k.last
    if r'.complete || decide (64 ≤ r'.fresh) then
      let r' := { r' with fresh := 0 }
      ((s.setRx c r').sendAck c r' k.epoch, true)
    else (s.setRx c r', true)

/-- Takes a packet out of the receive buffer; the first that equals it, with the port that holds its words. -/
def State.takeInbox (s : State) (c : Chan) (k : Packet) : State :=
  match (s.chan c).net.inbox.find? (fun e => e.2 == k) with
  | none => s
  | some e => (s.onNet c (fun n => { n with inbox := n.inbox.erase e })).giveBack c e.1 k

/-- A packet of a new segment waits while 1,024 segments are open as receiver (R305). -/
def Channel.rxFull (h : Channel) (k : Packet) : Bool :=
  !h.net.rx.any (fun q => q.key == k.key) && decide (1024 ≤ (h.net.rx.filter (fun q => !q.complete)).length)

/-- Whether the channel takes packets addressed to it now. -/
def State.receives (s : State) (c : Chan) (k : Packet) : Bool :=
  (s.chan c).linksRun && k.dest == s.address c && (k.source == s.address c || !(s.chan c).rxFull k)

/-- The checks on a packet at its destination (R304, R336): E2E_CRC, then the group's registration and epoch; `exempt` for
the messages that go outside a group's epoch. Whether it is still to be delivered. -/
def State.checkPacket (s : State) (c : Chan) (k : Packet) (exempt : Bool) : State × Bool :=
  if k.e2e ≠ k.crc then (s.bump c (kLink c 0xD2), false)
  else
    let fresh : Bool := match (s.chan c).comm k.group with
      | some g => (exempt || g.epoch.setWidth 8 == k.epoch) && g.state != GroupState.failed
      | none => exempt
    if fresh then (s, true) else (s.bump c (kLink c 0xD3), false)

/-- A packet of a segment arrives (R302 to R306): the state after its checks, and whether its data is delivered. -/
def State.receive (s : State) (c : Chan) (k : Packet) (exempt : Bool) : State × Bool :=
  if !s.receives c k then (s, false)
  else
    let r := (s.takeInbox c k).checkPacket c k exempt
    if !r.2 then r
    else if k.source = s.address c then r
    else r.1.intoSegment c k

end Sys2Proof.Machine
end

