-- ==== Sys2Proof/Machine/Elementary.lean ====
section
/-!
DEFINITION. The elementary functions whose results the spec bounds and does not fix (07 R213, R217) or names by an equation
(16 R469): their values to far below the bound, in fixed point with 160 fraction bits, and the choice of a free result within the bound
(notes/assumptions/114.md).
-/

namespace Sys2Proof.Machine

/-- Fraction bits of the fixed-point values of this file. -/
def fixBits : Nat := 160

/-- 1 in fixed point. -/
def fixOne : Int := 2 ^ fixBits

/-- Product of two fixed-point values, rounded down. -/
def fixMul (a b : Int) : Int := a * b / fixOne

/-- Quotient of two fixed-point values, rounded down. -/
def fixDiv (a b : Int) : Int := a * fixOne / b

/-- The fixed-point value of a finite value, its magnitude rounded down. -/
def Fp.toFix : Fp → Int
  | .fin n m e =>
    let k := e + fixBits
    let q := if 0 ≤ k then m * 2 ^ k.toNat else m >>> (-k).toNat
    if n then -(q : Int) else q
  | _ => 0

/-- A fixed-point value as an exact value. -/
def Fp.ofFix (z : Int) : Fp := .fin (decide (z < 0)) z.natAbs (-(fixBits : Int))

/-- e^−z for z from 0: the series of e^−(z ÷ 2^16) to its 24th power, squared sixteen times. -/
def fixExpNeg (z : Int) : Int :=
  if 200 * fixOne ≤ z then 0
  else
    let r := z / 2 ^ 16
    let t := (List.range 24).foldl (fun (acc : Int) i => fixOne - fixMul r acc / ((24 - i : Nat) : Int)) fixOne
    (List.range 16).foldl (fun (acc : Int) _ => fixMul acc acc) t

/-- σ(x) = 1 ÷ (1 + e^−x). -/
def fixSigma (x : Int) : Int :=
  let e := fixExpNeg (if x < 0 then -x else x)
  if x < 0 then fixDiv e (fixOne + e) else fixDiv fixOne (fixOne + e)

/-- 1 ÷ √(2π) in fixed point. -/
def fixInvSqrtTwoPi : Int := 583054796007218040734191730443699882195345907504

/-- φ(x), the standard normal density. -/
def fixDensity (x : Int) : Int := fixMul fixInvSqrtTwoPi (fixExpNeg (fixMul x x / 2))

/-- Φ(x), the standard normal distribution function, for |x| below 9: ½ + φ(x) × Σ x^(2n+1) ÷ (1 × 3 × … × (2n+1)). -/
def fixNormal (x : Int) : Int :=
  let q := fixMul x x
  let s := (List.range 220).foldl (fun (acc : Int × Int) n =>
    let t := fixMul acc.1 q / ((2 * n + 3 : Nat) : Int)
    (t, acc.2 + t)) (x, x)
  fixOne / 2 + fixMul (fixDensity x) s.2

/-- ln(1 + y) for y from 0 to 1: 2 × artanh(y ÷ (2 + y)) by 60 terms of its series. -/
def fixLogOnePlus (y : Int) : Int :=
  let t := fixDiv y (2 * fixOne + y)
  let q := fixMul t t
  let s := (List.range 60).foldl (fun (acc : Int × Int) k =>
    (fixMul acc.1 q, acc.2 + acc.1 / ((2 * k + 1 : Nat) : Int))) (t, 0)
  2 * s.2

/-- A decimal of `n` ÷ 10^`d` in fixed point. -/
def fixDecimal (n d : Nat) : Int := (n : Int) * fixOne / ((10 ^ d : Nat) : Int)

/-- 2 × 0.7978845608 × (x + 0.044715 x³): the argument of σ in x σ(w), which is the tanh form of GELU. -/
def fixGeluArg (x : Int) : Int :=
  2 * fixMul (fixDecimal 7978845608 10) (x + fixMul (fixDecimal 44715 6) (fixMul x (fixMul x x)))

/-- The derivative of that argument. -/
def fixGeluSlope (x : Int) : Int :=
  2 * fixMul (fixDecimal 7978845608 10) (fixOne + 3 * fixMul (fixDecimal 44715 6) (fixMul x x))

/-- Beyond this magnitude an activation of Table 7.9 has its limiting value to far below the bound: GELU 9 and 16, SiLU and
softplus 200. -/
def activationLimit (code : Nat) : Nat := if code = 3 then 9 else if code = 4 then 16 else 200

/-- f of codes 3 to 6 of Table 7.9 at a finite x. -/
def activationValue (code : Nat) (x : Fp) : Fp :=
  if !Fp.gt (Fp.ofInt (activationLimit code)) x.abs then (if Fp.gt x Fp.zero then x else Fp.zero)
  else
    let z := x.toFix
    Fp.ofFix (if code = 3 then fixMul z (fixNormal z)
      else if code = 4 then fixMul z (fixSigma (fixGeluArg z))
      else if code = 5 then fixMul z (fixSigma z)
      else (if 0 < z then z else 0) + fixLogOnePlus (fixExpNeg (if z < 0 then -z else z)))

/-- f′ of codes 3 to 6 of Table 7.9 at a finite x. -/
def activationSlope (code : Nat) (x : Fp) : Fp :=
  if !Fp.gt (Fp.ofInt (activationLimit code)) x.abs then (if Fp.gt x Fp.zero then Fp.one else Fp.zero)
  else
    let z := x.toFix
    let gate := fun (w slope : Int) =>
      let g := fixSigma w
      g + fixMul (fixMul z slope) (fixMul g (fixOne - g))
    Fp.ofFix (if code = 3 then fixNormal z + fixMul z (fixDensity z)
      else if code = 4 then gate (fixGeluArg z) (fixGeluSlope z)
      else if code = 5 then gate z fixOne
      else fixSigma z)

/-- The bounds of Table 7.9 in BF16 ulps. -/
def activationBound (code : Nat) (derivative : Bool) : Nat := if derivative && code != 6 then 2 else 1

/-- e^d for d not above 0. -/
def expValue (d : Fp) : Fp := if Fp.gt d.abs (Fp.ofInt 199) then Fp.zero else Fp.ofFix (fixExpNeg d.abs.toFix)

/-- Exponent of the BF16 ulp of a value. -/
def bfUlp : Fp → Int
  | .fin _ m e => if m = 0 then -133 else max (e + bitLen m - 1) (-126) - 7
  | _ => 0

/-- The free FP32 result `v` where it lies within `ulps` BF16 ulps of the exact value or 2^−30 of it, whichever is larger, and else
the exact value rounded to FP32 (R213, R217). `e` stands for the exact value to within 2^−100; the bound is drawn in by one part
in 2^13, so that `v` lies within it of the exact value itself. -/
def nearExact (ulps : Nat) (e v : Fp) : Fp :=
  let low := Fp.addExact e.abs (.fin true 1 (-100))
  let b := Fp.maxOf (.fin false ulps (if Fp.gt low Fp.zero then bfUlp low else -133)) (.fin false 1 (-30))
  if Fp.le (Fp.addExact v e.neg).abs (Fp.mulExact b (.fin false 8191 (-13))) then v else toF32 e

/-- ln x for a fixed-point x above 0: x is 2^k × m with m from 1 below 2. -/
def fixLn (x : Int) : Int :=
  let k : Int := (bitLen x.natAbs : Int) - 1 - fixBits
  let m := if 0 ≤ k then x / 2 ^ k.toNat else x * 2 ^ (-k).toNat
  k * fixLogOnePlus fixOne + fixLogOnePlus (m - fixOne)

/-- The temperature in °C of a thermistor (Table 16.9): R from RESULT_RAW against 10 kΩ, then 1 ÷ (1 ÷ 298.15 + ln(R ÷ R0) ÷ β) −
273.15; none where the equation gives no temperature. -/
def thermistorTemp (raw : Int) (r0 beta : Fp) : Option Fp :=
  let z0 := r0.toFix
  let zb := beta.toFix
  if raw ≤ 0 ∨ z0 ≤ 0 ∨ zb = 0 then none
  else
    let x := fixDiv (10000 * fixOne * raw / (2 ^ 23 - raw)) z0
    if x ≤ 0 then none
    else
      let inverse := fixDiv fixOne (fixDecimal 29815 2) + fixDiv (fixLn x) zb
      if inverse ≤ 0 then none else some (Fp.ofFix (fixDiv fixOne inverse - fixDecimal 27315 2))

/-- R ÷ R0 of a platinum resistor at a temperature in °C: the equation of IEC 60751 (Table 16.9; log entry 131). -/
def platinumRatio (t : Int) : Int :=
  fixOne + fixMul (fixDecimal 39083 7) t - fixMul (fixDecimal 5775 10) (fixMul t t)
    - (if t < 0 then fixMul (fixDecimal 4183 15) (fixMul (t - 100 * fixOne) (fixMul t (fixMul t t))) else 0)

/-- The temperature at which a platinum resistor has a ratio, between `low` and `high`, by `k` halvings. -/
def platinumSolve (ratio : Int) : Nat → Int → Int → Int
  | 0, low, _ => low
  | k + 1, low, high =>
    let mid := (low + high) / 2
    if platinumRatio mid ≤ ratio then platinumSolve ratio k mid high else platinumSolve ratio k low mid

/-- The temperature in °C of a Pt1000 input (Table 16.9); none outside the range of the equation, −200 to 850 °C. -/
def rtdTemp (raw : Int) : Option Fp :=
  let ratio := 2 * fixOne * raw / 2 ^ 23
  if ratio < platinumRatio (-200 * fixOne) ∨ platinumRatio (850 * fixOne) < ratio then none
  else some (Fp.ofFix (platinumSolve ratio 180 (-200 * fixOne) (850 * fixOne)))

/-- The exact softmax of one row of finite or −∞ values with a finite greatest one `mu` (Table 7.10). -/
def softmaxValues (mu : Fp) (zs : List Fp) : List Fp :=
  let es := zs.map (fun z => match z with
    | .fin _ _ _ => (expValue (Fp.addExact z mu.neg)).toFix
    | _ => 0)
  let d := es.foldl (· + ·) 0
  es.map (fun e => Fp.ofFix (fixDiv e d))

end Sys2Proof.Machine
end

