-- ==== Sys2Proof/Machine/Operands.lean ====
section
/-!
DEFINITION. Operand forms: descriptors in memory, tensor descriptors and their checks, reading and writing elements,
blocks and lines (03 R72 to R95, 07 R193 to R204, 09 R263, R276 to R279, 10 R308, 13 R395).
-/

namespace Sys2Proof.Machine

/-- First byte of the retransmit area (R308). -/
def retransmitBase : Nat := 0x63DE000000

/-- Whether `n` bytes from `a` may be named by a descriptor: wholly in HBM below the retransmit area, or wholly in the
shared store (R194, R308). -/
def nameable (a n : Nat) : Bool := decide (a + n ≤ retransmitBase) || inStore a n

/-- Whether `n` bytes from `a` lie in HBM below the retransmit area. -/
def hbmFree (a n : Nat) : Bool := decide (a + n ≤ retransmitBase)

/-- Whether a descriptor of `n` bytes may be read at `a` (R194). -/
def descAt (a n : Nat) : Bool := decide (a % 64 = 0) && nameable a n

/-- Division rounding up. -/
def ceilDiv (a b : Nat) : Nat := (a + b - 1) / b

/-! ### Tensor descriptors -/

/-- The tensor descriptor in memory at `a` (Table 7.3). -/
def Channel.tensorDesc (x : Channel) (a : Nat) : TensorDesc :=
  { addr := a, format := x.nat (a + 2) 1, layout := x.nat (a + 3) 1, flags := x.nat (a + 4) 2,
    versionTag := BitVec.ofNat 16 (x.nat (a + 6) 2), rows := x.nat (a + 8) 4, cols := x.nat (a + 12) 4,
    data := x.nat (a + 16) 8, stride := x.nat (a + 24) 8, scale := x.nat (a + 32) 4, tensorId := x.nat (a + 36) 4,
    status := x.nat (a + 40) 8, stepTag := x.nat (a + 48) 8, recompute := x.nat (a + 56) 8 }

/-- The block format of a code of Table 7.4. -/
def blkFmt (code : Nat) : Option BlkFmt :=
  match code with
  | 0 => some .kf4
  | 1 => some .ki4
  | 2 => some .kf6a
  | 3 => some .kf6b
  | _ => none

/-- The block format of a tensor; none for a wide format. -/
def TensorDesc.blk (t : TensorDesc) : Option BlkFmt := blkFmt t.format

/-- Whether the format code is one of Table 7.4. -/
def formatOk (f : Nat) : Bool := decide (f < 4) || f == 0x10 || f == 0x11 || f == 0x12

/-- Padded length of a stored row of `n` elements (Table 7.4). -/
def paddedLen (format n : Nat) : Nat :=
  64 * ceilDiv n (match format with
    | 0 => 112
    | 1 => 112
    | 2 => 64
    | 3 => 64
    | 0x10 => 32
    | 0x11 => 16
    | _ => 10)

/-- Stored rows of a tensor (R203). -/
def TensorDesc.storedRows (t : TensorDesc) : Nat := if t.layout = 0 then t.rows else t.cols

/-- Elements of a stored row (R203). -/
def TensorDesc.rowLen (t : TensorDesc) : Nat := if t.layout = 0 then t.cols else t.rows

/-- Padded length of a stored row. -/
def TensorDesc.padded (t : TensorDesc) : Nat := paddedLen t.format t.rowLen

/-- Bytes from DATA to the end of the last stored row. -/
def TensorDesc.extent (t : TensorDesc) : Nat := (t.storedRows - 1) * t.stride + t.padded

/-- Stored row and element of a logical element (R203). -/
def TensorDesc.stored (t : TensorDesc) (row col : Nat) : Nat × Nat := if t.layout = 0 then (row, col) else (col, row)

/-- Logical row and column of a stored element. -/
def TensorDesc.logical (t : TensorDesc) (sr i : Nat) : Nat × Nat := if t.layout = 0 then (sr, i) else (i, sr)

/-- The logical index row × COLS + column of a stored element. -/
def TensorDesc.index (t : TensorDesc) (sr i : Nat) : Nat := (t.logical sr i).1 * t.cols + (t.logical sr i).2

/-- Whether a tensor lies wholly in the shared store, or wholly in HBM below the retransmit area. -/
def TensorDesc.inStore (t : TensorDesc) : Bool := Machine.inStore t.data t.extent
/-- Whether a tensor lies wholly in HBM below the retransmit area. -/
def TensorDesc.inHbm (t : TensorDesc) : Bool := hbmFree t.data t.extent

/-- The settings that a tensor check looks at: K2 emulation (R279) and the step that CHECK_STEP asks for (R395). -/
structure LoadEnv where
  k2 : Bool
  step : Nat
  deriving DecidableEq, Repr

/-- First offending field of a tensor descriptor, by the byte offset of Table 7.3, if any (R12, R73, R194, R204, R263, R279,
R308). `written` marks a tensor that the operation writes, `place` where the engine may reach. -/
def TensorDesc.offence (t : TensorDesc) (x : Channel) (env : LoadEnv) (written : Bool)
    (place : Nat → Nat → Bool) : Option Nat :=
  if x.nat t.addr 2 ≠ 0x10 then some 0
  else if !formatOk t.format || (env.k2 && (t.format == 2 || t.format == 3)) then some 2
  else if 1 < t.layout then some 3
  else if t.stochastic && decide (2 ^ 48 < t.rows * t.cols) then some 4
  else if t.rows = 0 ∨ 2 ^ 31 ≤ t.rows then some 8
  else if t.cols = 0 ∨ 2 ^ 31 ≤ t.cols then some 12
  else if t.data % 64 ≠ 0 || !nameable t.data t.extent || !place t.data t.extent then some 16
  else if t.stride % 64 ≠ 0 || decide (t.stride < t.padded) then some 24
  else if (if t.blk.isSome then (t.scale / 2 ^ 23 = 0 ∨ 255 ≤ t.scale / 2 ^ 23) else t.scale ≠ 0x3F800000) then some 32
  else if (t.status ≠ 0 && (t.status % 64 != 0 || !nameable t.status 128))
      || (written && t.blk.isSome && t.status == 0) then some 40
  else if t.recompute ≠ 0 && !descAt t.recompute 128 then some 56
  else none

/-- Whether CHECK_STEP refuses the tensor (R395). -/
def TensorDesc.stepRefused (t : TensorDesc) (env : LoadEnv) : Bool := t.checkStep && t.stepTag != env.step

/-- Loads a tensor descriptor named at `field` of the descriptor at `owner` of type `ty`: the tensor, or what is
refused (R194, R204, R395, R421). -/
def Channel.loadTensor (x : Channel) (env : LoadEnv) (ty owner field a : Nat) (written : Bool)
    (place : Nat → Nat → Bool) : Except Refused TensorDesc :=
  if !descAt a 128 then .error ⟨ty, owner, field, 0⟩
  else
    let t := x.tensorDesc a
    match t.offence x env written place with
    | some off => .error ⟨0x10, a, off, 0⟩
    | none => if t.stepRefused env then .error ⟨0x10, a, 48, 1⟩ else .ok t

/-- Any place that a descriptor may name. -/
def anywhere (a n : Nat) : Bool := nameable a n

/-- The shared store only. -/
def onlyStore (a n : Nat) : Bool := inStore a n

/-- HBM only. -/
def onlyHbm (a n : Nat) : Bool := hbmFree a n

/-! ### Reading -/

/-- Whether a store word cannot be corrected (R197). -/
def uncorrectable (f : Option StoreFault) : Bool :=
  match f with
  | some f => f.uncorrectable
  | none => false

/-- Whether the store line at `a` holds an uncorrectable word (R197). -/
def Channel.lineBad (x : Channel) (a : Nat) : Bool :=
  inStore a 1 && x.storeErr.any (fun p => decide (p.1 / 8 = a / 64) && uncorrectable p.2)

/-- The integers of the elements of block `b` in a line (R85, R86). -/
def lineInts (f : BlkFmt) (line : List Byte) (b : Nat) : List Int :=
  (List.range 16).map (fun i =>
    let e := 16 * b + i
    if f.six then f.codeK (leNat (line.take 48) / 2 ^ (6 * e) % 64)
    else
      let byte := (line.getD (e / 2) 0#8).toNat
      f.codeK (if e % 2 = 0 then byte % 16 else byte / 16))

/-- The scale byte of block `b` in a line. -/
def lineScale (f : BlkFmt) (line : List Byte) (b : Nat) : Nat := (line.getD ((if f.six then 48 else 56) + b) 0#8).toNat

/-- Address of the line that holds block `b` of stored row `sr`. -/
def TensorDesc.lineAddr (t : TensorDesc) (f : BlkFmt) (sr b : Nat) : Nat :=
  t.data + sr * t.stride + 64 * (b / f.blocksPerLine)

/-- Block `b` of stored row `sr` as an engine reads it, outside K2 emulation (R74, R84, R88, R197). A line with both a mismatched
FORMAT and an invalid row scale has the one fault of kind 0x05: its row scale is not read (log entry 117). -/
def Channel.readBlock (x : Channel) (t : TensorDesc) (f : BlkFmt) (sr b : Nat) : Block :=
  let a := t.lineAddr f sr b
  let line := x.bytes a 64
  let tag := (line.getD 63 0#8).toNat
  let bi := b % f.blocksPerLine
  if x.lineBad a then ⟨255, Fp.one, [], some 0x09, tag / 16 % 2 == 1⟩
  else if line.all (· == 0#8) then ⟨0, Fp.one, List.replicate 16 0, none, false⟩
  else
    let r := Fp.decode bf16 (leNat ((line.drop 52).take 2))
    let badScale := f.six && (match r with
      | .fin n m _ => n || m == 0
      | _ => true)
    let fault := if tag / 32 ≠ f.code then some 0x05 else if badScale then some 0x04 else none
    ⟨lineScale f line bi, if f.six then r else Fp.one, lineInts f line bi, fault, tag / 16 % 2 == 1⟩

/-- Whether a code is allowed for a K2 block (R276). -/
def k2CodeOk (c : Nat) : Bool := c == 0 || c == 255 || c == 1 || c == 2 || c == 4
  || (decide (8 ≤ c) && decide (c ≤ 0xF8) && c % 8 == 0)

/-- K2 block `j` of a stored row in emulation: its two halves, or one where the row ends (R276). -/
def Channel.readK2 (x : Channel) (t : TensorDesc) (f : BlkFmt) (sr j : Nat) : Block :=
  let lo := x.readBlock t f sr (2 * j)
  let total := t.padded / 64 * f.blocksPerLine
  if total ≤ 2 * j + 1 then
    { lo with fault := lo.fault <|> (if k2CodeOk lo.scale then none else some 0x05) }
  else
    let hi := x.readBlock t f sr (2 * j + 1)
    let ok := k2CodeOk lo.scale && lo.scale == hi.scale
    ⟨lo.scale, lo.rowScale, (lo.ks ++ List.replicate (16 - lo.ks.length) 0) ++ hi.ks,
      lo.fault <|> hi.fault <|> (if ok then none else some 0x05), lo.degraded || hi.degraded⟩

/-- Address of element `i` of stored row `sr` in a wide format (R93, R94). -/
def TensorDesc.wideAddr (t : TensorDesc) (sr i : Nat) : Nat :=
  t.data + sr * t.stride + (match t.format with
    | 0x10 => 2 * i
    | 0x11 => 4 * i
    | _ => 64 * (i / 10) + 6 * (i % 10))

/-- Format of a wide tensor. -/
def TensorDesc.wide (t : TensorDesc) : Fmt := if t.format = 0x10 then bf16 else if t.format = 0x11 then fp32 else ka48

/-- Bytes of an element of a wide tensor. -/
def TensorDesc.wideBytes (t : TensorDesc) : Nat := if t.format = 0x10 then 2 else if t.format = 0x11 then 4 else 6

/-- What an engine reads for one element: its value in the target format, the fault of its line with the line's first block along
the stored row (R565), and DEGRADED. -/
structure Elem where
  value : Fp
  fault : Option (Nat × Nat)
  degraded : Bool
  deriving DecidableEq, Repr

/-- One element of a stored row, decoded to a target format by one rounding of its exact value (R83, R84, R93, R197). -/
def Channel.storedElemAs (x : Channel) (target : Fmt) (k2 : Bool) (t : TensorDesc) (sr i : Nat) : Elem :=
  match t.blk with
  | some f =>
    let b := if k2 then x.readK2 t f sr (i / 32) else x.readBlock t f sr (i / 16)
    let v := (b.elem f (f32 t.scale) (if k2 then i % 32 else i % 16)).round target .nearest
    ⟨v, b.fault.map (fun k => (k, i / 16 / f.blocksPerLine * f.blocksPerLine)), b.degraded⟩
  | none =>
    let a := t.wideAddr sr i
    if x.lineBad a then ⟨.nan, some (0x09, 0xFFFFFFFF), false⟩
    else ⟨(Fp.decode t.wide (x.nat a t.wideBytes)).round target .nearest, none, false⟩

/-- One element of a stored row, decoded to FP32. -/
def Channel.storedElem (x : Channel) (k2 : Bool) (t : TensorDesc) (sr i : Nat) : Elem := x.storedElemAs fp32 k2 t sr i

/-- One logical element decoded to BF16 (R83, R220, R281). -/
def Channel.elemBf (x : Channel) (k2 : Bool) (t : TensorDesc) (row col : Nat) : Elem :=
  x.storedElemAs bf16 k2 t (t.stored row col).1 (t.stored row col).2

/-- One logical element decoded to FP32. -/
def Channel.elem (x : Channel) (k2 : Bool) (t : TensorDesc) (row col : Nat) : Elem :=
  x.storedElem k2 t (t.stored row col).1 (t.stored row col).2

/-- One logical element of a KA48 tensor, exactly. -/
def Channel.ka (x : Channel) (t : TensorDesc) (row col : Nat) : Fp :=
  Fp.decode ka48 (x.nat (t.wideAddr (t.stored row col).1 (t.stored row col).2) 6)

/-! ### Writing -/

/-- The element bytes of a line with block `b`'s codes put in (R85, R86). -/
def putCodes (f : BlkFmt) (line : List Byte) (b : Nat) (codes : List Nat) : List Byte :=
  if f.six then
    let mask := (2 ^ 96 - 1) * 2 ^ (96 * b)
    let old := leNat (line.take 48)
    let v := (codes.zipIdx.map (fun p => p.1 * 2 ^ (6 * (16 * b + p.2)))).foldl (· + ·) 0
    leBytes 48 (old - (old &&& mask) + v) ++ line.drop 48
  else
    let mine := (List.range 8).map (fun i => BitVec.ofNat 8 (codes.getD (2 * i) 0 + 16 * codes.getD (2 * i + 1) 0))
    line.take (8 * b) ++ mine ++ line.drop (8 * b + 8)

/-- A line with one block written (R75, R85 to R90): codes, scale, row scale 1.0 and the summary bits; `fresh` begins
the line from zero, so that the summaries are those of the blocks written by this execution. -/
def putBlock (f : BlkFmt) (line : List Byte) (fresh : Bool) (b : Nat) (o : BlockOut) (degraded : Bool) : List Byte :=
  let line := if fresh then List.replicate 64 0#8 else line
  let line := putCodes f line b o.codes
  let line := line.set ((if f.six then 48 else 56) + b) (BitVec.ofNat 8 o.scale)
  let line := if f.six then (line.set 52 0x80#8).set 53 0x3F#8 else line
  let old := (line.getD 63 0#8).toNat
  let bit := fun (n : Nat) (c : Bool) => if c || old.testBit n then 2 ^ n else 0
  line.set 63 (BitVec.ofNat 8 (f.code * 32 + bit 4 degraded + bit 3 (o.scale == 255) + bit 2 o.saturated + bit 1 o.crushed))

/-- Bytes that a wide row write puts: the element, and zeros to the padded length after the last one (R203). -/
def TensorDesc.wideWrite (t : TensorDesc) (sr i : Nat) (v : Fp) : Nat × List Byte :=
  let a := t.wideAddr sr i
  let pad := if i + 1 = t.rowLen then t.data + sr * t.stride + t.padded - (a + t.wideBytes) else 0
  (a, leBytes t.wideBytes (Fp.encode t.wide v) ++ List.replicate pad 0#8)

/-- The draws of the elements from `i` of a stored row (R261). -/
def TensorDesc.draws (t : TensorDesc) (keys : DrawKeys) (sr i n : Nat) : List Nat :=
  (List.range n).map (fun j => keys.at (t.index sr (i + j)))

/-- The mode of a conversion into a tensor (R79, R258). -/
def TensorDesc.mode (t : TensorDesc) (keys : DrawKeys) (sr i n : Nat) : Mode :=
  if t.stochastic then .stochastic (t.draws keys sr i n) else .nearest

/-- T_INV of a tensor (R77). -/
def TensorDesc.tInv (t : TensorDesc) : Fp := div32 Fp.one (f32 t.scale)

end Sys2Proof.Machine
end

