-- ==== Sys2Proof/Machine/Flags.lean ====
section
/-!
DEFINITION. Sticky flags and counters of status records: tensor status records and layer status records
(04 R130, 07 R205 to R207, R565, 09 R269, R270).
-/

namespace Sys2Proof.Machine

/-! ### Keys of entries used here -/

/-- Entry of the engine and training area of a channel. -/
def kEng (c : Chan) (sub : Nat) : Nat := odKey (0x6100 + 0x100 * c.val) sub
/-- Entry of the array area of a channel. -/
def kArr (c : Chan) (sub : Nat) : Nat := odKey (0x4100 + 0x100 * c.val) sub
/-- Entry of the power area of a channel. -/
def kPow (c : Chan) (sub : Nat) : Nat := odKey (0x2000 + 0x100 * c.val) sub
/-- Entry of the firmware and start-up area of a channel. -/
def kFw (c : Chan) (sub : Nat) : Nat := odKey (0x7100 + 0x100 * c.val) sub

/-! ### Store errors (R197) -/

/-- One correctable word is read: corrected, counted, and written back, which a fault that persists in the cell outlasts (R197). -/
def State.correctWord (s : State) (c : Chan) (w : Nat) (f : StoreFault) : State :=
  let s := s.bump c (kEng c 0x02)
  if f.persistent then s else s.onChan c (fun h => { h with storeErr := mset none w none h.storeErr })

/-- The effects of reading the store words that `touched` selects (R197). Log entry 97. -/
def State.storeReads (s : State) (c : Chan) (touched : Nat → Bool) : State :=
  let hit := (s.chan c).storeErr.filter (fun p => touched p.1)
  let s := hit.foldl (fun s p => match p.2 with
    | some f => if f.uncorrectable then s else s.correctWord c p.1 f
    | none => s) s
  let lines := ((hit.filter (fun p => uncorrectable p.2)).map (fun p => p.1 / 8)).eraseDups
  lines.foldl (fun s l => (s.bump c (kEng c 0x03)).raise c 0x0024 (leBytes 8 (64 * l))) s

/-- The effects of reading the 128 bytes of a status record, where it lies in the store (R197; log entry 116). -/
def State.recordReads (s : State) (c : Chan) (addr : Nat) : State :=
  s.storeReads c (fun w => decide (addr ≤ 8 * w) && decide (8 * w < addr + 128))

/-! ### Status records -/

/-- One occurrence of an invalid operation: kind of Table 7.6, logical row, column, and block (Table 7.5). -/
structure Invalid where
  kind : Nat
  row : Nat
  col : Nat
  block : Nat
  deriving DecidableEq, Repr

/-- What a piece of an execution adds to a tensor status record (Table 7.5). -/
structure Stats where
  blocks : Nat
  nonzero : Nat
  saturated : Nat
  crushed : Nat
  flushed : Nat
  poisoned : Nat
  absmax : Fp
  degraded : Bool
  invalid : Nat
  first : Option Invalid
  /-- A line FORMAT fault occurred, which raises its event whatever EVENT_ON_INVALID holds (R88). -/
  format : Bool
  deriving DecidableEq, Repr

/-- Nothing to add. -/
def Stats.none : Stats := ⟨0, 0, 0, 0, 0, 0, Fp.zero, false, 0, .none, false⟩

/-- The occurrence with the lower index row × COLS + column; the earlier one on a tie (R207). -/
def lowerInvalid (cols : Nat) : Option Invalid → Option Invalid → Option Invalid
  | .none, b => b
  | a, .none => a
  | some a, some b => if b.row * cols + b.col < a.row * cols + a.col then some b else some a

/-- Merges two pieces of work (R207). -/
def Stats.merge (cols : Nat) (a b : Stats) : Stats :=
  ⟨a.blocks + b.blocks, a.nonzero + b.nonzero, a.saturated + b.saturated, a.crushed + b.crushed,
    a.flushed + b.flushed, a.poisoned + b.poisoned, Fp.maxOf a.absmax b.absmax, a.degraded || b.degraded,
    a.invalid + b.invalid, lowerInvalid cols a.first b.first, a.format || b.format⟩

/-- One invalid operation. -/
def Stats.ofInvalid (i : Invalid) : Stats := { Stats.none with invalid := 1, first := some i, format := i.kind == 0x05 }

/-- A value presented for writing: its finite magnitude (R212). -/
def Stats.ofValue (v : Fp) : Stats := if v.isFinite then { Stats.none with absmax := v.abs } else Stats.none

/-- The counters of one block conversion into a tensor (R82, R205); the poisoned block's invalid operation of kind 0x03
lies at element `row`, `col` of its first non-finite source (R81). -/
def Stats.ofBlock (o : BlockOut) (degraded : Bool) (bad : Nat → Nat × Nat) (block : Nat) : Stats :=
  let n := fun (b : Bool) => if b then 1 else 0
  { blocks := 1, nonzero := n (o.scale != 0 && o.scale != 255), saturated := n o.saturated, crushed := n o.crushed,
    flushed := o.flushes, poisoned := n (o.scale == 255), absmax := Fp.zero, degraded := degraded,
    invalid := n o.firstBad.isSome,
    first := o.firstBad.map (fun i => ⟨0x03, (bad i).1, (bad i).2, block⟩), format := false }

/-- Adds `n` to 64-bit counter `k` of a record whose counters begin at `base`; whether it reached saturation (R14). -/
def Channel.recordAdd (x : Channel) (addr base k n : Nat) : Bool × Channel :=
  let a := addr + base + 8 * k
  let v := x.nat a 8
  let top := 2 ^ 64 - 1
  if v = top ∨ n = 0 then (false, x)
  else if v + n < top then (false, x.writeNat a 8 (v + n))
  else
    (true, (x.writeNat a 8 top).writeNat addr 4 (x.nat addr 4 ||| 2 ^ k))

/-- Adds to a counter of a status record, with the event of its saturation (R14). -/
def State.recordBump (s : State) (c : Chan) (addr base k n : Nat) : State :=
  let r := (s.chan c).recordAdd addr base k n
  let s := s.setChan c r.2
  if r.1 then s.raise c 0x0001 (leBytes 8 addr ++ leBytes 1 k) else s

/-- Sets bits of the STICKY word of a record. -/
def Channel.sticky (x : Channel) (addr bits : Nat) : Channel := x.writeNat (addr + 4) 4 (x.nat (addr + 4) 4 ||| bits)

/-- The FIRST_INVALID fields replaced by an occurrence with a lower index (R207). -/
def Channel.firstInvalid (x : Channel) (t : TensorDesc) (i : Invalid) (time : DWord) : Channel :=
  let idx := i.row * t.cols + i.col
  if idx < x.nat (t.status + 72) 8 then
    let x := x.writeNat (t.status + 12) 1 i.kind
    let x := x.writeNat (t.status + 72) 8 idx
    let x := x.writeNat (t.status + 80) 4 i.row
    let x := x.writeNat (t.status + 84) 4 i.col
    let x := x.writeNat (t.status + 88) 4 i.block
    x.writeNat (t.status + 96) 8 time.toNat
  else x

/-- Merges one piece of work into a tensor's status record (R205, R207); a tensor without a record keeps nothing. -/
def State.mergeStats (s : State) (c : Chan) (t : TensorDesc) (w : Stats) : State :=
  if t.status = 0 then s
  else
    let s := s.recordReads c t.status
    let counts := [w.blocks, w.nonzero, w.saturated, w.crushed, w.flushed, w.poisoned, w.invalid]
    let s := counts.zipIdx.foldl (fun s p => s.recordBump c t.status 16 p.2 p.1) s
    let bit := fun (k : Nat) (b : Bool) => if b then 2 ^ k else 0
    let bits := bit 0 (w.invalid != 0) + bit 1 (w.saturated != 0) + bit 2 (w.crushed != 0) + bit 3 (w.poisoned != 0)
      + bit 4 w.degraded
    s.onChan c (fun x =>
      let x := x.sticky t.status bits
      let x := if Fp.gt w.absmax (f32 (x.nat (t.status + 8) 4)) then x.writeNat (t.status + 8) 4 (w32 w.absmax) else x
      match w.first with
      | some i => x.firstInvalid t i x.clock.timebase
      | .none => x)

/-- Counters of the layer status record by number (Table 4.3). -/
def layerTileReads : Nat := 0
/-- RE_READS. -/
def layerReReads : Nat := 1
/-- FALLBACKS. -/
def layerFallbacks : Nat := 2
/-- SPLIT_HALVES. -/
def layerHalves : Nat := 3
/-- SPLIT_QUARTERS. -/
def layerQuarters : Nat := 4
/-- DIVERTED. -/
def layerDiverted : Nat := 5
/-- DEFERRED. -/
def layerDeferred : Nat := 6
/-- CLIPPED. -/
def layerClipped : Nat := 7
/-- INPUT_SATURATED. -/
def layerSaturated : Nat := 8
/-- INPUT_FLUSHED. -/
def layerFlushed : Nat := 9
/-- WRITE_WAITS. -/
def layerWriteWaits : Nat := 10
/-- ZERO_VECTORS. -/
def layerZeroVectors : Nat := 11

/-- Adds to a counter of a layer status record (R130). -/
def State.layerBump (s : State) (c : Chan) (rec k n : Nat) : State :=
  if n = 0 then s else (s.recordReads c rec).recordBump c rec 8 k n

/-- Sets a sticky bit of a layer status record (Table 4.3). -/
def State.layerSticky (s : State) (c : Chan) (rec bit : Nat) : State := s.onChan c (fun x => x.sticky rec (2 ^ bit))

/-- Lowest invalid index of an execution for a tensor, kept for the event of R207, and for that of R88, which is raised whatever
EVENT_ON_INVALID holds and whether or not the tensor has a record. -/
def Job.noteInvalid (j : Job) (t : TensorDesc) (w : Stats) : Job :=
  match w.first with
  | .none => j
  | some i =>
    if (t.status ≠ 0 && t.eventOnInvalid) || w.format then
      let idx := i.row * t.cols + i.col
      let old := mget .none t.addr j.lowest
      { j with lowest := mset .none t.addr (some (match old with
        | some o => min o idx
        | .none => idx)) j.lowest }
    else j

end Sys2Proof.Machine
end

