-- ==== Sys2Proof/Machine/Messages.lean ====
section
/-!
DEFINITION. Roles in a communication group and COLLECTIVE_CONTROL messages: sending, the way up through the ringmasters with
what each combines, and the way down (11 R337, R339; 12 R349, R370, R373, Table 12.12; 13 R398).
-/

namespace Sys2Proof

open Machine

/-! ### Reading a message (R373) -/

/-- The little-endian number in `n` bytes from byte `i` of a packet's data. -/
def Packet.field (k : Packet) (i n : Nat) : Nat := leNat ((k.data.drop i).take n)

/-- MSG. -/
def Packet.msg (k : Packet) : Nat := k.field 0 1

/-- The full membership epoch of the prefix. -/
def Packet.fullEpoch (k : Packet) : Word := BitVec.ofNat 32 (k.field 4 4)

/-- The step of the prefix. -/
def Packet.fullStep (k : Packet) : Nat := k.field 8 8

end Sys2Proof

namespace Sys2Proof.Machine

/-- Entry of the group area of a channel (Table 11.8). -/
def kGrp (c : Chan) (sub : Nat) : Nat := odKey (0x5010 + c.val) sub
/-- Entry of the update area of a channel (Table 12.13). -/
def kUpd (c : Chan) (sub : Nat) : Nat := odKey (0x5020 + c.val) sub
/-- Entry of the safety area of a channel (Table 13.8). -/
def kSafe (c : Chan) (sub : Nat) : Nat := odKey (0x5030 + c.val) sub

/-! ### Roles (R337) -/

/-- No rank. -/
def noRank : Nat := 0xFFFFFFFF

/-- Channel address of a rank. -/
def Group.address (g : Group) (r : Nat) : Nat := g.members.getD r 0

/-- Block of a rank. -/
def Group.blockOf (g : Group) (r : Nat) : Nat := addrBlock (g.address r)

/-- The channel's own block. -/
def Group.block (g : Group) : Nat := g.blockOf g.rank

/-- Rank of a channel address. -/
def Group.rankOf (g : Group) (a : Nat) : Option Nat := g.members.findIdx? (· == a)

/-- Ranks in a block, ascending. -/
def Group.ranksIn (g : Group) (b : Nat) : List Nat :=
  (List.range g.members.length).filter (fun r => g.blockOf r == b)

/-- Inserts a number into an ascending list. -/
def insertNat (n : Nat) : List Nat → List Nat
  | [] => [n]
  | m :: l => if n ≤ m then n :: m :: l else m :: insertNat n l

/-- Member blocks, ascending. -/
def Group.blocks (g : Group) : List Nat := g.ring.foldl (fun l e => if l.contains e.block then l else insertNat e.block l) []

/-- The ringmaster-list entry of a block. -/
def Group.ringOf (g : Group) (b : Nat) : Option RingEntry := g.ring.find? (fun e => e.block == b)

/-- Rank of a block's ringmaster. -/
def Group.master (g : Group) (b : Nat) : Nat := ((g.ringOf b).map (·.master)).getD noRank

/-- Successors of a block's ringmaster, in order. -/
def Group.succs (g : Group) (b : Nat) : List Nat :=
  match g.ringOf b with
  | some e => [e.succ1, e.succ2].filter (· != noRank)
  | none => []

/-- A group in one block has one level (R337). -/
def Group.single (g : Group) : Bool := decide (g.blocks.length ≤ 1)

/-- Successors of the top, in order; in one block they are the block's (R337). -/
def Group.topSuccs (g : Group) : List Nat :=
  if g.single then g.succs g.block else [g.topSucc1, g.topSucc2].filter (· != noRank)

/-- The channel is its block's ringmaster. -/
def Group.isMaster (g : Group) : Bool := g.master g.block == g.rank

/-- The channel is the top ringmaster. -/
def Group.isTop (g : Group) : Bool := g.top == g.rank

/-- A group whose members exchange traffic: admitted and not failed (R340). -/
def Group.live (g : Group) : Bool :=
  match g.state with
  | .active => true
  | .rebuilding => true
  | .releasing => true
  | _ => false

/-- COMMIT_GROUP, where the channel holds it (R366). -/
def State.commitGroup (s : State) (c : Chan) : Option Group := (s.chan c).comm (s.ent (kUpd c 1))

/-- A group of a channel changed by a function. -/
def State.onComm (s : State) (c : Chan) (id : Nat) (f : Group → Group) : State :=
  s.onChan c (fun h => { h with groups := h.groups.map (fun g => if g.id = id then f g else g) })

/-! ### Sending (R349, R373) -/

/-- The data of a message: prefix and body, padded to a multiple of 16 bytes. -/
def messageData (msg block : Nat) (epoch : Word) (step : Nat) (body : List Byte) : List Byte :=
  let d := leBytes 1 msg ++ [0#8] ++ leBytes 2 block ++ leBytes 4 epoch.toNat ++ leBytes 8 step ++ body
  d ++ List.replicate ((16 - d.length % 16) % 16) 0#8

/-- Sends one message to a channel address, in a segment of its own (R349). -/
def State.message (s : State) (c : Chan) (dest gid : Nat) (epoch : Word) (msg step : Nat) (body : List Byte) : State :=
  let n := mget 0 dest (s.chan c).net.controlSeg
  let s := s.onNet c (fun t => { t with controlSeg := mset 0 dest ((n + 1) % 16384) t.controlSeg })
  s.post c { ptype := 0x05, cls := 0, last := true, dest := dest, source := s.address c, group := gid,
             segment := 2 * 2 ^ 14 + n, seq := 0, hops := 8, epoch := epoch.setWidth 8, step := BitVec.ofNat 32 step,
             tag := 0, e2e := 0, data := messageData msg s.block epoch step body }

/-- Sends one message to a rank of a group. -/
def State.tell (s : State) (c : Chan) (g : Group) (rank msg step : Nat) (body : List Byte) : State :=
  s.message c (g.address rank) g.id g.epoch msg step body

/-- Sends one message to each of several ranks. -/
def State.tellAll (s : State) (c : Chan) (g : Group) (ranks : List Nat) (msg step : Nat) (body : List Byte) : State :=
  ranks.foldl (fun s r => s.tell c g r msg step body) s

/-! ### Down: from the top to every member (R337) -/

/-- Ranks to which the top itself sends: the members of its own block, and each other block's ringmaster, or every member of
a block whose ringmaster is `dead`. -/
def Group.direct (g : Group) (dead : Option Nat) : List Nat :=
  g.ranksIn g.block ++ (g.blocks.filter (· != g.block)).flatMap (fun b =>
    if dead = some (g.master b) then (g.ranksIn b).filter (fun r => some r != dead) else [g.master b])

/-- Broadcasts a message from the top; the channel's own copy arrives like the others. -/
def State.broadcast (s : State) (c : Chan) (g : Group) (msg step : Nat) (body : List Byte) : State :=
  s.tellAll c g (g.direct none) msg step body

/-- Broadcasts a message that the top has applied itself. -/
def State.broadcastOthers (s : State) (c : Chan) (g : Group) (dead : Option Nat) (msg step : Nat) (body : List Byte) :
    State :=
  s.tellAll c g ((g.direct dead).filter (· != g.rank)) msg step body

/-- A block ringmaster forwards a message from outside its block to its members (R337). -/
def State.relay (s : State) (c : Chan) (g : Group) (k : Packet) : State :=
  if g.isMaster && addrBlock k.source != g.block then
    s.tellAll c g ((g.ranksIn g.block).filter (· != g.rank)) k.msg k.fullStep (k.data.drop 16)
  else s

/-! ### Up: through the ringmasters to the top (R337, R373) -/

/-- Two arrivals belong to one collection. -/
def Arrival.same (a b : Arrival) : Bool := a.atTop == b.atTop && a.msg == b.msg && a.step == b.step && a.key == b.key

/-- The children that a ringmaster waits for: the ranks of its block, or the blocks. -/
def Group.children (g : Group) (atTop : Bool) : List Nat := if atTop then g.blocks else g.ranksIn g.block

/-- Adds an arrival; once every child has arrived, the arrivals in ascending child. -/
def State.gather (s : State) (c : Chan) (gid : Nat) (a : Arrival) : State × Option (List Arrival) :=
  match (s.chan c).comm gid with
  | none => (s, none)
  | some g =>
    let others := g.arrivals.filter (fun b => !(a.same b && b.child == a.child))
    let mine := a :: others.filter (fun b => a.same b)
    let got := (g.children a.atTop).filterMap (fun k => mine.find? (fun b => b.child == k))
    if got.length = (g.children a.atTop).length then
      (s.onComm c gid (fun g => { g with arrivals := others.filter (fun b => !a.same b) }), some got)
    else (s.onComm c gid (fun g => { g with arrivals := others ++ [a] }), none)

/-- How one arrival climbs: a block ringmaster that has all its members' arrivals forwards one of them combined by `join`
(the body from byte 20), and the top acts when every block has arrived. -/
def State.climb (s : State) (c : Chan) (g : Group) (a : Arrival) (join : List Arrival → List Byte)
    (top : State → List Arrival → State) : State :=
  let atTop := fun (s : State) (b : Arrival) =>
    let r := s.gather c g.id b
    match r.2 with
    | some l => top r.1 l
    | none => r.1
  if a.atTop then atTop s a
  else
    let r := s.gather c g.id a
    match r.2 with
    | none => r.1
    | some l =>
      if g.isTop then atTop r.1 { a with atTop := true, child := g.block, covered := l.length, body := join l }
      else r.1.tell c g g.top a.msg a.step (leBytes 4 l.length ++ join l)

/-- The arrival that a message up is, at the level of its sender; none from a channel that is no child here. -/
def Group.arrivalOf (g : Group) (k : Packet) (key : Nat) : Option Arrival :=
  let at' := fun (atTop : Bool) (child : Nat) =>
    (⟨atTop, k.msg, k.fullStep, key, child, k.field 16 4, k.data.drop 20⟩ : Arrival)
  if g.isMaster && addrBlock k.source == g.block then (g.rankOf k.source).map (at' false)
  else if g.isTop && g.blocks.contains (addrBlock k.source) then some (at' true (addrBlock k.source))
  else none

/-- Sends a message up: to the channel's block ringmaster. -/
def State.sendUp (s : State) (c : Chan) (g : Group) (msg step : Nat) (body : List Byte) : State :=
  s.tell c g (g.master g.block) msg step body

/-! ### Receiving -/

/-- A COLLECTIVE_CONTROL message of one kind arrives: checked, and handled with its group; `exempt` for those that go outside
the group's epoch. -/
def State.onMessage (s : State) (c : Chan) (k : Packet) (msg : Nat) (exempt : Bool)
    (f : State → Group → State) : State :=
  if k.ptype ≠ 0x05 || k.msg != msg then s
  else
    let r := s.receive c k exempt
    if !r.2 then r.1
    else match (r.1.chan c).comm k.group with
      | some g => f r.1 g
      | none => r.1

/-! ### ABORT (R370) -/

/-- The body of ABORT (Table 12.12). -/
def abortBody (reason address : Nat) : List Byte := leBytes 1 reason ++ [0#8, 0#8, 0#8] ++ leBytes 4 address

/-- Whether an ABORT of a step has no further effect here: the channel has aborted the step and not begun it again. One of reason
0x04 still counts after another reason, since the loaded program is abandoned on it (R370, R384). -/
def Collective.abortedFor (k : Collective) (step reason : Nat) : Bool :=
  k.phase == 5 && k.phaseStep == step && !k.steps.any (fun q => q.step == step)
    && (reason != 4 || k.abortCause.isNone || (k.abortCause.map (·.1)) == some 4)

/-- The top broadcasts ABORT unless the step's COMMIT has been broadcast, or it has aborted the step itself and its program
has not been loaded again (R370, Table 13.3). -/
def State.topAbort (s : State) (c : Chan) (g : Group) (step reason address : Nat) : State :=
  let h := s.chan c
  let done := h.coll.committedAtTop == step || (h.training.recordSinceSeed && h.lastStep == step)
  if done || h.coll.abortedFor step reason then s else s.broadcast c g 0x16 step (abortBody reason address)

/-- A member sends ABORT for a step to the acting top of COMMIT_GROUP (R370). -/
def State.sendAbort (s : State) (c : Chan) (step reason : Nat) : State :=
  match s.commitGroup c with
  | none => s
  | some g =>
    if !g.live then s
    else if g.isTop then s.topAbort c g step reason (s.address c)
    else s.tell c g g.top 0x16 step (abortBody reason (s.address c))

end Sys2Proof.Machine
end

