-- ==== Sys2Proof/Machine/Jobs.lean ====
section
/-!
DEFINITION. Descriptors under way: beginning in order, refusal, completion, the completion carousel, the loaded program's
slots and the stash keys it leaves (08 R240, R241, R250, R255; 14 R411, R414, R418 to R422).
-/

namespace Sys2Proof.Machine

/-! ### Completions (R411, R420, R422) -/

/-- Context `x` of a channel. -/
def Channel.context (h : Channel) (x : Nat) : Context := mget (Context.reset x) x h.host.contexts

/-- A channel with context `x` replaced. -/
def Channel.setContext (h : Channel) (x : Nat) (k : Context) : Channel :=
  { h with host := { h.host with contexts := mset (Context.reset x) x k h.host.contexts } }

/-- The 32 bytes of a completion (Table 14.9). -/
def Completion.bytes (k : Completion) (phase : Bool) : List Byte :=
  leBytes 4 k.entryId ++ leBytes 2 k.sqIndex ++ leBytes 1 k.status ++ leBytes 1 (if phase then 1 else 0)
    ++ leBytes 8 k.result0 ++ leBytes 8 k.result1 ++ leBytes 8 k.time.toNat

/-- Whether a completion carousel has no free slot (log entry 15). -/
def Context.full (k : Context) : Bool := (k.cqTail + 1) % k.cqSize == k.cqHead

/-- Requests a completion vector; the indices above 447 are never signalled for a context (Table 14.6a; log entry 27). -/
def State.requestCompletion (s : State) (c : Chan) (vector : Nat) : State :=
  if vector < 448 then s.requestVector (512 * c.val + vector) else s

/-- One completion of context `x` requests its vector, coalesced (R411). -/
def State.signalContext (s : State) (c : Chan) (x : Nat) : State :=
  let k := (s.chan c).context x
  let n := k.gathered.count + 1
  let count := (k.coalesceReg.extractLsb' 0 8).toNat
  if coalesceDue count n then
    (s.onChan c (fun h => h.setContext x { k with gathered := ⟨0, none⟩ })).requestCompletion c k.vector
  else
    s.onChan c (fun h => h.setContext x
      { k with gathered := ⟨n, k.gathered.since <|> some (s.chan c).clock.timebase⟩ })

/-- Writes a completion into the next slot of its carousel (R420). -/
def State.writeCompletion (s : State) (c : Chan) (x : Nat) (p : Completion) : State :=
  let k := (s.chan c).context x
  let t := (k.cqTail + 1) % k.cqSize
  let s := s.onChan c (fun h => (h.write (k.cqBase + 32 * k.cqTail) (p.bytes k.phase)).setContext x
    { k with cqTail := t, phase := if t = 0 then !k.phase else k.phase })
  if p.signal then s.signalContext c x else s

/-- Writes a completion, or holds it while the carousel is full (R422). -/
def State.postCompletion (s : State) (c : Chan) (x : Nat) (p : Completion) : State :=
  let k := (s.chan c).context x
  if k.full || !k.held.isEmpty then
    let old := (s.chan c).host.cqFullWaits
    let n := old.add 63 1
    let s := s.onChan c (fun h =>
      let h := h.setContext x { k with cqFull := true, held := k.held ++ [p] }
      { h with host := { h.host with cqFullWaits := n } })
    if old.saturates n then s.raise c 0x0001 (rcEvent c.val (chBase c + 0x68) 0).data else s
  else s.writeCompletion c x p

/-! ### Jobs -/

/-- The job with an id. -/
def Channel.job (h : Channel) (id : Nat) : Option Job := h.jobs.find? (fun j => j.id == id)

/-- A channel with a job replaced. -/
def Channel.setJob (h : Channel) (j : Job) : Channel :=
  { h with jobs := h.jobs.map (fun i => if i.id = j.id then j else i) }

/-- A channel without a job. -/
def Channel.dropJob (h : Channel) (id : Nat) : Channel := { h with jobs := h.jobs.filter (fun j => j.id != id) }

/-- Adds a started job. -/
def Channel.addJob (h : Channel) (owner : Owner) (addr ty : Nat) : Channel :=
  { h with jobs := h.jobs ++ [⟨h.nextId, owner, addr, ty, .started, [], []⟩], nextId := h.nextId + 1 }

/-- Whether a job has not begun its work. -/
def Job.unbegun (j : Job) : Bool :=
  match j.phase with
  | .started => true
  | .waiting => true
  | .held _ => true
  | _ => false

/-- The owner of a job; of a descriptor that a recomputation runs, the owner of the stash IN that runs it (R254). -/
def Channel.rootOwner (h : Channel) (j : Job) : Owner :=
  match j.owner with
  | .recompute p => ((h.job p).map (fun (q : Job) => q.owner)).getD j.owner
  | o => o

/-- Whether a job is an entry of the loaded program that has started (R240). -/
def Channel.entryStarted (h : Channel) (j : Job) : Bool :=
  match j.owner, h.training.program with
  | .entry slot index _ _ _ _, some p => slot == p.slot && p.states.getD index .idle == .running
  | _, _ => false

/-- The context of a submission, if a job belongs to one. -/
def Job.context (j : Job) : Option Nat :=
  match j.owner with
  | .sub x _ _ _ => some x
  | _ => none

/-- Whether a job may begin now (R414, R418, R422, R456): in P0, after every earlier entry of its context has begun, after all
of them have completed when it carries ORDERED, and not while its completion carousel is full. -/
def Channel.mayBegin (h : Channel) (j : Job) : Bool :=
  j.unbegun && (match j.owner with
    | .sub x _ _ flags =>
      let before := h.jobs.filter (fun i => i.context == some x && decide (i.id < j.id))
      h.runs && !before.any Job.unbegun && (!flags.testBit 2 || before.isEmpty) && !(h.context x).cqFull
    | .recompute _ => h.issues
    | _ => h.runs || (h.issues && h.entryStarted j))

/-- The load environment of a job (R279, R395): the program's STEP, or the current record's STEP plus 1. -/
def State.loadEnv (s : State) (c : Chan) (j : Job) : LoadEnv :=
  let h := s.chan c
  let own := match h.training.program with
    | some p => (match h.rootOwner j with
      | .entry _ _ _ _ _ _ => some p.step
      | _ => none)
    | none => none
  ⟨(s.ent (kEng c 0x10)).testBit 1, own.getD (h.lastStep + 1)⟩

/-- MIRROR and K2_EMULATION (Table 9.8). -/
def State.mirror (s : State) (c : Chan) : Bool := (s.ent (kEng c 0x10)).testBit 0
/-- K2_EMULATION. -/
def State.k2 (s : State) (c : Chan) : Bool := (s.ent (kEng c 0x10)).testBit 1

/-- A context that drains and whose entries have all ended is disabled (R414); completions that it still holds go with its
carousel (log entry 28). -/
def Channel.settleDrain (h : Channel) (x : Nat) : Channel :=
  let k := h.context x
  if k.draining && !h.jobs.any (fun j => j.context == some x) then
    h.setContext x { k with enabled := false, draining := false, cqFull := false, held := [] }
  else h

/-- Ends a submission entry: its completion is written when its status is nonzero or it carries COMPLETE (R420). -/
def State.endSubmission (s : State) (c : Chan) (x sq id flags status r0 r1 : Nat) : State :=
  let p : Completion := ⟨id, sq, status, r0, r1, (s.chan c).clock.timebase, status != 0 || flags.testBit 1⟩
  let s := if status ≠ 0 || flags.testBit 0 then s.postCompletion c x p else s
  s.onChan c (fun h => h.settleDrain x)

/-- Raises DESCRIPTOR_REFUSED (R12, Table 14.13). -/
def State.raiseRefused (s : State) (c : Chan) (r : Refused) : State :=
  s.raise c 0x0002 (leBytes 8 r.addr ++ leBytes 2 r.descType ++ leBytes 2 r.offset)

/-- RESULT0 of a refused descriptor (R421). -/
def Refused.result0 (r : Refused) : Nat := r.offset + r.descType * 2 ^ 16 + r.reason * 2 ^ 40

/-- RESULT0 of a program's completion: status, entry, slot, reason and field offset (R421). -/
def programResult0 (status slot entry : Nat) (r : Option Refused) : Nat :=
  status + entry * 2 ^ 8 + slot * 2 ^ 12 + (match r with
    | some r => r.reason * 2 ^ 40 + r.offset * 2 ^ 48
    | none => 0)

/-- The training state changed by a function. -/
def State.onTraining (s : State) (c : Chan) (f : Training → Training) : State :=
  s.onChan c (fun h => { h with training := f h.training })

/-- Granules that held keys occupy. -/
def Training.granules (t : Training) : Nat := (t.stash.map (fun k => if k.dropped then 0 else k.granules)).foldl (· + ·) 0

/-- Releases every key that a program left held or dropped (R255). -/
def State.releaseKeys (s : State) (c : Chan) : State :=
  match (s.chan c).training.stash with
  | [] => s
  | k :: ks =>
    let s := s.onTraining c (fun t => { t with stash := [] })
    let s := s.bumpBy c (kEng c 0x0F) (ks.length + 1)
    s.raise c 0x0041 (leBytes 4 k.key ++ leBytes 4 (ks.length + 1))

/-- Marks the step's program as complete (R366). -/
def State.markProgramDone (s : State) (c : Chan) (step : Nat) : State :=
  s.onChan c (fun h => { h with coll := { h.coll with steps := h.coll.steps.map (fun q =>
    if q.step = step then { q with programDone := true } else q) } })

/-- Ends the loaded program with a status of Table 8.4 (R240, R241): its completion, its keys, and for a program that did not
complete its silence counts. Only a program that completes with 0x00 counts as done for its step (R366). -/
def State.endProgram (s : State) (c : Chan) (p : Program) (status r0 r1 : Nat) : State :=
  let s := s.onTraining c (fun t => { t with
    program := none,
    silence := if status = 0 then t.silence else t.silence.filter (fun q => q.step != p.step) })
  let s := if status = 0 then s.markProgramDone c p.step else s
  let s := if status = 0 then s else s.bump c (kEng c 0x0E)
  let s := s.releaseKeys c
  match (s.chan c).job p.job with
  | some j =>
    let s := s.onChan c (fun h => h.dropJob j.id)
    (match j.owner with
      | .sub x sq id flags => s.endSubmission c x sq id flags status r0 r1
      | _ => s)
  | none => s

/-- Whether any entry of the current slot is running. -/
def Program.anyRunning (p : Program) : Bool := p.states.any (· == .running)

/-- Whether entry `i` of the current slot may be taken up, its waits apart (R240): the entries of its AFTER mask have completed, and
the earlier entries of its class have started. -/
def Program.mayStart (p : Program) (i : Nat) : Bool :=
  match (p.slots.getD p.slot [])[i]? with
  | none => false
  | some e =>
    p.abandoned.isNone && p.states.getD i .done == .idle
      && (List.range 15).all (fun k => !e.after.testBit k || p.states.getD k .done == .done)
      && ((p.slots.getD p.slot []).zipIdx.take i).all (fun (q : SlotEntry × Nat) =>
        q.1.cls != e.cls || p.states.getD q.2 .done == .running || p.states.getD q.2 .done == .done)

/-- The state of entry `i` of the current slot changed. -/
def State.setEntry (s : State) (c : Chan) (i : Nat) (e : EntryState) : State :=
  s.onTraining c (fun t => { t with program := t.program.map (fun (p : Program) => { p with states := p.states.set i e }) })

/-- The waits of a job are met: an entry of the program starts, and with it its micro-batch (R236, R240). -/
def State.markStarted (s : State) (c : Chan) (j : Job) : State :=
  match j.owner with
  | .entry _ index mb _ _ _ =>
    (s.setEntry c index .running).onTraining c (fun t => { t with program := t.program.map (fun (p : Program) =>
      { p with begun := if p.begun.contains mb then p.begun else p.begun ++ [mb] }) })
  | _ => s

/-- An abandoned program whose running entries have ended completes; one whose slots are done completes with 0x00.
Log entry 102. -/
def State.settleProgram (s : State) (c : Chan) : State :=
  match (s.chan c).training.program with
  | none => s
  | some p =>
    match p.abandoned with
    | some (status, slot, entry, r) =>
      if p.anyRunning then s
      else s.endProgram c p status (programResult0 status slot entry r) ((r.map (·.addr)).getD 0)
    | none =>
      let width := (p.slots.getD p.slot []).length
      if p.states.all (· == .done) && decide (p.states.length = width) then
        if p.slot + 1 < p.slots.length then
          s.onTraining c (fun t => { t with program := some { p with
            slot := p.slot + 1,
            states := List.replicate (p.slots.getD (p.slot + 1) []).length .idle, gradWaited := [] } })
        else s.endProgram c p 0 0 0
      else s

/-- Abandons the loaded program (R241): no further entry starts, those that a wait or a full stash holds back are given up, and
those that run go on to their end. -/
def State.abandonProgram (s : State) (c : Chan) (status slot entry : Nat) (r : Option Refused) : State :=
  match (s.chan c).training.program with
  | none => s
  | some p =>
    if p.abandoned.isSome then s
    else
      let given := (s.chan c).jobs.filterMap (fun j => match j.owner with
        | .entry _ i _ _ _ _ => if p.states.getD i .done == .loaded then some (j.id, i) else none
        | _ => none)
      let s := s.onChan c (fun h => { h with jobs := h.jobs.filter (fun j => !(given.map (·.1)).contains j.id) })
      let states := given.foldl (fun st g => st.set g.2 .done) p.states
      let s := s.onTraining c (fun t => { t with program := some { p with
                                                                         states := states,
                                                                         abandoned := some (status, slot, entry, r) } })
      s.settleProgram c

/-- Abandons the loaded program and aborts its step (R241, R370). -/
def State.abandonStep (s : State) (c : Chan) (status slot entry : Nat) (r : Option Refused) : State :=
  match (s.chan c).training.program with
  | none => s
  | some p =>
    let s' := s.abandonProgram c status slot entry r
    if p.abandoned.isSome then s' else s'.sendAbort c p.step 0x01

/-- Sets every value of a KA48 buffer to +0 (R246). -/
def Channel.clearBuffer (h : Channel) (t : TensorDesc) : Channel :=
  { h with mem := (List.range t.storedRows).foldl (fun m sr => memClear m (t.data + sr * t.stride) t.padded) h.mem }

/-- The plan that names a weight. -/
def Collective.planOf (k : Collective) (weight : Nat) : Option Plan :=
  k.plans.find? (fun p => p.buckets.any (fun b => b.weight == weight))

/-- Hands a weight's gradient buffer over to the collective engine (R250). A buffer that no plan takes in this step is read and
discarded (R347), and so is one of a step that has been aborted (R370). -/
def State.handOver (s : State) (c : Chan) (weight step : Nat) : State :=
  let h := s.chan c
  let early : Bool := match h.coll.planOf weight with
    | some p => decide (step < p.firstStep)
    | none => true
  if early || !h.coll.steps.any (fun q => q.step == step) then
    let s := s.onChan c (fun h => match h.training.weights.find? (fun w => w.id == weight) with
      | some w => h.clearBuffer w.grad
      | none => h)
    if early then s.bump c (kUpd c 0x2C) else s
  else
    s.onTraining c (fun t => { t with weights := t.weights.map (fun w =>
      if w.id = weight then { w with handed := some step } else w) })

/-- An entry of the loaded program ends (R240, R250). -/
def State.endEntry (s : State) (c : Chan) (index weight : Nat) (lastGrad ok : Bool) : State :=
  match (s.chan c).training.program with
  | none => s
  | some p =>
    let s := s.onTraining c (fun t => { t with program := some { p with states := p.states.set index .done } })
    let s := if lastGrad && ok then s.handOver c weight p.step else s
    s.settleProgram c

/-- Ends a job whose owner is a submission or an entry. -/
def State.endOwner (s : State) (c : Chan) (j : Job) (status r0 r1 : Nat) (r : Option Refused) : State :=
  match j.owner with
  | .sub x sq id flags => s.endSubmission c x sq id flags status r0 r1
  | .entry slot index _ _ weight lastGrad =>
    if status = 0 then s.endEntry c index weight lastGrad true
    else
      let s := s.abandonStep c status slot index r
      s.endEntry c index weight lastGrad false
  | .recompute _ => s

/-- Whether an OUT is stalled and no other entry of the channel runs, or waits for anything but that OUT (R255). An entry that has
been loaded waits for a bank or for its engine; a FENCE or ABANDON waits for others, and so do entries that have not begun. -/
def Channel.stashDead (h : Channel) : Bool :=
  match h.training.program with
  | none => false
  | some p =>
    p.abandoned.isNone
      && h.jobs.any (fun j => match j.owner, j.phase with
        | .entry _ _ _ _ _ _, .stalled _ _ _ => true
        | _, _ => false)
      && h.jobs.all (fun j => match j.phase with
        | .stalled _ _ _ => true
        | .program => true
        | .begun => true
        | .building _ => true
        | .started => j.context.isSome
        | .waiting => true
        | _ => false)
      && (List.range ((p.slots.getD p.slot []).length)).all (fun i => !p.mayStart i)

/-- Slot and entry of the first stalled OUT. -/
def Channel.firstStalled (h : Channel) : Option (Nat × Nat) :=
  h.jobs.findSome? (fun j => match j.owner, j.phase with
    | .entry s i _ _ _ _, .stalled _ _ _ => some (s, i)
    | _, _ => none)

/-- Abandons the program with status 0x02 when a stalled OUT cannot advance (R255). -/
def State.checkStash (s : State) (c : Chan) : State :=
  if (s.chan c).stashDead then
    match (s.chan c).firstStalled with
    | some (slot, entry) => s.abandonStep c 2 slot entry none
    | none => s
  else s

/-- Raises the events that R207 and R88 ask for at the end of an execution. -/
def State.raiseInvalid (s : State) (c : Chan) (j : Job) : State :=
  j.lowest.foldl (fun s p => match p.2 with
    | some i => s.raise c 0x0003 (leBytes 8 p.1 ++ leBytes 6 i)
    | none => s) s

/-- One descriptor of a recomputation has completed; the parent ends after the last one (R254). -/
def State.nextRecompute (s : State) (c : Chan) (parent : Nat) : State :=
  match (s.chan c).job parent with
  | some j =>
    (match j.phase with
      | .recomputing [] key free =>
        let s := s.bump c (kEng c 0x0D)
        let s := if free then s.onTraining c (fun t => { t with stash := t.stash.filter (fun k => k.key != key) }) else s
        let s := s.onChan c (fun h => h.dropJob j.id)
        s.endOwner c j 0 0 0 none
      | _ => s)
  | none => s

/-- Completes a job with success (R420, R207, R254); a stalled OUT may be left without anything to wait for (R255). -/
def State.completeJob (s : State) (c : Chan) (j : Job) (r0 r1 : Nat) : State :=
  let s := s.raiseInvalid c j
  let s := s.onChan c (fun h => h.dropJob j.id)
  (match j.owner with
    | .recompute parent => s.nextRecompute c parent
    | _ => s.endOwner c j 0 r0 r1 none).checkStash c

/-- Ends a job with a status other than success (R420, R421). -/
def State.failJob (s : State) (c : Chan) (j : Job) (status r0 r1 : Nat) : State :=
  let s := s.raiseInvalid c j
  let s := s.onChan c (fun h => h.dropJob j.id)
  (match j.owner with
    | .recompute parent =>
      (match (s.chan c).job parent with
        | some p => (s.onChan c (fun h => h.dropJob p.id)).endOwner c p status r0 r1 none
        | none => s)
    | _ => s.endOwner c j status r0 r1 none).checkStash c

/-- Refuses a job's descriptor (R12, R421): the event, and the end of the entry that named it. Log entries 19 and 109. -/
def State.refuseJob (s : State) (c : Chan) (j : Job) (r : Refused) : State :=
  let s := s.raiseRefused c r
  let s := if r.descType = 0x10 ∧ r.offset = 48 ∧ r.reason = 1 then
      let t := (s.chan c).tensorDesc r.addr
      let s := s.bump c (odKey (0x5030 + c.val) 0x28)
      s.raise c 0x0083 (leBytes 8 r.addr ++ leBytes 4 t.stepTag ++ leBytes 4 (s.loadEnv c j).step)
    else s
  let r := if r.descType = 0x10 ∧ r.offset = 48 then { r with reason := 0 } else r
  let s := s.onChan c (fun h => h.dropJob j.id)
  (match j.owner with
    | .recompute parent =>
      (match (s.chan c).job parent with
        | some p => (s.onChan c (fun h => h.dropJob p.id)).endOwner c p 1 r.result0 r.addr (some r)
        | none => s)
    | _ => s.endOwner c j 1 r.result0 r.addr (some r)).checkStash c

/-- The job's descriptor has done its work; DESCRIPTOR_COMPLETE ends it (R420). -/
def State.finishJob (s : State) (c : Chan) (j : Job) (r0 r1 : Nat) : State :=
  s.onChan c (fun h => h.setJob { j with phase := .ended r0 r1 })

/-- The job waits with what it has loaded (R200); a wait of one kind is counted once (R235, R156). -/
def State.holdJob (s : State) (c : Chan) (j : Job) (x : Held) (kind key : Nat) : State :=
  let seen := j.counted.contains kind
  let s := s.onChan c (fun h => h.setJob { j with phase := .held x,
                                                  counted := if seen then j.counted else kind :: j.counted })
  if seen then s else s.bump c key

end Sys2Proof.Machine
end

