-- ==== Sys2Proof/Machine/Engines.lean ====
section
/-!
DEFINITION. The digital engines: store errors, whole-tensor writes, products and drains, transposes, softmax and
normalisation, raster ingest and the KA48 buffer commands (07 R197, R206 to R225, 08 R244 to R249, 09 R276 to R278).
-/

namespace Sys2Proof.Machine

/-! ### Performance counters (R63, R408) and what an operand touches of the store (R197) -/

/-- Adds to the performance counter of a snapshot word; a saturation sets its overflow bit and raises one event
(R14, R63; log entry 16 gives the event's data). -/
def State.perfAdd (s : State) (c : Chan) (word n : Nat) : State :=
  let p := (s.chan c).perf
  let v := mget 0 word p.counters
  let top := 2 ^ 64 - 1
  if v = top ∨ n = 0 then s
  else if v + n < top then s.onChan c (fun h => { h with perf := { p with counters := mset 0 word (v + n) p.counters } })
  else
    let s := s.onChan c (fun h => { h with perf := { p with counters := mset 0 word top p.counters,
                                                            overflow := p.overflow ||| 2 ^ (word - 2) } })
    s.raise c 0x0001 (leBytes 8 (chBase c + 0x1000 + 8 * word) ++ leBytes 1 (word - 2))

/-- Whether a store word belongs to stored row `sr` of a tensor. -/
def TensorDesc.rowTouches (t : TensorDesc) (sr w : Nat) : Bool :=
  let a := t.data + sr * t.stride
  decide (a ≤ 8 * w) && decide (8 * w < a + t.padded)

/-- Whether a store word belongs to a tensor. -/
def TensorDesc.touches (t : TensorDesc) (w : Nat) : Bool := (List.range t.storedRows).any (fun sr => t.rowTouches sr w)

/-! ### Whole-row writes -/

/-- Address of the line that holds a logical element. -/
def TensorDesc.elemLine (t : TensorDesc) (row col : Nat) : Nat :=
  let p := t.stored row col
  match t.blk with
  | some f => t.lineAddr f p.1 (p.2 / 16)
  | none => t.wideAddr p.1 p.2 / 64 * 64

/-- The lines of a stored row as an engine reads them that copies them whole: an uncorrectable store line is read poisoned or
with every element the canonical NaN (R89, R197). -/
def Channel.rowLines (h : Channel) (t : TensorDesc) (sr : Nat) : List Byte :=
  (List.range (t.padded / 64)).flatMap (fun l =>
    let a := t.data + sr * t.stride + 64 * l
    let line := h.bytes a 64
    if !h.lineBad a then line
    else match t.blk with
      | some f =>
        let at' := if f.six then 48 else 56
        let line := (List.range f.blocksPerLine).foldl (fun (l : List Byte) i => l.set (at' + i) 255#8) line
        line.set 63 (line.getD 63 0#8 ||| 8#8)
      | none => ((List.range (64 / t.wideBytes)).flatMap (fun _ => leBytes t.wideBytes (Fp.encode t.wide .nan)) ++ List.replicate 64 0#8).take 64)

/-- Writes one block conversion into its line, or into its two halves in K2 emulation, which may lie in two lines (R85, R276).
`fresh` says of a 16-element block whether its line begins with it, from zero; `degraded` goes to each line written (R90). -/
def Channel.putBlockAt (h : Channel) (k2 : Bool) (t : TensorDesc) (f : BlkFmt) (sr b : Nat) (o : BlockOut)
    (degraded : Bool) (fresh : Nat → Bool) : Channel :=
  let one := fun (h : Channel) (b : Nat) (o : BlockOut) =>
    let a := t.lineAddr f sr b
    h.write a (putBlock f (h.bytes a 64) (fresh b) (b % f.blocksPerLine) o degraded)
  if k2 then
    let h := one h (2 * b) { o with codes := o.codes.take 16 }
    if 2 * b + 1 < t.padded / 64 * f.blocksPerLine then one h (2 * b + 1) { o with codes := o.codes.drop 16 } else h
  else one h b o

/-- Converts elements of one block of a stored row: block `b` of 16 elements, or K2 block `b` of 32 (R77, R277). -/
def TensorDesc.convert (t : TensorDesc) (k2 : Bool) (f : BlkFmt) (keys : DrawKeys) (sr b : Nat) (xs : List Fp) : BlockOut :=
  let w := if k2 then 32 else 16
  convertBlock f k2 w (some (if k2 then 24 else 12)) (t.mode keys sr (w * b) xs.length) t.tInv xs

/-- Writes one stored row of values (R91, R203, R212): `vals` are the row's elements in FP32, `degraded` says whether an
element depended on a line with DEGRADED, which goes to each line of the element's block (R90). BF16 is rounded to nearest
whatever the mode (R259). Answers the channel and the row's statistics. -/
def Channel.writeRow (h : Channel) (k2 : Bool) (t : TensorDesc) (keys : DrawKeys) (sr : Nat) (vals : List Fp)
    (degraded : Nat → Bool) : Channel × Stats :=
  let st := vals.foldl (fun st v => st.merge t.cols (Stats.ofValue v)) Stats.none
  match t.blk with
  | some f =>
    let w := if k2 then 32 else 16
    (List.range (ceilDiv vals.length w)).foldl (fun acc b =>
      let xs := (vals.drop (w * b)).take w
      let o := t.convert k2 f keys sr b xs
      let first := if k2 then 2 * b else b
      let deg := (List.range xs.length).any (fun i => degraded (w * b + i))
      let h := acc.1.putBlockAt k2 t f sr b o deg (fun i => i % f.blocksPerLine == 0)
      (h, acc.2.merge t.cols (Stats.ofBlock o deg (fun i => t.logical sr (w * b + i)) first))) (h, st)
  | none =>
    (vals.zipIdx.foldl (fun (h : Channel) p =>
      let d := t.wideWrite sr p.2 (p.1.round t.wide .nearest)
      h.write d.1 d.2) h, st)

/-- Blocks that an entry of the loaded program writes into the tensors of its watches, a recompute descriptor's included; what an
image build or an entry outside the program writes is not counted (R272). -/
def State.countSilence (s : State) (c : Chan) (j : Job) (t : TensorDesc) (w : Stats) : State :=
  match (s.chan c).rootOwner j, (s.chan c).training.program with
  | .entry _ _ _ _ _ _, some p =>
    s.onTraining c (fun r => { r with silence := r.silence.map (fun q =>
      if q.step = p.step ∧ q.tensorId = t.tensorId then
        { q with blocks := q.blocks + w.blocks, nonzero := q.nonzero || decide (0 < w.nonzero + w.poisoned) }
      else q) })
  | _, _ => s

/-- Writes a whole tensor, stored row by stored row, and merges its statistics (R205, R212); `k2` says whether conversions follow
R277. -/
def State.writeTensorAs (s : State) (k2 : Bool) (c : Chan) (j : Job) (t : TensorDesc) (keys : DrawKeys)
    (val : Nat → Nat → Fp) (degraded : Nat → Nat → Bool) (extra : Stats) : State :=
  let r := (List.range t.storedRows).foldl (fun (acc : Channel × Stats) sr =>
    let vals := (List.range t.rowLen).map (fun i =>
      let q := t.logical sr i
      val q.1 q.2)
    let w := acc.1.writeRow k2 t keys sr vals (fun i =>
      let q := t.logical sr i
      degraded q.1 q.2)
    (w.1, acc.2.merge t.cols w.2)) (s.chan c, extra)
  let s := ((s.setChan c r.1).mergeStats c t r.2).countSilence c j t r.2
  s.onChan c (fun h => match h.job j.id with
    | some j => h.setJob (j.noteInvalid t r.2)
    | none => h)

/-- Writes a whole tensor in the numerics of the channel's mode (R275). -/
def State.writeTensor (s : State) (c : Chan) (j : Job) (t : TensorDesc) (keys : DrawKeys) (val : Nat → Nat → Fp)
    (degraded : Nat → Nat → Bool) (extra : Stats) : State :=
  s.writeTensorAs (s.k2 c) c j t keys val degraded extra

/-- The draw keys of a job's conversions into a tensor (Tables 9.1 and 9.2). -/
def State.drawKeys (s : State) (c : Chan) (j : Job) (t : TensorDesc) : DrawKeys :=
  match (s.chan c).rootOwner j, (s.chan c).training.program with
  | .entry _ _ mb _ _ _, some p => ⟨s.ent (kEng c 0x11), p.step, t.tensorId, mb⟩
  | .entry _ _ mb _ _ _, none => ⟨s.ent (kEng c 0x11), 0, t.tensorId, mb⟩
  | _, _ => ⟨s.ent (kEng c 0x11), 0, t.tensorId, 0⟩

/-! ### Activations (R213, R214) -/

/-- max(x, 0). -/
def relu (x : Fp) : Fp := match x with
  | .nan => .nan
  | _ => if Fp.gt x Fp.zero then x else Fp.zero

/-- f of Table 7.9 (R213, R214; log entry 114). -/
def activate (code : Nat) (x : Fp) : Fp :=
  match x with
  | .nan => .nan
  | .inf false => .inf false
  | .inf true => if code = 0 then .inf true else Fp.zero
  | _ =>
    if code = 0 then x
    else if code = 1 then relu x
    else if code = 2 then mul32 (relu x) (relu x)
    else nearExact (activationBound code false) (activationValue code x)
      (f32 (Config.activation code false (BitVec.ofNat 32 (w32 x))).toNat)

/-- f′ of Table 7.9 (R213, R214; log entry 114). -/
def activateDeriv (code : Nat) (x : Fp) : Fp :=
  match x with
  | .nan => .nan
  | .inf false => if code = 2 then .inf false else Fp.one
  | .inf true => if code = 0 then Fp.one else Fp.zero
  | _ =>
    if code = 0 then Fp.one
    else if code = 1 then (if Fp.gt x Fp.zero then Fp.one else Fp.zero)
    else if code = 2 then mul32 (Fp.ofInt 2) (relu x)
    else nearExact (activationBound code true) (activationSlope code x)
      (f32 (Config.activation code true (BitVec.ofNat 32 (w32 x))).toNat)

/-! ### Weight-bound tensors (R235, R419) -/

/-- What the check of R235 answers. -/
inductive BankCheck where
  | ok
  | wait
  | refused
  deriving DecidableEq, Repr

/-- The banks of a weight with the bank number and the tag each holds. -/
def Weight.banks (w : Weight) : List (TensorDesc × Nat × Option Half) :=
  [(w.param0, 0, w.held0), (w.param1, 1, w.held1)]
    ++ (w.image0.toList.map (fun t => (t, 0, w.built0))) ++ (w.image1.toList.map (fun t => (t, 1, w.built1)))
    ++ (w.twin0.toList.map (fun t => (t, 0, w.built0))) ++ (w.twin1.toList.map (fun t => (t, 1, w.built1)))

/-- a is later than b in 16 bits (R16). -/
def later16 (a b : Half) : Bool := let d := (a - b).toNat; decide (1 ≤ d) && decide (d < 2 ^ 15)

/-- a is later than b in 32 bits (R16). -/
def later32 (a b : Word) : Bool := let d := (a - b).toNat; decide (1 ≤ d) && decide (d < 2 ^ 31)

/-- a is later than b in 64 bits (R16). -/
def later64 (a b : DWord) : Bool := let d := (a - b).toNat; decide (1 ≤ d) && decide (d < 2 ^ 63)

/-- The tag of a program's micro-batches (R229). -/
def Program.tag (p : Program) : Half := BitVec.ofNat 16 (p.step + 65536 - 1 - (if p.updateLag then 1 else 0))

/-- The tag that a weight-bound tensor of a job must carry: the micro-batch's, or its own outside a program (R419). -/
def Channel.tagFor (h : Channel) (j : Job) (t : TensorDesc) : Half :=
  match h.rootOwner j, h.training.program with
  | .entry _ _ _ _ _ _, some p => p.tag
  | _, _ => t.versionTag

/-- R235 for one tensor. -/
def Channel.bankCheck (h : Channel) (j : Job) (t : TensorDesc) : BankCheck :=
  match (h.training.weights.flatMap Weight.banks).find? (fun b => b.1.data == t.data) with
  | none => .ok
  | some (_, bank, held) =>
    if t.versionTag ≠ h.tagFor j t ∨ t.versionTag.toNat % 2 ≠ bank then .refused
    else match held with
      | none => .wait
      | some v => if v = t.versionTag then .ok else if later16 v t.versionTag then .refused else .wait

/-- R235 for the tensors of a descriptor: refused at the first refused one, else waiting if any waits. -/
def Channel.banksCheck (h : Channel) (j : Job) (ts : List TensorDesc) : Except Refused Bool :=
  match ts.find? (fun t => h.bankCheck j t == .refused) with
  | some t => .error ⟨0x10, t.addr, 6, 0⟩
  | none => .ok (ts.any (fun t => h.bankCheck j t == .wait))

/-- Whether two descriptors name one tensor: the same bytes in the same format, layout and shape. -/
def TensorDesc.same (a b : TensorDesc) : Bool :=
  a.data == b.data && a.format == b.format && a.layout == b.layout && a.rows == b.rows && a.cols == b.cols
    && a.stride == b.stride

/-- R249: a KA48 tensor may be written only by an entry whose weight has that tensor as its gradient buffer. -/
def Channel.gradOk (h : Channel) (j : Job) (t : TensorDesc) : Bool :=
  match h.rootOwner j with
  | .entry _ _ _ _ w _ => h.training.weights.any (fun q => q.id == w && q.grad.same t)
  | _ => false

/-! ### KA48 buffers (R95, R246 to R248, R269) -/

/-- One increment into a KA48 value: the rounded sum, and the kind of an invalid operation (R95, R269, R278). -/
def kaAdd (k2 : Bool) (old inc : Fp) : Fp × Option Nat :=
  let exact := Fp.addExact old inc
  let v := exact.round ka48 (if k2 then .towardZero else .nearest)
  let beyond := match exact, exact.round ka48 .nearest with
    | .fin _ _ _, .inf _ => true
    | .fin _ m e, _ => k2 && decide (m ≠ 0 ∧ 128 ≤ e + (bitLen m : Int) - 1)
    | _, _ => false
  (v, if addInvalid old inc then some 0x01 else if beyond then some 0x0A else none)

/-- Accumulate-write of one value into element (row, col) of a KA48 tensor. -/
def Channel.kaAccumulate (h : Channel) (k2 : Bool) (t : TensorDesc) (row col : Nat) (v : Fp) : Channel × Stats :=
  let r := kaAdd k2 (h.ka t row col) v
  let a := t.wideAddr (t.stored row col).1 (t.stored row col).2
  (h.writeNat a 6 (Fp.encode ka48 r.1), (Stats.ofValue v).merge t.cols (match r.2 with
    | some k => Stats.ofInvalid ⟨k, row, col, 0xFFFFFFFF⟩
    | none => Stats.none))

/-- ACCUMULATE_WRITE commands for a run of `n` elements from element `i` of a stored row (R248). -/
def kaCommands (i n : Nat) : Nat := if n = 0 then 0 else (i + n - 1) / 10 - i / 10 + 1

/-- Counts ACCUMULATE_WRITE commands (Tables 8.8 and 14.5). -/
def State.countAccumulates (s : State) (c : Chan) (n : Nat) : State := (s.bumpBy c (kEng c 0x0A) n).perfAdd c 77 n

/-! ### Products (R209 to R212) -/

/-- Width class of an operand format: 0 four-bit, 1 six-bit, 2 BF16, 3 FP32, 4 other. -/
def widthClass (format : Nat) : Nat :=
  match format with
  | 0 => 0
  | 1 => 0
  | 2 => 1
  | 3 => 1
  | 0x10 => 2
  | 0x11 => 3
  | _ => 4

/-- Loads and checks a product descriptor (R12, R99, R194, R210). -/
def Channel.loadProduct (h : Channel) (env : LoadEnv) (j : Job) : Except Refused ProductExec := do
  let a := j.addr
  let bad := fun (off : Nat) => (⟨0x20, a, off, 0⟩ : Refused)
  let flags := h.nat (a + 2) 2
  let fn := h.nat (a + 4) 1
  let act := flags.testBit 1
  let der := flags.testBit 2
  if h.nat a 2 ≠ 0x20 then throw (bad 0)
  if act && der then throw (bad 2)
  if 6 < fn then throw (bad 4)
  if h.nat (a + 6) 2 = 0 then throw (bad 6)
  let ta ← h.loadTensor env 0x20 a 8 (h.nat (a + 8) 8) false onlyStore
  if ta.layout ≠ 0 || widthClass ta.format == 4 then throw (bad 8)
  let tb ← h.loadTensor env 0x20 a 16 (h.nat (a + 16) 8) false onlyStore
  if tb.layout ≠ 1 || ta.cols != tb.rows || widthClass ta.format != widthClass tb.format then throw (bad 16)
  let ca := h.nat (a + 24) 8
  let ka := h.nat (ca + 2) 1 == 0x12
  let tc ← h.loadTensor env 0x20 a 24 ca true (if ka then onlyHbm else onlyStore)
  if tc.rows ≠ ta.rows || tc.cols != tb.cols || (tc.format == 0x12 && !h.gradOk j tc) then throw (bad 24)
  let bias := h.nat (a + 32) 8
  if flags.testBit 0 && (bias % 64 != 0 || !inStore bias (4 * tc.cols)) then throw (bad 32)
  let d ← (if der then do
      let t ← h.loadTensor env 0x20 a 40 (h.nat (a + 40) 8) false onlyStore
      if t.rows ≠ tc.rows || t.cols != tc.cols || t.format == 0x12 then throw (bad 40)
      pure (some t)
    else pure none)
  pure ⟨a, flags, fn, h.nat (a + 6) 2, ta, tb, tc, bias, d, []⟩

/-- Column tiles of a product. -/
def ProductExec.colTiles (e : ProductExec) : Nat := ceilDiv e.c.cols 16

/-- Output tiles of a product (R211). -/
def ProductExec.tileCount (e : ProductExec) : Nat := ceilDiv e.c.rows 128 * e.colTiles

/-- What one output element comes to: its drained value, its invalid operations, and DEGRADED. -/
structure OutElem where
  value : Fp
  stats : Stats
  degraded : Bool
  deriving DecidableEq, Repr

/-- The accumulator of output element (m, n), with the DEGRADED of the lines read (R100 to R103, R278). The blocks of a pair that is
skipped for a zero scale count among those that the accumulation included (R90; log entry 118). -/
def Channel.productAcc (h : Channel) (k2 : Bool) (e : ProductExec) (m n : Nat) : Acc × Bool :=
  match e.a.blk, e.b.blk with
  | some fa, some fb =>
    let w := if k2 then 32 else 16
    (List.range (ceilDiv e.a.cols w)).foldl (fun (acc : Acc × Bool) i =>
      let a := if k2 then h.readK2 e.a fa m i else h.readBlock e.a fa m i
      let b := if k2 then h.readK2 e.b fb n i else h.readBlock e.b fb n i
      (if k2 then acc.1.k2Block fa fb i a b else acc.1.block fa fb i a b, acc.2 || a.degraded || b.degraded))
      (Acc.zero, false)
  | _, _ =>
    ((List.range e.a.cols).foldl (fun (acc : Acc) k =>
      let a := (h.storedElem false e.a m k).value
      let b := (h.storedElem false e.b n k).value
      acc.product (if k2 then .towardZero else .nearest) a b) Acc.zero, false)

/-- Faults of the lines of stored row `sr` of an operand: kind, first block and first element, one for each faulty line
(R565). -/
def Channel.rowFaults (h : Channel) (k2 : Bool) (t : TensorDesc) (sr : Nat) : List (Nat × Nat × Nat) :=
  match t.blk with
  | some f => (List.range (t.padded / 64)).filterMap (fun l =>
      let b := l * f.blocksPerLine
      if b * 16 < t.rowLen then
        (if k2 then ((List.range f.blocksPerLine).findSome? (fun i => (h.readK2 t f sr ((b + i) / 2)).fault)).map (fun k => (k, b, 16 * b))
         else (h.readBlock t f sr b).fault.map (fun k => (k, b, 16 * b)))
      else none)
  | none => (List.range (t.padded / 64)).filterMap (fun l =>
      if h.lineBad (t.data + sr * t.stride + 64 * l) then some (0x09, 0xFFFFFFFF, 64 * l / t.wideBytes) else none)

/-- The drain of output element (m, n) (R104, R212), with the faults that R565 places at it. -/
def Channel.productElem (h : Channel) (k2 : Bool) (e : ProductExec) (m n : Nat) : OutElem :=
  let acc := h.productAcc k2 e m n
  let note := fun (st : Stats) (kind block : Nat) => st.merge e.c.cols (Stats.ofInvalid ⟨kind, m, n, block⟩)
  let st := Stats.none
  let st := if n = 0 then (h.rowFaults k2 e.a m).foldl (fun st p => note st p.1 p.2.1) st else st
  let st := if m = 0 then (h.rowFaults k2 e.b n).foldl (fun st p => note st p.1 p.2.1) st else st
  let st := match acc.1.poison with
    | some b => note st 0x02 b
    | none => st
  let st := match acc.1.invalid with
    | some b => note st 0x01 b
    | none => st
  let scale := fun (t : TensorDesc) => if t.blk.isSome then f32 t.scale else Fp.one
  let tt := mul32 (scale e.a) (scale e.b)
  let st := if mulInvalid acc.1.value tt then note st 0x01 0xFFFFFFFF else st
  let v := mul32 acc.1.value tt
  let badBias := e.flags.testBit 0 && h.lineBad (e.bias + 4 * n)
  let st := if badBias && m = 0 && n % 16 = 0 then note st 0x09 0xFFFFFFFF else st
  let b := if badBias then Fp.nan else f32 (h.nat (e.bias + 4 * n) 4)
  let st := if e.flags.testBit 0 && addInvalid v b then note st 0x01 0xFFFFFFFF else st
  let v := if e.flags.testBit 0 then add32 v b else v
  let v := if e.flags.testBit 1 then activate e.function v else v
  match e.deriv with
  | none => ⟨v, st, acc.2⟩
  | some t =>
    let p := h.elem k2 t m n
    let place := t.stored m n
    let st := ((h.rowFaults k2 t place.1).filter (fun q => q.2.2 == place.2)).foldl (fun st q => note st q.1 q.2.1) st
    let d := activateDeriv e.function p.value
    let st := if mulInvalid v d then note st 0x01 0xFFFFFFFF else st
    ⟨mul32 v d, st, acc.2 || p.degraded⟩

/-- The output tile that holds element (m, n) of C. -/
def ProductExec.tileOf (e : ProductExec) (m n : Nat) : Nat := m / 128 * e.colTiles + n / 16

/-- Whether block `b` of stored row `sr` of C, of 32 elements in emulation, holds real elements and has been drained: the tiles of all
of them have completed. -/
def ProductExec.drained (e : ProductExec) (k2 : Bool) (sr b : Nat) : Bool :=
  let w := if k2 then 32 else 16
  decide (w * b < e.c.rowLen) && (List.range w).all (fun i =>
    decide (e.c.rowLen ≤ w * b + i) ||
      (let q := e.c.logical sr (w * b + i)
       e.done.contains (e.tileOf q.1 q.2)))

/-- Whether a block of line `line` of stored row `sr` of C has been written in this execution by an earlier tile, so that the line has
been begun from zero (R91). -/
def ProductExec.lineBegun (e : ProductExec) (k2 : Bool) (f : BlkFmt) (sr line : Nat) : Bool :=
  (List.range f.blocksPerLine).any (fun i =>
    let b := line * f.blocksPerLine + i
    e.drained k2 sr (if k2 then b / 2 else b))

/-- Handshakes of one output tile (Table 7.7, R279). -/
def ProductExec.handshakes (e : ProductExec) (k2 : Bool) : Nat :=
  ceilDiv e.a.cols 16 * (match widthClass e.a.format with
    | 0 => if k2 then 4 else 1
    | 1 => 2
    | 2 => 16
    | _ => 64)

/-- The clusters of a mask. -/
def maskClusters (mask : Nat) : List Nat := (List.range 16).filter (fun k => mask.testBit k)

/-- Counts a tile's handshakes on one engine of the mask; which engine is a free value (R211). Log entry 97. -/
def State.countTile (s : State) (c : Chan) (mask n : Nat) : State :=
  let r := s.drawFree
  let ks := maskClusters mask
  let pick := Config.fresh r.1 % (4 * max 1 ks.length)
  (r.2.perfAdd c 3 n).perfAdd c (4 + 4 * ks.getD (pick / 4) 0 + pick % 4) n

/-- Elements of C that tile `tile` covers, row by row. -/
def ProductExec.cells (e : ProductExec) (tile : Nat) : List (Nat × Nat) :=
  let m0 := tile / e.colTiles * 128
  let n0 := tile % e.colTiles * 16
  (List.range (min 128 (e.c.rows - m0))).flatMap (fun i => (List.range (min 16 (e.c.cols - n0))).map (fun k => (m0 + i, n0 + k)))

/-- The blocks of C, as stored row and block, that become complete with tile `tile`: those that lie in it, and in K2 emulation
those of 32 elements whose other tile has completed (R212, R276). -/
def ProductExec.blocks (e : ProductExec) (k2 : Bool) (tile : Nat) : List (Nat × Nat) :=
  let w := if k2 then 32 else 16
  let raw := ((e.cells tile).map (fun q => ((e.c.stored q.1 q.2).1, (e.c.stored q.1 q.2).2 / w))).eraseDups
  raw.filter (fun p => (List.range w).all (fun i =>
    decide (e.c.rowLen ≤ w * p.2 + i) ||
      (let q := e.c.logical p.1 (w * p.2 + i)
       let t := e.tileOf q.1 q.2
       t == tile || e.done.contains t)))

/-- Writes one block of C from its drained elements (R212). `begun` lists the lines that this tile has begun already, by stored row and
line; a line that no tile has begun starts from zero, with its padding (R91). -/
def Channel.drainBlock (h : Channel) (k2 : Bool) (e : ProductExec) (f : BlkFmt) (keys : DrawKeys) (begun : List (Nat × Nat))
    (sr b : Nat) : Channel × Stats :=
  let w := if k2 then 32 else 16
  let es := (List.range (min w (e.c.rowLen - w * b))).map (fun i =>
    let q := e.c.logical sr (w * b + i)
    h.productElem k2 e q.1 q.2)
  let o := e.c.convert k2 f keys sr b (es.map (·.value))
  let first := if k2 then 2 * b else b
  let deg := es.any (·.degraded)
  let fresh := fun (i : Nat) =>
    let line := i / f.blocksPerLine
    !e.lineBegun k2 f sr line && !begun.contains (sr, line) && (i == first || line != first / f.blocksPerLine)
  (h.putBlockAt k2 e.c f sr b o deg fresh,
    Stats.ofBlock o deg (fun i => e.c.logical sr (w * b + i)) first)

/-- The statistics of a tile's elements before the write step. -/
def Channel.tileStats (h : Channel) (k2 : Bool) (e : ProductExec) (tile : Nat) : Stats :=
  (e.cells tile).foldl (fun st q =>
    let o := h.productElem k2 e q.1 q.2
    (st.merge e.c.cols o.stats).merge e.c.cols (Stats.ofValue o.value)) Stats.none

/-- The write step of a tile: blocks, wide elements, or accumulate-writes (R212). -/
def Channel.writeTile (h : Channel) (k2 : Bool) (e : ProductExec) (keys : DrawKeys) (tile : Nat) : Channel × Stats :=
  match e.c.blk with
  | some f =>
    let r := (e.blocks k2 tile).foldl (fun (acc : (Channel × Stats) × List (Nat × Nat)) p =>
      let r := acc.1.1.drainBlock k2 e f keys acc.2 p.1 p.2
      let lines := if k2 then [(p.1, 2 * p.2 / f.blocksPerLine), (p.1, (2 * p.2 + 1) / f.blocksPerLine)]
        else [(p.1, p.2 / f.blocksPerLine)]
      ((r.1, acc.1.2.merge e.c.cols r.2), lines ++ acc.2)) ((h, Stats.none), [])
    r.1
  | none =>
    if e.c.format = 0x12 then
      (e.cells tile).foldl (fun (acc : Channel × Stats) q =>
        let r := acc.1.kaAccumulate k2 e.c q.1 q.2 (h.productElem k2 e q.1 q.2).value
        (r.1, acc.2.merge e.c.cols r.2)) (h, Stats.none)
    else
      ((e.cells tile).foldl (fun (g : Channel) q =>
        let p := e.c.stored q.1 q.2
        let d := e.c.wideWrite p.1 p.2 ((h.productElem k2 e q.1 q.2).value.round e.c.wide .nearest)
        g.write d.1 d.2) h, Stats.none)

/-- ACCUMULATE_WRITE commands of a tile (R248): one for each group that a run of one stored row touches. -/
def ProductExec.commands (e : ProductExec) (tile : Nat) : Nat :=
  let m0 := tile / e.colTiles * 128
  let n0 := tile % e.colTiles * 16
  let mh := min 128 (e.c.rows - m0)
  let nw := min 16 (e.c.cols - n0)
  if e.c.layout = 0 then mh * kaCommands n0 nw else nw * kaCommands m0 mh

/-- The tensors that a row descriptor reads and writes. -/
def RowExec.tensors (e : RowExec) : List TensorDesc :=
  [e.x, e.y, e.dy, e.dx, e.mask, e.gamma, e.beta, e.stats, e.grad].filterMap id

/-- The tensors that a loaded descriptor names, as R235 checks them. -/
def Held.tensors : Held → List TensorDesc
  | .product e => [e.a, e.b, e.c] ++ e.deriv.toList
  | .transpose src dst => [src, dst]
  | .row e => e.tensors
  | .raster e => [e.out]
  | .array e => [e.param, e.input, e.output, e.snapshot]
  | .stashOut t _ => [t]
  | .stashIn t _ _ => [t]

/-- The refresh that an execution of a layer waits for (R156, R283): none for a layer without factors. -/
def State.refreshPending (s : State) (c : Chan) (l : Layer) (tag : Half) : Bool :=
  !s.mirror c && decide (0 < l.rank) && !l.frozen && (match l.refreshed with
    | some r => r != tag && !later16 r tag
    | none => true)

/-- What holds an execution of an array layer back beside its banks: it is refused where a fold of its layer has switched to a later
version (R162), and waits for the refresh of its version (R156). -/
def State.arrayWait (s : State) (c : Chan) (j : Job) (e : ArrayExec) : Except Refused (Option (Nat × Nat)) :=
  match (s.chan c).arrays.layers.find? (fun l => l.id == e.layer) with
  | none => .ok none
  | some l =>
    if (match l.switched with
      | some w => later16 w e.tag
      | none => false) then .error ⟨0x41, j.addr, 0, 0⟩
    else if s.refreshPending c l e.tag then .ok (some (1, kArr c 0x31))
    else .ok none

/-- What a loaded descriptor waits for before it starts, with the kind and the counter of the wait (R235, R156). -/
def State.heldWait (s : State) (c : Chan) (j : Job) (x : Held) : Except Refused (Option (Nat × Nat)) :=
  match (s.chan c).banksCheck j x.tensors with
  | .error r => .error r
  | .ok true => .ok (some (0, kEng c 0x08))
  | .ok false =>
    (match x with
      | .array e => s.arrayWait c j e
      | _ => .ok none)

/-- A loaded descriptor starts once its waits are met, and `go` acts on it; it is refused where its bank or its layer has gone past its
tag, and held otherwise. A program entry that has started does not wait again (R240). -/
def State.startHeld (s : State) (c : Chan) (j : Job) (x : Held) (go : State → State) : State :=
  if (s.chan c).entryStarted j then go s
  else match s.heldWait c j x with
    | .error r => s.refuseJob c j r
    | .ok (some w) => s.holdJob c j x w.1 w.2
    | .ok none => go (s.markStarted c j)

/-- A waiting descriptor whose bank has come to hold a tag later than its own is refused at that moment (R235). -/
def State.recheckBanks (s : State) (c : Chan) : State :=
  ((s.chan c).jobs.map (fun j => j.id)).foldl (fun (s : State) id => match (s.chan c).job id with
    | some j =>
      (match j.phase with
        | .held x =>
          if (s.chan c).entryStarted j then s
          else (match (s.chan c).banksCheck j x.tensors with
            | .error r => s.refuseJob c j r
            | .ok _ => s)
        | _ => s)
    | none => s) s

/-- A product descriptor is taken up: loaded once, or as it was loaded (R200), then its tiles are ready to be worked. -/
def State.beginProduct (s : State) (c : Chan) (j : Job) : State :=
  let start := fun (e : ProductExec) => s.startHeld c j (.product e) (fun s =>
    s.onChan c (fun h => h.setJob { j with phase := .product e }))
  match j.phase with
  | .held (.product e) => start e
  | .held _ => s
  | _ =>
    (match (s.chan c).loadProduct (s.loadEnv c j) j with
      | .error r => s.refuseJob c j r
      | .ok e => start e)

/-- A descriptor of a backward entry that writes a block-format tensor without STOCHASTIC is counted, once for each execution; a
descriptor of a recomputation belongs to the entry of its stash IN (R260). -/
def State.countNearest (s : State) (c : Chan) (j : Job) (ts : List TensorDesc) : State :=
  match (s.chan c).rootOwner j with
  | .entry _ _ _ cls _ _ =>
    if cls = 1 && ts.any (fun t => t.blk.isSome && !t.stochastic) then s.bump c (kEng c 0x13) else s
  | _ => s

/-- An engine finishes output tile `tile` (ENGINE_TILE_COMPLETE): its drain writes it and the record takes its work. -/
def State.endTile (s : State) (c : Chan) (j : Job) (e : ProductExec) (tile : Nat) : State :=
  let h := s.chan c
  let k2 := s.k2 c
  let m0 := tile / e.colTiles * 128
  let n0 := tile % e.colTiles * 16
  let inM := fun (m : Nat) => decide (m0 ≤ m) && decide (m < m0 + 128)
  let inN := fun (n : Nat) => decide (n0 ≤ n) && decide (n < n0 + 16)
  let st := h.tileStats k2 e tile
  let r := h.writeTile k2 e (s.drawKeys c j e.c) tile
  let w := st.merge e.c.cols { r.2 with absmax := Fp.zero }
  let s := s.setChan c r.1
  let s := s.storeReads c (fun a => (List.range e.a.storedRows).any (fun i => inM i && e.a.rowTouches i a)
    || (List.range e.b.storedRows).any (fun i => inN i && e.b.rowTouches i a)
    || (e.flags.testBit 0 && decide (e.bias + 4 * n0 ≤ 8 * a) && decide (8 * a < e.bias + 4 * n0 + 64))
    || (match e.deriv with
      | some t => (e.cells tile).any (fun q => decide (t.elemLine q.1 q.2 = 8 * a / 64 * 64))
      | none => false))
  let s := s.mergeStats c e.c w
  let s := s.countSilence c j e.c w
  let s := s.countTile c e.mask (e.handshakes k2)
  let s := if e.c.format = 0x12 then s.countAccumulates c (e.commands tile) else s
  let e := { e with done := e.done ++ [tile] }
  let j := { (j.noteInvalid e.c w) with phase := .product e }
  if e.done.length = e.tileCount then ((s.countNearest c j [e.c]).onChan c (fun h => h.setJob j)).finishJob c j 0 0
  else s.onChan c (fun h => h.setJob j)

/-! ### Transpose (R215, R244) -/

/-- Whether stored rows of two tensors share a byte (R215). -/
def TensorDesc.overlaps (a b : TensorDesc) : Bool :=
  (List.range a.storedRows).any (fun i => (List.range b.storedRows).any (fun k =>
    decide (a.data + i * a.stride < b.data + k * b.stride + b.padded)
      && decide (b.data + k * b.stride < a.data + i * a.stride + a.padded)))

/-- Loads a transpose descriptor (R12, R215, R244). -/
def Channel.loadTranspose (h : Channel) (env : LoadEnv) (j : Job) : Except Refused (TensorDesc × TensorDesc) := do
  let a := j.addr
  let bad := fun (off : Nat) => (⟨0x32, a, off, 0⟩ : Refused)
  if h.nat a 2 ≠ 0x32 then throw (bad 0)
  let src ← h.loadTensor env 0x32 a 8 (h.nat (a + 8) 8) false anywhere
  if src.format = 0x12 then throw (bad 8)
  let dst ← h.loadTensor env 0x32 a 16 (h.nat (a + 16) 8) true anywhere
  if dst.format = 0x12 || dst.rows != src.rows || dst.cols != src.cols || src.overlaps dst then throw (bad 16)
  pure (src, dst)

/-- Faults of the source lines of a whole-tensor operation, each placed by `place` from its stored row and first element: at the lowest-indexed destination element of each line
(R565). -/
def Channel.sourceFaults (h : Channel) (k2 : Bool) (src : TensorDesc) (cols : Nat) (place : Nat → Nat → Nat × Nat) : Stats :=
  (List.range src.storedRows).foldl (fun st sr => (h.rowFaults k2 src sr).foldl (fun st p =>
    let q := place sr p.2.2
    st.merge cols (Stats.ofInvalid ⟨p.1, q.1, q.2, p.2.1⟩)) st) Stats.none

/-- The transpose engine's operation on two loaded tensors (R215). -/
def State.transpose (s : State) (c : Chan) (j : Job) (keys : DrawKeys) (src dst : TensorDesc) : State :=
  let h := s.chan c
  let k2 := s.k2 c
  let faults := h.sourceFaults k2 src dst.cols (fun sr i => src.logical sr i)
  let s := s.writeTensor c j dst keys (fun r q => (h.elem k2 src r q).value) (fun r q => (h.elem k2 src r q).degraded) faults
  (s.storeReads c (fun w => src.touches w)).perfAdd c 68 (src.rows * src.cols)

/-! ### Softmax and normalisation (R216, R217) -/

/-- The tensor fields that an operation of Table 7.10 uses, by the number of the field: X 0 to BETA 6, STATS 7, PARAM_GRAD 8. -/
def rowUses (op : Nat) (mask : Bool) : List Nat :=
  match op with
  | 1 => [0, 1] ++ (if mask then [4] else [])
  | 2 => [1, 2, 3]
  | 3 => [0, 1, 5, 6, 7]
  | 4 => [0, 2, 3, 5, 7, 8]
  | 5 => [0, 1, 5, 7]
  | 6 => [0, 2, 3, 5, 7, 8]
  | _ => []

/-- The tensor fields that an operation writes. -/
def rowWrites (op : Nat) : List Nat :=
  match op with
  | 1 => [1]
  | 2 => [3]
  | 3 => [1, 7]
  | 4 => [3, 8]
  | 5 => [1, 7]
  | 6 => [3, 8]
  | _ => []

/-- Loads one tensor of a row descriptor: an output may be KA48 in HBM, which the engine reaches by accumulate-write under R249
(R212, R217, Table 7.2), PARAM_GRAD is; every other tensor lies in the shared store. -/
def Channel.loadRowTensor (h : Channel) (env : LoadEnv) (j : Job) (op k : Nat) : Except Refused TensorDesc := do
  let off := if k < 7 then 8 + 8 * k else if k = 7 then 64 else 72
  let p := h.nat (j.addr + off) 8
  let writes := (rowWrites op).contains k
  let ka := k = 8 || ((k = 1 || k = 3) && writes && h.nat (p + 2) 1 == 0x12)
  let t ← h.loadTensor env 0x30 j.addr off p writes (if ka then onlyHbm else onlyStore)
  if ka != (t.format == 0x12) || (ka && !h.gradOk j t) then throw ⟨0x30, j.addr, off, 0⟩
  pure t

/-- Loads a row descriptor (R12, R216); the shapes of GAMMA, BETA and MASK_T are those of log entry 17. -/
def Channel.loadRow (h : Channel) (env : LoadEnv) (j : Job) : Except Refused RowExec := do
  let a := j.addr
  let bad := fun (off : Nat) => (⟨0x30, a, off, 0⟩ : Refused)
  let op := h.nat (a + 2) 1
  let flags := h.nat (a + 3) 1
  if h.nat a 2 ≠ 0x30 then throw (bad 0)
  if op = 0 || 6 < op then throw (bad 2)
  let uses := rowUses op (op == 1 && flags.testBit 1)
  let load := fun (k : Nat) => (do
    if uses.contains k then
      let t ← h.loadRowTensor env j op k
      pure (some t)
    else pure (none : Option TensorDesc) : Except Refused (Option TensorDesc))
  let x ← load 0
  let y ← load 1
  let dy ← load 2
  let dx ← load 3
  let m ← load 4
  let g ← load 5
  let b ← load 6
  let st ← load 7
  let pg ← load 8
  let main := (x <|> y).getD ⟨0, 0, 0, 0, 0, 0, 0, 0, 0, 0, 0, 0, 0, 0⟩
  let same := fun (o : Option TensorDesc) => match o with
    | some t => t.rows == main.rows && t.cols == main.cols
    | none => true
  if 1048576 < main.rowLen then throw (bad 8)
  if !same y then throw (bad 16)
  if !same dy then throw (bad 24)
  if !same dx then throw (bad 32)
  if !same m then throw (bad 40)
  let row := fun (o : Option TensorDesc) => match o with
    | some t => t.rows == 1 && t.cols == main.rowLen
    | none => true
  if !row g then throw (bad 48)
  if !row b then throw (bad 56)
  if (match st with
    | some t => t.rows != main.storedRows || t.cols != 2 || t.format != 0x11
    | none => false) then throw (bad 64)
  if (match pg with
    | some t => t.rows != 2 || t.cols != main.rowLen
    | none => false) then throw (bad 72)
  let sc := h.nat (a + 80) 4
  let ep := h.nat (a + 84) 4
  if (op == 3 || op == 5) && !(Fp.gt (f32 ep) Fp.zero && (f32 ep).isFinite) then throw (bad 84)
  let off := h.nat (a + 88) 4
  pure ⟨op, op == 1 && flags.testBit 0, x, y, dy, dx, m, g, b, st, pg, f32 sc, f32 ep,
    if off < 2 ^ 31 then (off : Int) else (off : Int) - 2 ^ 32⟩

/-- A value with the record of whether an invalid operation of kind 0x01 (0 × ∞, ∞ − ∞, ∞ ÷ ∞) lies in its derivation (R206;
log entry 18). -/
structure Traced where
  v : Fp
  bad : Bool
  deriving DecidableEq, Repr

/-- A value read, with nothing behind it. -/
def Traced.of (v : Fp) : Traced := ⟨v, false⟩

/-- FP32 sum. -/
def Traced.add (a b : Traced) : Traced := ⟨add32 a.v b.v, a.bad || b.bad || addInvalid a.v b.v⟩

/-- FP32 difference. -/
def Traced.sub (a b : Traced) : Traced := a.add ⟨b.v.neg, b.bad⟩

/-- FP32 product. -/
def Traced.mul (a b : Traced) : Traced := ⟨mul32 a.v b.v, a.bad || b.bad || mulInvalid a.v b.v⟩

/-- Whether both values are infinite. -/
def bothInf : Fp → Fp → Bool
  | .inf _, .inf _ => true
  | _, _ => false

/-- FP32 quotient. -/
def Traced.div (a b : Traced) : Traced := ⟨div32 a.v b.v, a.bad || b.bad || bothInf a.v b.v⟩

/-- Sum in ascending order, from +0 (R217). -/
def Traced.sum (l : List Traced) : Traced := l.foldl Traced.add (Traced.of Fp.zero)

/-- The mean of a row in FP32 (R217). -/
def Traced.mean (l : List Traced) : Traced := (Traced.sum l).div (Traced.of (Fp.ofInt l.length))

/-- The exponential in FP32 of a value not above 0, within 2 BF16 ulps (R217; log entry 114); 0 at −∞. -/
def exp32 (x : Fp) : Fp :=
  match x with
  | .nan => .nan
  | .inf n => if n then Fp.zero else .inf false
  | .fin _ _ _ => nearExact 2 (expValue x) (f32 (Config.expFp32 (BitVec.ofNat 32 (w32 x))).toNat)

/-- What the softmax engine writes of the quotients it computes: each lies within 2 BF16 ulps or 2^−30 of the exact softmax of the
row (R217; log entry 114). -/
def softmaxBound (mu : Fp) (zs : List Fp) (ys : List Traced) : List Traced :=
  if mu.isFinite && zs.all (fun z => z.isFinite || z == .inf true) then
    (ys.zip (softmaxValues mu zs)).map (fun p => ⟨nearExact 2 p.2 p.1.v, p.1.bad⟩)
  else ys

/-- One row of SOFTMAX: its outputs, and whether every z is −∞. -/
def softmaxRow (scale : Fp) (xs add : List Traced) : List Traced × Bool :=
  let z := (xs.zip add).map (fun p => ((Traced.of scale).mul p.1).add p.2)
  if z.all (fun q => q.v == .inf true) then (z.map (fun _ => Traced.of Fp.zero), true)
  else
    let mu := if z.any (fun q => q.v.isNan) then .nan else z.foldl (fun a q => if Fp.gt q.v a then q.v else a) (.inf true)
    let m : Traced := ⟨mu, z.any (fun q => q.bad)⟩
    let e := z.map (fun q =>
      let d := q.sub m
      (⟨exp32 d.v, d.bad⟩ : Traced))
    let d := Traced.sum e
    (softmaxBound mu (z.map (fun q => q.v)) (e.map (fun q => q.div d)), false)

/-- One row of SOFTMAX_BACK. -/
def softmaxBackRow (scale : Fp) (y dy : List Traced) : List Traced :=
  let d := Traced.sum ((dy.zip y).map (fun p => p.1.mul p.2))
  (y.zip dy).map (fun p => ((Traced.of scale).mul p.1).mul (p.2.sub d))

/-- μ and ρ of a row: LAYERNORM subtracts the mean, RMSNORM does not. -/
def normStats (layer : Bool) (eps : Fp) (xs : List Traced) : Traced × Traced :=
  let mu := if layer then Traced.mean xs else Traced.of Fp.zero
  let v := (Traced.mean (xs.map (fun x =>
    let d := if layer then x.sub mu else x
    d.mul d))).add (Traced.of eps)
  (mu, (Traced.of Fp.one).div ⟨sqrt32 v.v, v.bad⟩)

/-- Element `i` of a row of values. -/
def tracedAt (l : List Traced) (i : Nat) : Traced := l.getD i (Traced.of Fp.zero)

/-- One row of LAYERNORM or RMSNORM. -/
def normRow (layer : Bool) (mu rho : Traced) (xs g b : List Traced) : List Traced :=
  xs.zipIdx.map (fun p =>
    let d := if layer then p.1.sub mu else p.1
    let v := (d.mul rho).mul (tracedAt g p.2)
    if layer then v.add (tracedAt b p.2) else v)

/-- One row of LAYERNORM_BACK or RMSNORM_BACK: dx, and x̂. -/
def normBackRow (layer : Bool) (mu rho : Traced) (xs dy g : List Traced) : List Traced × List Traced :=
  let xh := xs.map (fun x => (if layer then x.sub mu else x).mul rho)
  let gi := dy.zipIdx.map (fun p => p.1.mul (tracedAt g p.2))
  let mg := Traced.mean gi
  let mgx := Traced.mean ((gi.zip xh).map (fun p => p.1.mul p.2))
  ((gi.zip xh).map (fun p =>
    let t := if layer then p.1.sub mg else p.1
    rho.mul (t.sub (p.2.mul mgx))), xh)

/-- What one stored row of a row descriptor yields: its outputs, μ and ρ for STATS, the terms of dγ and dβ, and an empty
SOFTMAX row. -/
structure RowOut where
  out : List Traced
  mu : Traced
  rho : Traced
  dgamma : List Traced
  dbeta : List Traced
  empty : Bool
  deriving DecidableEq, Repr

/-- A row that yields nothing but outputs. -/
def RowOut.plain (out : List Traced) (empty : Bool) : RowOut := ⟨out, Traced.of Fp.zero, Traced.of Fp.zero, [], [], empty⟩

/-- The operation of Table 7.10 on stored row `r`. STATS holds μ in column 0 and ρ in column 1 of a LAYERNORM, ρ in column 0 of an
RMSNORM (log entry 119). -/
def Channel.rowOp (h : Channel) (k2 : Bool) (e : RowExec) (main : TensorDesc) (r : Nat) : RowOut :=
  let n := main.rowLen
  let get := fun (o : Option TensorDesc) => match o with
    | some t => (List.range n).map (fun i =>
        let q := main.logical r i
        Traced.of (h.elem k2 t q.1 q.2).value)
    | none => []
  let vec := fun (o : Option TensorDesc) => match o with
    | some t => (List.range n).map (fun i => Traced.of (h.elem k2 t 0 i).value)
    | none => []
  let stat := fun (k : Nat) => match e.stats with
    | some t => Traced.of (h.elem k2 t r k).value
    | none => Traced.of Fp.zero
  let xs := get e.x
  let g := vec e.gamma
  match e.op with
  | 1 =>
    let mask := get e.mask
    let add := (List.range n).map (fun (i : Nat) =>
      if e.causal && decide ((r : Int) + e.offset < (i : Int)) then Traced.of (.inf true)
      else if e.mask.isSome then tracedAt mask i else Traced.of Fp.zero)
    let o := softmaxRow e.scale xs add
    RowOut.plain o.1 o.2
  | 2 => RowOut.plain (softmaxBackRow e.scale (get e.y) (get e.dy)) false
  | 3 =>
    let st := normStats true e.eps xs
    ⟨normRow true st.1 st.2 xs g (vec e.beta), st.1, st.2, [], [], false⟩
  | 5 =>
    let st := normStats false e.eps xs
    ⟨normRow false st.1 st.2 xs g [], st.1, st.2, [], [], false⟩
  | _ =>
    let layer := e.op == 4
    let dy := get e.dy
    let mu := if layer then stat 0 else Traced.of Fp.zero
    let rho := stat (if layer then 1 else 0)
    let o := normBackRow layer mu rho xs dy g
    ⟨o.1, mu, rho, (dy.zip o.2).map (fun p => p.1.mul p.2), dy, false⟩

/-- The invalid operations behind a list of written values, one for each value that has any in its derivation (R206). -/
def tracedInvalid (cols : Nat) (l : List Traced) (place : Nat → Nat × Nat) : Stats :=
  l.zipIdx.foldl (fun st p => if p.1.bad then
    st.merge cols (Stats.ofInvalid ⟨0x01, (place p.2).1, (place p.2).2, 0xFFFFFFFF⟩) else st) Stats.none

/-- Column sums over the rows of an execution in ascending row order (R217). -/
def colSums (n : Nat) (rows : List (List Traced)) : List Traced :=
  (List.range n).map (fun i => Traced.sum (rows.map (fun r => tracedAt r i)))

/-- Accumulate-writes of values into logical elements of a KA48 tensor, in order, by `n` commands; `extra` joins its record (R212,
R217). -/
def State.accumulateAll (s : State) (c : Chan) (j : Job) (t : TensorDesc) (items : List ((Nat × Nat) × Fp)) (extra : Stats) (n : Nat) :
    State :=
  let k2 := s.k2 c
  let r := items.foldl (fun (acc : Channel × Stats) p =>
    let q := acc.1.kaAccumulate k2 t p.1.1 p.1.2 p.2
    (q.1, acc.2.merge t.cols q.2)) (s.chan c, extra)
  let s := (s.setChan c r.1).mergeStats c t r.2
  let s := s.onChan c (fun h => match h.job j.id with
    | some j => h.setJob (j.noteInvalid t r.2)
    | none => h)
  s.countAccumulates c n

/-- Writes the outputs of a row operation under R212's write step: whole stored rows, or accumulate-writes into KA48, one command for each
group of a stored row. -/
def State.writeRows (s : State) (c : Chan) (j : Job) (t : TensorDesc) (val : Nat → Nat → Fp) (degraded : Nat → Nat → Bool)
    (extra : Stats) : State :=
  if t.format = 0x12 then
    let cells := (List.range t.storedRows).flatMap (fun sr => (List.range t.rowLen).map (fun i => t.logical sr i))
    s.accumulateAll c j t (cells.map (fun q => (q, val q.1 q.2))) extra (t.storedRows * kaCommands 0 t.rowLen)
  else s.writeTensor c j t (s.drawKeys c j t) val degraded extra

/-- The tensors of a row descriptor that its operation reads as rows of its shape. -/
def RowExec.sources (e : RowExec) : List TensorDesc := [e.x, if e.op = 2 then e.y else none, e.dy, e.mask].filterMap id

/-- The tensors that it reads as one row for all: GAMMA and BETA. -/
def RowExec.vectors (e : RowExec) : List TensorDesc := [e.gamma, e.beta].filterMap id

/-- STATS of an operation that reads it. -/
def RowExec.statsRead (e : RowExec) : List TensorDesc := if e.op = 4 ∨ e.op = 6 then e.stats.toList else []

/-- STATS of an operation that writes it. -/
def RowExec.statsWritten (e : RowExec) : List TensorDesc := if e.op = 3 ∨ e.op = 5 then e.stats.toList else []

/-- The faults of the lines that a row operation reads (R565): at the first element of the first row written from the line, which for
GAMMA and BETA is the first row (log entry 119). -/
def Channel.rowSourceFaults (h : Channel) (k2 : Bool) (e : RowExec) (main : TensorDesc) (cols : Nat) : Stats :=
  let st := e.sources.foldl (fun (st : Stats) (src : TensorDesc) => st.merge cols (h.sourceFaults k2 src cols (fun sr i =>
    let q := src.logical sr i
    main.logical (main.stored q.1 q.2).1 0))) Stats.none
  let st := e.vectors.foldl (fun (st : Stats) (src : TensorDesc) =>
    st.merge cols (h.sourceFaults k2 src cols (fun _ _ => main.logical 0 0))) st
  e.statsRead.foldl (fun (st : Stats) (src : TensorDesc) => st.merge cols (h.sourceFaults k2 src cols (fun sr i =>
    main.logical (src.logical sr i).1 0))) st

/-- Whether a row that a row operation writes depends on a line with DEGRADED (R90). -/
def Channel.rowDegraded (h : Channel) (k2 : Bool) (e : RowExec) (main : TensorDesc) (sr : Nat) : Bool :=
  e.sources.any (fun src => (List.range main.rowLen).any (fun i =>
      let p := main.logical sr i
      (h.elem k2 src p.1 p.2).degraded))
    || e.vectors.any (fun src => (List.range main.rowLen).any (fun i => (h.elem k2 src 0 i).degraded))

/-- The softmax and normalisation engine executes a loaded row descriptor (R216, R217). STATS holds μ in column 0 and ρ in column 1,
and ρ in column 0 for RMSNORM (log entry 119). -/
def State.rowExecute (s : State) (c : Chan) (j : Job) (e : RowExec) : State :=
  let h := s.chan c
  let k2 := s.k2 c
  match e.x <|> e.y with
  | none => s
  | some main =>
    let outs := (List.range main.storedRows).map (h.rowOp k2 e main)
    let rowAt := fun (r : Nat) => outs.getD r (RowOut.plain [] false)
    let deg := (List.range main.storedRows).map (h.rowDegraded k2 e main)
    let dst := if e.op = 2 ∨ e.op = 4 ∨ e.op = 6 then e.dx else e.y
    let s := match dst with
      | none => s
      | some t =>
        let inv := outs.zipIdx.foldl (fun (st : Stats) (p : RowOut × Nat) =>
          st.merge t.cols (tracedInvalid t.cols p.1.out (main.logical p.2))) (h.rowSourceFaults k2 e main t.cols)
        s.writeRows c j t (fun r q =>
            let p := main.stored r q
            (tracedAt (rowAt p.1).out p.2).v)
          (fun r q => deg.getD (main.stored r q).1 false) inv
    let s := e.statsWritten.foldl (fun (s : State) (t : TensorDesc) =>
      let val := fun (r q : Nat) =>
        let o := rowAt r
        if e.op = 3 then (if q = 0 then o.mu else o.rho) else if q = 0 then o.rho else Traced.of Fp.zero
      let inv := (List.range t.rows).foldl (fun (st : Stats) r =>
        st.merge t.cols (tracedInvalid t.cols [val r 0, val r 1] (fun q => (r, q)))) Stats.none
      s.writeTensor c j t (s.drawKeys c j t) (fun r q => (val r q).v) (fun _ _ => false) inv) s
    let s := match e.grad with
      | some t =>
        let put := fun (s : State) (row : Nat) (sums : List Traced) =>
          s.accumulateAll c j t (sums.zipIdx.map (fun (p : Traced × Nat) => ((row, p.2), p.1.v))) (tracedInvalid t.cols sums (fun i => (row, i)))
            sums.length
        put (put s 0 (colSums main.rowLen (outs.map (fun (o : RowOut) => o.dgamma)))) 1
          (colSums main.rowLen (outs.map (fun (o : RowOut) => o.dbeta)))
      | none => s
    let s := s.bumpBy c (kEng c 0x06) (outs.filter (fun (o : RowOut) => o.empty)).length
    let s := s.storeReads c (fun w => (e.sources ++ e.vectors ++ e.statsRead).any (fun t => t.touches w))
    s.perfAdd c 69 (main.rows * main.cols)

/-! ### Raster ingest (R222 to R225) -/

/-- Bytes of one pixel row with `n` samples (R223). -/
def RasterExec.rowLen (e : RasterExec) : Nat :=
  let n := if e.bandSeq then e.width else e.width * e.bands
  if e.packed12 then 3 * ceilDiv n 2 else 2 * n

/-- Bytes from SOURCE to the last byte of the source. -/
def RasterExec.extent (e : RasterExec) : Nat :=
  (if e.bandSeq then (e.bands - 1) * e.bandBytes else 0) + (e.height - 1) * e.rowBytes + e.rowLen

/-- Patches across and down (R224, R225). -/
def RasterExec.across (e : RasterExec) : Nat := ceilDiv e.width e.patch
/-- Patches down. -/
def RasterExec.down (e : RasterExec) : Nat := ceilDiv e.height e.patch

/-- Loads a raster descriptor (R12, R194, R222, R225). -/
def Channel.loadRaster (h : Channel) (env : LoadEnv) (j : Job) : Except Refused RasterExec := do
  let a := j.addr
  let bad := fun (off : Nat) => (⟨0x60, a, off, 0⟩ : Refused)
  let fl := h.nat (a + 6) 2
  if h.nat a 2 ≠ 0x60 then throw (bad 0)
  if 1 < h.nat (a + 2) 1 then throw (bad 2)
  if 1 < h.nat (a + 3) 1 then throw (bad 3)
  if h.nat (a + 4) 1 = 0 || 32 < h.nat (a + 4) 1 then throw (bad 4)
  if !([8, 14, 16, 32].contains (h.nat (a + 5) 1)) then throw (bad 5)
  if h.nat (a + 8) 4 = 0 || 16384 < h.nat (a + 8) 4 then throw (bad 8)
  if h.nat (a + 12) 4 = 0 || 16384 < h.nat (a + 12) 4 then throw (bad 12)
  let out ← h.loadTensor env 0x60 a 56 (h.nat (a + 56) 8) true anywhere
  let e : RasterExec := ⟨h.nat (a + 2) 1 == 0, h.nat (a + 3) 1 == 1, h.nat (a + 4) 1, h.nat (a + 5) 1, fl.testBit 0,
    fl.testBit 1, h.nat (a + 8) 4, h.nat (a + 12) 4, h.nat (a + 16) 8, h.nat (a + 24) 8, h.nat (a + 32) 8,
    h.nat (a + 40) 8, h.nat (a + 48) 2, out⟩
  if e.source % 64 ≠ 0 || !hbmFree e.source e.extent then throw (bad 16)
  if e.gains % 64 ≠ 0 || !hbmFree e.gains (8 * e.bands) then throw (bad 40)
  if (out.format != 0x10 && out.format != 0x11) || out.layout != 0 || out.rows != e.across * e.down
      || out.cols != e.bands * e.patch * e.patch + (if e.maskBand then e.patch * e.patch else 0) then throw (bad 56)
  pure e

/-- The code of band `b` of pixel (x, y) (R223). -/
def Channel.sample (h : Channel) (e : RasterExec) (x y b : Nat) : Nat :=
  let base := e.source + y * e.rowBytes + (if e.bandSeq then b * e.bandBytes else 0)
  let i := if e.bandSeq then x else x * e.bands + b
  if e.packed12 then
    let odd := i % 2
    if odd = 0 then h.nat (base + 3 * (i / 2)) 2 % 4096 else h.nat (base + 3 * (i / 2) + 1) 2 / 16
  else h.nat (base + 2 * i) 2

/-- Whether the code is no-data (R224). -/
def Channel.isNodata (h : Channel) (e : RasterExec) (x y b : Nat) : Bool := e.nodataEnable && h.sample e x y b == e.nodata

/-- The gain and the offset of band `b`. -/
def Channel.bandGain (h : Channel) (e : RasterExec) (b : Nat) : Fp × Fp :=
  (f32 (h.nat (e.gains + 8 * b) 4), f32 (h.nat (e.gains + 8 * b + 4) 4))

/-- The value of one pixel in one band (R224). -/
def Channel.pixel (h : Channel) (e : RasterExec) (x y b : Nat) : Fp :=
  if e.width ≤ x ∨ e.height ≤ y then Fp.zero
  else if h.isNodata e x y b then Fp.zero
  else
    let g := h.bandGain e b
    toF32 (Fp.addExact (Fp.mulExact g.1 (Fp.ofInt (h.sample e x y b))) g.2)

/-- Whether the value of one pixel in one band is an invalid operation: 0 × ∞, or infinities of opposite sign (R206). -/
def Channel.pixelInvalid (h : Channel) (e : RasterExec) (x y b : Nat) : Bool :=
  if e.width ≤ x ∨ e.height ≤ y then false
  else if h.isNodata e x y b then false
  else
    let g := h.bandGain e b
    let u := Fp.ofInt (h.sample e x y b)
    mulInvalid g.1 u || addInvalid (Fp.mulExact g.1 u) g.2

/-- The mask value of one pixel (R224). -/
def Channel.pixelMask (h : Channel) (e : RasterExec) (x y : Nat) : Fp :=
  if e.width ≤ x ∨ e.height ≤ y then Fp.zero
  else if (List.range e.bands).any (fun b => h.isNodata e x y b) then Fp.zero else Fp.one

/-- The pixel and the band of feature `f` of token `t` (R225). -/
def RasterExec.place (e : RasterExec) (t f : Nat) : Nat × Nat × Nat :=
  let p := e.patch
  (t % e.across * p + f % p, t / e.across * p + f / p % p, f / (p * p))

/-- Feature `f` of token `t` (R225). -/
def Channel.feature (h : Channel) (e : RasterExec) (t f : Nat) : Fp :=
  let q := e.place t f
  if q.2.2 < e.bands then h.pixel e q.1 q.2.1 q.2.2 else h.pixelMask e q.1 q.2.1

/-- The invalid operations of the bands whose gain or offset is not finite (R206). -/
def Channel.rasterInvalid (h : Channel) (e : RasterExec) : Stats :=
  let bands := (List.range e.bands).filter (fun b => !((h.bandGain e b).1.isFinite && (h.bandGain e b).2.isFinite))
  bands.foldl (fun st b => (List.range (e.across * e.down)).foldl (fun st t =>
    (List.range (e.patch * e.patch)).foldl (fun (st : Stats) i =>
      let f := b * (e.patch * e.patch) + i
      let q := e.place t f
      if h.pixelInvalid e q.1 q.2.1 b then st.merge e.out.cols (Stats.ofInvalid ⟨0x01, t, f, 0xFFFFFFFF⟩) else st) st) st) Stats.none

/-- The ingest engine executes a loaded raster descriptor (R224, R225). -/
def State.rasterExecute (s : State) (c : Chan) (j : Job) (e : RasterExec) : State :=
  let h := s.chan c
  let n := e.width * e.height * e.bands
  let nd := ((List.range e.height).map (fun y => ((List.range e.width).map (fun x =>
    ((List.range e.bands).filter (fun b => h.isNodata e x y b)).length)).foldl (· + ·) 0)).foldl (· + ·) 0
  let s := s.writeTensor c j e.out (s.drawKeys c j e.out) (fun t f => h.feature e t f) (fun _ _ => false)
    (h.rasterInvalid e)
  ((s.bumpBy c (kEng c 0x04) n).bumpBy c (kEng c 0x05) nd).perfAdd c 74 n

end Sys2Proof.Machine
end

