-- ==== Sys2Proof/Machine/Training.lean ====
section
/-!
DEFINITION. The training step: weights and their builds, the interleave program, the stash, recomputation, NUMERICS_MODE
and the silence watch (08 R228 to R257, 09 R267, R268, R271 to R274, R280, R284, 13 R384, R389, R395).
-/

namespace Sys2Proof.Machine

/-! ### Jobs that may begin -/

/-- The job `id` of channel `c` when it is of type `ty` and may begin its work now. Log entry 2. -/
def State.ready (s : State) (c : Chan) (id ty : Nat) : Option Job :=
  match (s.chan c).job id with
  | some j => if j.descType = ty && (s.chan c).mayBegin j then some j else none
  | none => none

/-- Acts on the job when it may begin; an occurrence without such a job changes nothing (log entry 2). -/
def State.withJob (s : State) (c : Chan) (id ty : Nat) (f : Job → State) : State :=
  match s.ready c id ty with
  | some j => f j
  | none => s

/-- Whether the descriptor at an address has bit 0 of FLAGS (bytes 2 and 3), RELEASE, set. -/
def Channel.releases (h : Channel) (a : Nat) : Bool := (h.nat (a + 2) 2).testBit 0

/-! ### Live tags (R236) -/

/-- Slot and index of the last entry of a micro-batch in program order. -/
def Program.lastEntry (p : Program) (mb : Nat) : Option (Nat × Nat) :=
  (p.slots.zipIdx.flatMap (fun (q : List SlotEntry × Nat) =>
    (q.1.zipIdx.filter (fun (e : SlotEntry × Nat) => e.1.mb == mb)).map (fun (e : SlotEntry × Nat) => (q.2, e.2)))).getLast?

/-- Whether an entry of the program has completed. -/
def Program.entryDone (p : Program) (slot index : Nat) : Bool :=
  decide (slot < p.slot) || (slot == p.slot && p.states.getD index .idle == .done)

/-- The tags that are live on the channel: those of the micro-batches that have started an entry and whose last entry in program order
has not completed (R236). -/
def Channel.liveTags (h : Channel) : List Half :=
  match h.training.program with
  | none => []
  | some p => (p.begun.filter (fun mb => match p.lastEntry mb with
    | some q => !p.entryDone q.1 q.2
    | none => false)).map (fun _ => p.tag)

/-- Whether a tag is live on the channel (R236). -/
def Channel.live (h : Channel) (tag : Half) : Bool := h.liveTags.contains tag

/-- Whether the first entry of a micro-batch is held back: a live tag is neither the micro-batch's own nor the one before it (R236); no
live tag of a loaded program is (log entry 133). -/
def Channel.versionStalled (h : Channel) (p : Program) (mb : Nat) : Bool :=
  !p.begun.contains mb && h.liveTags.any (fun t => t != p.tag && t != p.tag - 1)

/-! ### Builds (R232, R233) -/

/-- One transpose-engine operation outside any job (R215, R233). -/
def State.buildOne (s : State) (c : Chan) (src dst : TensorDesc) : State :=
  let id := (s.chan c).nextId
  let s := s.onChan c (fun h => h.addJob (.recompute id) 0 0x32)
  match (s.chan c).job id with
  | some j =>
    let s := s.transpose c j ⟨0, 0, 0, 0⟩ src dst
    let s := match (s.chan c).job id with
      | some j => s.raiseInvalid c j
      | none => s
    s.onChan c (fun h => h.dropJob id)
  | none => s

/-- The tensor of a weight's kind for bank `b`: 0 parameter, 1 image, 2 twin. -/
def Weight.bank (w : Weight) (kind b : Nat) : Option TensorDesc :=
  match kind with
  | 0 => some (if b = 0 then w.param0 else w.param1)
  | 1 => if b = 0 then w.image0 else w.image1
  | _ => if b = 0 then w.twin0 else w.twin1

/-- The tag that parameter bank `b` holds. -/
def Weight.held (w : Weight) (b : Nat) : Option Half := if b = 0 then w.held0 else w.held1

/-- A weight whose parameter bank `b` holds a tag. -/
def Weight.setHeld (w : Weight) (b : Nat) (v : Option Half) : Weight :=
  if b = 0 then { w with held0 := v } else { w with held1 := v }

/-- A weight in whose image bank `b` a tag is built. -/
def Weight.setBuilt (w : Weight) (b : Nat) (v : Option Half) : Weight :=
  if b = 0 then { w with built0 := v } else { w with built1 := v }

/-- Changes a registered weight. -/
def State.onWeight (s : State) (c : Chan) (id : Nat) (f : Weight → Weight) : State :=
  s.onTraining c (fun t => { t with weights := t.weights.map (fun w => if w.id = id then f w else w) })

/-- Builds version `v` of one weight: image, twin, and the tag built (R233). -/
def State.buildWeight (s : State) (c : Chan) (id : Nat) (v : Half) : State :=
  match (s.chan c).training.weights.find? (fun w => w.id == id) with
  | none => s
  | some w =>
    let b := v.toNat % 2
    let src := if b = 0 then w.param0 else w.param1
    let s := match w.bank 1 b with
      | some d => s.buildOne c src d
      | none => s
    let s := match w.bank 2 b with
      | some d => s.buildOne c src d
      | none => s
    s.onWeight c id (fun w => w.setBuilt b (some v))

/-- Registered weights in ascending WEIGHT_ID. -/
def Training.ids (t : Training) : List Nat := (List.range 4096).filter (fun i => t.weights.any (fun w => w.id == i))

/-! ### The weight table (R230 to R232) -/

/-- Banks and buffer that a weight descriptor names: byte offset, and the tensor when it is nonzero. -/
def Weight.tensors (w : Weight) : List TensorDesc :=
  [w.param0, w.param1, w.grad] ++ w.image0.toList ++ w.image1.toList ++ w.twin0.toList ++ w.twin1.toList

/-- Loads a weight descriptor without RELEASE (R12, R194, R204, R231); an image or twin is converted to nearest, so one with STOCHASTIC
is refused (R231, R259). -/
def Channel.loadWeight (h : Channel) (env : LoadEnv) (j : Job) : Except Refused Weight := do
  let a := j.addr
  let bad := fun (off : Nat) => (⟨0x73, a, off, 0⟩ : Refused)
  if h.nat a 2 ≠ 0x73 then throw (bad 0)
  let id := h.nat (a + 4) 2
  if 4096 ≤ id || h.training.weights.any (fun w => w.id == id) then throw (bad 4)
  let layer := h.nat (a + 6) 2
  if layer ≠ 0xFFFF && (!h.arrays.layers.any (fun l => l.id == layer)
      || h.training.weights.any (fun w => w.arrayLayer == layer)) then throw (bad 6)
  let load := fun (off : Nat) (image : Bool) (layout : Nat) => (do
    let p := h.nat (a + off) 8
    if p = 0 then pure (none : Option TensorDesc)
    else
      let t ← h.loadTensor env 0x73 a off p image anywhere
      if image && (t.blk.isNone || t.layout != layout || t.stochastic) then throw (bad off)
      if !image && t.format == 0x12 then throw (bad off)
      pure (some t) : Except Refused (Option TensorDesc))
  let p0 ← load 16 false 0
  let p1 ← load 24 false 0
  let i0 ← load 32 true 0
  let i1 ← load 40 true 0
  let t0 ← load 48 true 1
  let t1 ← load 56 true 1
  let g ← h.loadTensor env 0x73 a 64 (h.nat (a + 64) 8) false onlyHbm
  match p0, p1 with
  | some p0, some p1 =>
    if i0.isSome != i1.isSome then throw (bad 40)
    if t0.isSome != t1.isSome then throw (bad 56)
    if g.format ≠ 0x12 then throw (bad 64)
    let w : Weight := ⟨id, layer, p0, p1, i0, i1, t0, t1, g, none, none, none, none, none⟩
    let fields := [(16, some p0), (24, some p1), (32, i0), (40, i1), (48, t0), (56, t1), (64, some g)]
    let named := fields.filterMap (fun (f : Nat × Option TensorDesc) => f.2.map (fun t => (f.1, t)))
    match named.find? (fun (f : Nat × TensorDesc) => f.2.rows != p0.rows || f.2.cols != p0.cols) with
    | some f => throw (bad f.1)
    | none =>
      let others := h.training.weights.flatMap Weight.tensors
      match named.zipIdx.find? (fun (f : (Nat × TensorDesc) × Nat) =>
          ((named.take f.2).map (fun (x : Nat × TensorDesc) => x.2) ++ others).any (fun t => f.1.2.overlaps t)) with
      | some f => throw (bad f.1.1)
      | none =>
        if h.arrays.layers.any (fun l => l.id == layer && (l.k != p0.cols || l.n != p0.rows)) then throw (bad 6)
        pure w
  | none, _ => throw (bad 16)
  | _, none => throw (bad 24)

/-- WEIGHT_DESCRIPTOR: registration (R231, R232); the build waits while the tag before its bank's last one is live (R236). -/
def execWeightDescriptor (c : Chan) (job : Nat) (s : State) : Host.Outcome State Fault Refusal :=
  .next (s.withJob c job 0x73 (fun j =>
    let h := s.chan c
    if h.releases j.addr then s
    else match h.loadWeight (s.loadEnv c j) j with
      | .error r => s.refuseJob c j r
      | .ok w =>
        let tag := BitVec.ofNat 16 (h.nat (j.addr + 8) 2)
        let s := s.onChan c (fun h =>
          let h := h.clearBuffer w.grad
          { h with training := { h.training with weights := h.training.weights ++ [w.setHeld (tag.toNat % 2) (some tag)] } })
        if (s.chan c).live (tag - 2) then
          (s.onChan c (fun h => h.setJob { j with phase := .building w.id })).onTraining c (fun t => { t with
            builds := t.builds ++ [(tag, [w.id])] })
        else (s.buildWeight c w.id tag).finishJob c j 0 0))

/-- Descriptors that wait for a build of one of these weights end (R232). -/
def State.endBuilds (s : State) (c : Chan) (ids : List Nat) : State :=
  ((s.chan c).jobs.filter (fun j => match j.phase with
    | .building w => ids.contains w
    | _ => false)).foldl (fun s j => s.finishJob c j 0 0) s

/-- WEIGHT_RELEASE: a weight descriptor with RELEASE (R231). -/
def execWeightRelease (c : Chan) (job : Nat) (s : State) : Host.Outcome State Fault Refusal :=
  .next (s.withJob c job 0x73 (fun j =>
    let h := s.chan c
    let bad := fun (off : Nat) => (⟨0x73, j.addr, off, 0⟩ : Refused)
    if !h.releases j.addr then s
    else if h.nat j.addr 2 ≠ 0x73 then s.refuseJob c j (bad 0)
    else if h.training.program.isSome then s.refuseJob c j (bad 2)
    else if 4096 ≤ h.nat (j.addr + 4) 2 then s.refuseJob c j (bad 4)
    else
      let id := h.nat (j.addr + 4) 2
      (s.onTraining c (fun t => { t with weights := t.weights.filter (fun w => w.id != id) })).finishJob c j 0 0))

/-- VERSION_BUILD: the front version whose older tag is no longer live is built (R233, R236). -/
def execVersionBuild (c : Chan) (s : State) : Host.Outcome State Fault Refusal :=
  .next (match (s.chan c).training.builds with
    | [] => s
    | (v, left) :: rest =>
      if (s.chan c).live (v - 2) || !(s.chan c).issues then s
      else
        let todo := (s.chan c).training.ids.filter (fun i => left.contains i)
        let s := (todo.foldl (fun s i => s.buildWeight c i v) s).onTraining c (fun t => { t with builds := rest })
        (s.endBuilds c left).recheckBanks c)

/-! ### The interleave program (R238 to R241) -/

/-- Byte offsets of the tensor addresses that a descriptor of a type holds. -/
def tensorFields (ty : Nat) : List Nat :=
  match ty with
  | 0x20 => [8, 16, 24, 40]
  | 0x30 => [8, 16, 24, 32, 40, 48, 56, 64, 72]
  | 0x32 => [8, 16]
  | 0x38 => [8]
  | 0x41 => [32, 40, 48, 56]
  | 0x60 => [56]
  | _ => []

/-- Addresses of the tensor descriptors that a descriptor names. -/
def Channel.namedTensors (h : Channel) (a : Nat) : List Nat :=
  ((tensorFields (h.nat a 2)).map (fun off => h.nat (a + off) 8)).filter (fun t => t != 0 && descAt t 128)

/-- Addresses of the tensor descriptors that an entry's descriptor names, through recompute descriptors too (R395). -/
def Channel.allTensors (h : Channel) (a : Nat) : List Nat :=
  let own := h.namedTensors a
  let recs := if h.nat a 2 = 0x38 then
      (own.map (fun t => h.nat (t + 56) 8)).filter (fun r => r != 0 && descAt r 128)
    else []
  own ++ recs.flatMap (fun r => (List.range (min 14 (h.nat (r + 2) 1))).flatMap (fun i =>
    let d := h.nat (r + 8 + 8 * i) 8
    if descAt d 64 then h.namedTensors d else []))

/-- The tensor descriptor that the step-tag check of a program refuses, if any (R395). -/
def Channel.stepFault (h : Channel) (step a : Nat) : Option Nat :=
  (h.allTensors a).find? (fun t => h.nat t 2 == 0x10 && (h.tensorDesc t).stepRefused ⟨false, step⟩)

/-- A fault of a program at load: slot, entry, and what is refused. -/
structure ProgramFault where
  slot : Nat
  entry : Nat
  refused : Refused
  deriving DecidableEq, Repr

/-- The slot record `n` of a program whose slots begin at `base` (Table 8.3). -/
def Channel.slotRecord (h : Channel) (base n : Nat) : List SlotEntry :=
  let a := base + 256 * n
  (List.range (h.nat (a + 2) 1)).map (fun i =>
    let e := a + 16 + 16 * i
    ⟨h.nat e 8, h.nat (e + 8) 2, h.nat (e + 10) 2, h.nat (e + 12) 1, h.nat (e + 13) 1 == 1, h.nat (e + 14) 2⟩)

/-- Fault of the fields of one slot record (R239). Log entry 42. -/
def Channel.slotFault (h : Channel) (base micro n : Nat) : Option ProgramFault :=
  let a := base + 256 * n
  let at' := fun (entry off : Nat) => some (⟨n, entry, ⟨0x71, a, off, 0⟩⟩ : ProgramFault)
  if h.nat a 2 ≠ 0x71 then at' 0 0
  else if h.nat (a + 2) 1 = 0 ∨ 15 < h.nat (a + 2) 1 then at' 0 2
  else if (h.bytes (a + 3) 13).any (· != 0#8) then at' 0 3
  else (List.range (h.nat (a + 2) 1)).findSome? (fun i =>
    let e := 16 + 16 * i
    let f := fun (off n : Nat) => h.nat (a + e + off) n
    if f 0 8 % 64 ≠ 0 then at' i e
    else if 2 ^ i ≤ f 8 2 then at' i (e + 8)
    else if micro ≤ f 10 2 then at' i (e + 10)
    else if 1 < f 12 1 then at' i (e + 12)
    else if 1 < f 13 1 then at' i (e + 13)
    else if f 14 2 ≠ 0xFFFF && !h.training.weights.any (fun w => w.id == f 14 2) then at' i (e + 14)
    else if f 13 1 = 1 ∧ f 14 2 = 0xFFFF then at' i (e + 13)
    else none)

/-- The entries of a slot that entry `i` reaches through AFTER masks. -/
def slotReach (es : List SlotEntry) : Nat → Nat → List Nat
  | 0, _ => []
  | fuel + 1, i =>
    let direct := (List.range i).filter (fun k => (es.getD i ⟨0, 0, 0, 0, false, 0⟩).after.testBit k)
    direct ++ direct.flatMap (slotReach es fuel)

/-- The higher index of two entries of a slot that name one weight and are not ordered (R239). -/
def slotUnordered (es : List SlotEntry) : Option Nat :=
  (List.range es.length).find? (fun i =>
    (List.range i).any (fun k =>
      let a := es.getD i ⟨0, 0, 0, 0, false, 0⟩
      let b := es.getD k ⟨0, 0, 0, 0, false, 0⟩
      a.weight == b.weight && a.weight != 0xFFFF && !(slotReach es 15 i).contains k))

/-- Entries of a program in program order that name a weight: slot, index, LAST_GRAD. -/
def namers (slots : List (List SlotEntry)) (w : Nat) : List (Nat × Nat × Bool) :=
  slots.zipIdx.flatMap (fun (q : List SlotEntry × Nat) =>
    (q.1.zipIdx.filter (fun (e : SlotEntry × Nat) => e.1.weight == w)).map (fun (e : SlotEntry × Nat) => (q.2, e.2, e.1.lastGrad)))

/-- The entry at which the LAST_GRAD rules of R239 fail for a weight, if any. -/
def gradFault (slots : List (List SlotEntry)) (w : Nat) : Option (Nat × Nat) :=
  let l := namers slots w
  let lasts := l.filter (fun e => e.2.2)
  match lasts with
  | [] => l.getLast?.map (fun e => (e.1, e.2.1))
  | [_] => ((l.dropWhile (fun e => !e.2.2)).drop 1).head?.map (fun e => (e.1, e.2.1))
  | _ :: e :: _ => some (e.1, e.2.1)

/-- Whether COMMIT_GROUP names a group that is ACTIVE on the channel (R366, R389). -/
def State.commitGroupActive (s : State) (c : Chan) : Bool :=
  (s.chan c).groups.any (fun g => g.id == s.ent (kUpd c 1) && g.state == .active)

/-- A channel uses its arrays only when both of its slots hold a cartridge that has authenticated to it (R33, R34; log entry 121). -/
def Channel.arraysUsable (h : Channel) : Bool := (h.slot 0).attached && (h.slot 1).attached

/-- The whole check of a program at load (R34, R239, R268, R366, R384, R389, R395): the program, or its first fault. Log entry
121. -/
def State.checkProgram (s : State) (c : Chan) (j : Job) : Except ProgramFault Program := do
  let h := s.chan c
  let a := j.addr
  let bad := fun (off : Nat) => (⟨0, 0, ⟨0x70, a, off, 0⟩⟩ : ProgramFault)
  let flags := h.nat (a + 2) 2
  let n := h.nat (a + 4) 4
  let micro := h.nat (a + 8) 2
  let step := h.nat (a + 16) 8
  let base := h.nat (a + 24) 8
  if h.nat a 2 ≠ 0x70 || !s.commitGroupActive c then throw (bad 0)
  if 2 ≤ flags || (flags = 1 && h.safety.noLag) then throw (bad 2)
  if n = 0 || 1048576 < n then throw (bad 4)
  if micro = 0 || 4096 < micro then throw (bad 8)
  if (h.bytes (a + 10) 6).any (· != 0#8) then throw (bad 10)
  let stepOk := if h.training.recordSinceSeed then step == h.lastStep + 1 || (flags == 1 && step == h.lastStep + 2) else true
  if step = 0 || !stepOk then throw (bad 16)
  if base % 256 ≠ 0 || !nameable base (256 * n) then throw (bad 24)
  if (h.bytes (a + 32) 96).any (· != 0#8) then throw (bad 32)
  match (List.range n).findSome? (h.slotFault base micro) with
  | some f => throw f
  | none =>
    let slots := (List.range n).map (h.slotRecord base)
    let slotErr := fun (q : Nat × Nat) (off : Nat) => (⟨q.1, q.2, ⟨0x71, base + 256 * q.1, 16 + 16 * q.2 + off, 0⟩⟩ : ProgramFault)
    let placed := fun (e : SlotEntry) => descAt e.desc 64 && h.nat e.desc 2 == 0x41
    let barred := if h.arraysUsable || s.mirror c then none
      else slots.zipIdx.findSome? (fun (q : List SlotEntry × Nat) => (q.1.findIdx? placed).map (fun i => (q.2, i)))
    match h.training.ids.findSome? (fun w => gradFault slots w), barred with
    | some q, _ => throw (slotErr q 13)
    | none, some q => throw (slotErr q 0)
    | none, none =>
      match slots.zipIdx.findSome? (fun (q : List SlotEntry × Nat) => (slotUnordered q.1).map (fun i => (q.2, i))) with
      | some q => throw (slotErr q 8)
      | none =>
        match slots.zipIdx.findSome? (fun (q : List SlotEntry × Nat) => q.1.zipIdx.findSome? (fun (e : SlotEntry × Nat) =>
            if descAt e.1.desc 64 then (h.stepFault step e.1.desc).map (fun t => (q.2, e.2, t)) else none)) with
        | some (slot, entry, t) => throw ⟨slot, entry, ⟨0x10, t, 48, 0⟩⟩
        | none => pure ⟨j.id, a, flags == 1, micro, step, slots, 0,
            List.replicate (slots.getD 0 []).length .idle, [], [], [], none,
            s.ent (odKey 0x8000 0x02) == 0⟩

/-- STEP_TAG_REFUSED (R395). -/
def State.raiseStepTag (s : State) (c : Chan) (t step : Nat) : State :=
  let tag := (s.chan c).nat (t + 48) 8
  (s.bump c (kSafe c 0x28)).raise c 0x0083 (leBytes 8 t ++ leBytes 4 tag ++ leBytes 4 step)

/-- A program is refused at load (R239, R421). -/
def State.refuseProgram (s : State) (c : Chan) (j : Job) (f : ProgramFault) : State :=
  let step := (s.chan c).nat (j.addr + 16) 8
  let s := s.raiseRefused c f.refused
  let s := if f.refused.descType = 0x10 then s.raiseStepTag c f.refused.addr step else s
  let s := s.onChan c (fun h => h.dropJob j.id)
  s.endOwner c j 1 (programResult0 1 f.slot f.entry (some f.refused)) f.refused.addr (some f.refused)

/-- Puts a checked program in place, with the step's progress and the watches it counts for (R240, R271); a step that was
aborted begins anew (R370). -/
def State.installProgram (s : State) (c : Chan) (j : Job) (p : Program) : State :=
  s.onChan c (fun h =>
    let h := h.setJob { j with phase := .program }
    let counts := ((List.range 256).map (fun i => (i, mget Watch.reset i h.training.watches))).filterMap (fun q =>
      if q.2.enabled then some (⟨p.step, q.1, q.2.tensorId, q.2.threshold, 0, false⟩ : SilenceCount) else none)
    { h with training := { h.training with program := some p,
                                           silence := h.training.silence.filter (fun q => q.step != p.step) ++ counts },
             coll := { h.coll with
                         steps := h.coll.steps.filter (fun q => q.step != p.step)
                           ++ [⟨p.step, false, p.tag, p.updateLag, false, [], [], [], []⟩],
                         phase := if h.coll.phase = 5 ∧ h.coll.phaseStep = p.step then 0 else h.coll.phase,
                         committedAtTop := if h.coll.committedAtTop = p.step then 0 else h.coll.committedAtTop } })

/-- PROGRAM_LOAD: loaded when no other program is, and when no rebuild of the safety net is due (R239, R240, R385). -/
def execProgramLoad (c : Chan) (job : Nat) (s : State) : Host.Outcome State Fault Refusal :=
  .next (s.withJob c job 0x70 (fun j =>
    let h := s.chan c
    if h.training.program.isSome || !h.safety.refreshFirst.isEmpty then
      s.onChan c (fun h => h.setJob { j with phase := .waiting })
    else match s.checkProgram c j with
      | .error f => s.refuseProgram c j f
      | .ok p => s.installProgram c j p))

/-- Types that an entry of a program may carry (R240). -/
def entryType (ty : Nat) : Bool := [0x20, 0x30, 0x32, 0x38, 0x41, 0x60].contains ty

/-- The gradient buffer of a weight is handed over and not wholly read (R250). -/
def Channel.bufferBusy (h : Channel) (w : Nat) : Bool := h.training.weights.any (fun q => q.id == w && q.handed.isSome)

/-! ### Completion of descriptors (R420, R250, R255) -/

/-- DESCRIPTOR_COMPLETE: a job whose work has ended completes (R240, R250, R420). -/
def execDescriptorComplete (c : Chan) (job : Nat) (s : State) : Host.Outcome State Fault Refusal :=
  .next (match (s.chan c).job job with
    | some j =>
      (match j.phase with
        | .ended r0 r1 =>
          s.completeJob c j r0 r1
        | _ => s)
    | none => s)

/-! ### The stash (R251 to R256, R221) -/

/-- Granules of the stash region. -/
def State.stashGranules (s : State) (c : Chan) : Nat := s.ent (kEng c 0x41) / 65536

/-- Granules that a tensor takes (R251). -/
def TensorDesc.granules (t : TensorDesc) : Nat := ceilDiv (t.storedRows * t.padded) 65536

/-- Whether granule `g` is held. -/
def Training.occupied (t : Training) (g : Nat) : Bool :=
  t.stash.any (fun k => !k.dropped && decide (k.first ≤ g) && decide (g < k.first + k.granules))

/-- The lowest run of `n` free granules among `total` (R253). -/
def Training.freeRun (t : Training) (total n : Nat) : Option Nat :=
  (List.range (total + 1 - n)).find? (fun g => decide (g + n ≤ total) && (List.range n).all (fun i => !t.occupied (g + i)))

/-- Sets STASH_HIGH_WATER to the most granules held (Table 8.8). -/
def State.stashHighWater (s : State) (c : Chan) : State :=
  let n := (s.chan c).training.granules
  if s.ent (kEng c 0x43) < n then s.setEnt (kEng c 0x43) n else s

/-- Copies the stored rows of a tensor from one place to packed rows at another (R251). -/
def Channel.packRows (h : Channel) (t : TensorDesc) (dst : Nat) : Channel :=
  (List.range t.storedRows).foldl (fun (g : Channel) sr => g.write (dst + sr * t.padded) (h.rowLines t sr)) h

/-- Copies packed rows back to a tensor of the same layout. -/
def Channel.unpackRows (h : Channel) (t : TensorDesc) (src : Nat) : Channel :=
  (List.range t.storedRows).foldl (fun (g : Channel) sr => g.write (t.data + sr * t.stride) (h.bytes (src + sr * t.padded) t.padded)) h

/-- Copies packed rows back into the other layout, element by element (R221). -/
def Channel.unpackSwapped (h : Channel) (src dst : TensorDesc) (at' : Nat) : Channel :=
  let packed := { src with data := at', stride := src.padded }
  (List.range dst.storedRows).foldl (fun (g : Channel) sr =>
    (List.range dst.rowLen).foldl (fun (g : Channel) i =>
      let q := dst.logical sr i
      let p := packed.stored q.1 q.2
      let d := dst.wideWrite sr i Fp.zero
      g.write d.1 ((h.bytes (packed.wideAddr p.1 p.2) dst.wideBytes) ++ d.2.drop dst.wideBytes)) g) h

/-- Loads the common fields of a stash descriptor (R12, R194, R252). -/
def Channel.loadStash (h : Channel) (env : LoadEnv) (j : Job) : Except Refused (TensorDesc × Nat × Nat × Bool) := do
  let a := j.addr
  let bad := fun (off : Nat) => (⟨0x38, a, off, 0⟩ : Refused)
  let dir := h.nat (a + 2) 1
  let flags := h.nat (a + 3) 1
  if h.nat a 2 ≠ 0x38 then throw (bad 0)
  if 1 < dir then throw (bad 2)
  let t ← h.loadTensor env 0x38 a 8 (h.nat (a + 8) 8) (dir == 1) onlyStore
  if t.format = 0x12 then throw (bad 8)
  pure (t, h.nat (a + 4) 4, dir, flags.testBit 0)

/-- The held or dropped tensor with a KEY. -/
def Training.key (t : Training) (key : Nat) : Option Stashed := t.stash.find? (fun k => k.key == key)

/-- Whether two tensors agree in the five fields of R254. -/
def TensorDesc.sameFive (a b : TensorDesc) : Bool :=
  a.data == b.data && a.format == b.format && a.layout == b.layout && a.rows == b.rows && a.cols == b.cols

/-- Types that a recompute descriptor may name (R254). -/
def recomputeType (ty : Nat) : Bool := [0x20, 0x30, 0x32, 0x41].contains ty

/-- Byte offsets at which a descriptor of a type, and of OP where its type has one, names a tensor it writes (R216, R254). -/
def writtenFields (ty op : Nat) : List Nat :=
  match ty with
  | 0x20 => [24]
  | 0x30 => if op = 1 then [16] else if op = 3 ∨ op = 5 then [16, 64] else [32]
  | 0x32 => [16]
  | 0x41 => [56]
  | _ => []

/-- Checks the recompute descriptor of a tensor that an OUT names: its first offence (R254). -/
def Channel.recomputeOffence (h : Channel) (t : TensorDesc) : Option Refused :=
  let a := t.recompute
  let bad := fun (off : Nat) => some (⟨0x39, a, off, 0⟩ : Refused)
  if a = 0 then none
  else if !descAt a 128 then some ⟨0x10, t.addr, 56, 0⟩
  else if h.nat a 2 ≠ 0x39 then bad 0
  else
    let n := h.nat (a + 2) 1
    if n = 0 ∨ 14 < n then bad 2
    else match (List.range n).find? (fun i =>
        let d := h.nat (a + 8 + 8 * i) 8
        !descAt d 64 || !recomputeType (h.nat d 2)) with
      | some i => bad (8 + 8 * i)
      | none =>
        let d := h.nat (a + 8 + 8 * (n - 1)) 8
        if (writtenFields (h.nat d 2) (h.nat (d + 2) 1)).any (fun off =>
            let w := h.nat (d + off) 8
            w != 0 && descAt w 128 && (h.tensorDesc w).sameFive t) then none
        else bad (8 + 8 * (n - 1))

/-- The copy of an OUT into a run of granules (R251, R253). -/
def State.stashCopy (s : State) (c : Chan) (j : Job) (t : TensorDesc) (key first : Nat) : State :=
  let base := s.ent (kEng c 0x40) + 65536 * first
  let s := s.storeReads c (fun w => t.touches w)
  let s := s.onChan c (fun h =>
    let h := h.packRows t base
    { h with training := { h.training with stash := h.training.stash ++ [⟨key, first, t.granules, false, t⟩] } })
  let s := s.stashHighWater c
  (s.perfAdd c 72 (t.storedRows * t.padded)).finishJob c j 0 0

/-- An OUT without room is dropped or stalls (R253). A stalled OUT has not started, so that the later forward entries of its slot wait
for it (R240). -/
def State.stashFull (s : State) (c : Chan) (j : Job) (t : TensorDesc) (key : Nat) : State :=
  if t.recompute ≠ 0 then
    let s := (s.markStarted c j).onTraining c (fun r => { r with stash := r.stash ++ [⟨key, 0, 0, true, t⟩] })
    (s.bump c (kEng c 0x0C)).finishJob c j 0 0
  else
    let s := s.onChan c (fun h => h.setJob { j with phase := .stalled key t.granules t })
    let s := s.bump c (kEng c 0x0B)
    let s := s.raise c 0x0040 (leBytes 4 key ++ leBytes 4 t.granules)
    s.checkStash c

/-- Loads and checks an OUT: its tensor and its KEY (R252, R254). -/
def Channel.loadOut (h : Channel) (env : LoadEnv) (j : Job) : Except Refused (TensorDesc × Nat) :=
  match h.loadStash env j with
  | .error r => .error r
  | .ok (t, key, _, _) =>
    if (h.training.key key).isSome then .error ⟨0x38, j.addr, 4, 0⟩
    else match h.recomputeOffence t with
      | some r => .error r
      | none => .ok (t, key)

/-- Whether the stash descriptor at an address is an IN (Table 8.7). -/
def Channel.isIn (h : Channel) (a : Nat) : Bool := h.nat (a + 2) 1 == 1

/-- A loaded OUT is taken up when its bank is ready: copied where a run is free, else dropped or stalled (R235, R253). -/
def State.takeOut (s : State) (c : Chan) (j : Job) (t : TensorDesc) (key : Nat) : State :=
  match (s.chan c).banksCheck j [t] with
  | .error r => s.refuseJob c j r
  | .ok true => s.holdJob c j (.stashOut t key) 0 (kEng c 0x08)
  | .ok false =>
    (match (s.chan c).training.freeRun (s.stashGranules c) t.granules with
      | some g => (s.markStarted c j).stashCopy c j t key g
      | none => s.stashFull c j t key)

/-- STASH_OUT (R251 to R255). -/
def execStashOut (c : Chan) (job : Nat) (s : State) : Host.Outcome State Fault Refusal :=
  .next (s.withJob c job 0x38 (fun j =>
    let h := s.chan c
    match j.phase with
    | .held (.stashOut t key) => s.takeOut c j t key
    | .held _ => s
    | _ =>
      if h.isIn j.addr then s
      else match h.loadOut (s.loadEnv c j) j with
        | .error r => s.refuseJob c j r
        | .ok (t, key) => s.takeOut c j t key))

/-- STASH_OUT_RESUME: the first stalled OUT for which a run is free (R253). -/
def execStashOutResume (c : Chan) (s : State) : Host.Outcome State Fault Refusal :=
  .next (
    let h := s.chan c
    if !h.runs then s
    else match h.jobs.findSome? (fun j => match j.phase with
        | .stalled key n t => (h.training.freeRun (s.stashGranules c) n).map (fun g => (j, key, g, t))
        | _ => none) with
      | some (j, key, g, t) => (s.markStarted c j).stashCopy c j t key g
      | none => s)

/-- Addresses of the descriptors of a recompute descriptor. -/
def Channel.recomputeList (h : Channel) (a : Nat) : List Nat :=
  (List.range (min 14 (h.nat (a + 2) 1))).map (fun i => h.nat (a + 8 + 8 * i) 8)

/-- The offence of an IN's destination against the tensor its OUT named (R252, R254). -/
def inOffence (k : Stashed) (t : TensorDesc) : Bool :=
  k.tensor.format != t.format || k.tensor.rows != t.rows || k.tensor.cols != t.cols
    || (t.blk.isSome && k.tensor.layout != t.layout) || (k.dropped && !k.tensor.sameFive t)

/-- Loads and checks an IN: its destination, its KEY and FREE (R252, R254). -/
def Channel.loadIn (h : Channel) (env : LoadEnv) (j : Job) : Except Refused (TensorDesc × Nat × Bool) :=
  match h.loadStash env j with
  | .error r => .error r
  | .ok (t, key, _, free) => (match h.training.key key with
    | none => .error ⟨0x38, j.addr, 4, 0⟩
    | some k => if inOffence k t then .error ⟨0x38, j.addr, 8, 0⟩ else .ok (t, key, free))

/-- The blocks of a tensor as they lie in memory, padding-only ones apart: how many, and how many have a scale other than 0x00
(R272). -/
def Channel.copiedBlocks (h : Channel) (t : TensorDesc) : Stats :=
  match t.blk with
  | none => Stats.none
  | some f =>
    let scales := (List.range t.storedRows).flatMap (fun sr => (List.range (ceilDiv t.rowLen 16)).map (fun b =>
      h.nat (t.lineAddr f sr b + (if f.six then 48 else 56) + b % f.blocksPerLine) 1))
    { Stats.none with blocks := scales.length, nonzero := (scales.filter (· != 0)).length }

/-- A started IN: its copy, or the recomputation of a tensor that was dropped (R251, R254, R221). -/
def State.stashBack (s : State) (c : Chan) (j : Job) (t : TensorDesc) (key : Nat) (free : Bool) : State :=
  match (s.chan c).training.key key with
  | none => s.refuseJob c j ⟨0x38, j.addr, 4, 0⟩
  | some k =>
    if k.dropped then s.onChan c (fun h => h.setJob { j with phase := .recomputing (h.recomputeList k.tensor.recompute) key free })
    else
      let base := s.ent (kEng c 0x40) + 65536 * k.first
      let s := s.countNearest c j [t]
      let s := s.onChan c (fun h =>
        let h := if k.tensor.layout = t.layout then h.unpackRows t base else h.unpackSwapped k.tensor t base
        if free then { h with training := { h.training with stash := h.training.stash.filter (fun q => q.key != key) } }
        else h)
      let s := s.countSilence c j t ((s.chan c).copiedBlocks t)
      (s.perfAdd c 73 (t.storedRows * t.padded)).finishJob c j 0 0

/-- STASH_IN (R252 to R254, R221). -/
def execStashIn (c : Chan) (job : Nat) (s : State) : Host.Outcome State Fault Refusal :=
  .next (s.withJob c job 0x38 (fun j =>
    let h := s.chan c
    let go := fun (t : TensorDesc) (key : Nat) (free : Bool) =>
      s.startHeld c j (.stashIn t key free) (fun s => s.stashBack c j t key free)
    match j.phase with
    | .held (.stashIn t key free) => go t key free
    | .held _ => s
    | _ =>
      if !h.isIn j.addr then s
      else match h.loadIn (s.loadEnv c j) j with
        | .error r => s.refuseJob c j r
        | .ok (t, key, free) => go t key free))

/-- RECOMPUTE_DESCRIPTOR: the next descriptor of a recomputation runs after the previous one has completed (R254). -/
def execRecomputeDescriptor (c : Chan) (job : Nat) (s : State) : Host.Outcome State Fault Refusal :=
  .next (match (s.chan c).job job with
    | some j =>
      (match j.phase with
        | .recomputing (a :: left) key free =>
          if (s.chan c).jobs.any (fun i => i.owner == .recompute j.id) || !(s.chan c).issues then s
          else s.onChan c (fun h => (h.setJob { j with phase := .recomputing left key free }).addJob (.recompute j.id) a (h.nat a 2))
        | _ => s)
    | none => s)

/-! ### NUMERICS_MODE and the silence watch (R271, R280, R283, R284) -/

/-- Whether a job executes: it has begun, and has not ended or been held back by a wait. -/
def Job.executing (j : Job) : Bool :=
  !j.unbegun && (match j.phase with
    | .begun => false
    | .building _ => false
    | _ => true)

/-- Whether NUMERICS_MODE may be written (R284): no program loaded, no descriptor executing, no gradient buffer handed over. -/
def Channel.numericsIdle (h : Channel) : Bool :=
  h.training.program.isNone && !h.jobs.any Job.executing && !h.training.weights.any (fun w => w.handed.isSome)

/-- Rebuilds every image bank from each parameter bank that holds a tag (R280). -/
def State.rebuildAll (s : State) (c : Chan) : State :=
  (s.chan c).training.ids.foldl (fun s i =>
    match (s.chan c).training.weights.find? (fun w => w.id == i) with
    | none => s
    | some w => ([w.held0, w.held1].filterMap id).foldl (fun s v => s.buildWeight c i v) s) s

/-- The accepted write of NUMERICS_MODE (R280, R283, R284). -/
def State.setNumerics (s : State) (c : Chan) (value : Nat) : State :=
  let old := s.ent (kEng c 0x10)
  let s := s.setEnt (kEng c 0x10) value
  let s := if old.testBit 0 && !value.testBit 0 then
      s.onChan c (fun h => { h with arrays := { h.arrays with
        layers := h.arrays.layers.map (fun l => { l with refreshed := none, projectNext := true }) } })
    else s
  if old.testBit 1 != value.testBit 1 then s.rebuildAll c else s

/-- A silence watch as its 16 bytes (Table 9.6). Log entry 57. -/
def Watch.bytes (w : Watch) : List Byte :=
  leBytes 4 w.tensorId ++ leBytes 2 w.threshold ++ leBytes 2 w.silent
    ++ leBytes 1 ((if w.enabled then 1 else 0) + (if w.reached then 2 else 0) + (if w.overflow then 4 else 0))
    ++ [0#8, 0#8, 0#8] ++ leBytes 4 w.lastStep

/-- A watch after a write of its 16 bytes (R271): RO fields are ignored, REACHED and OVERFLOW are W1C. -/
def Watch.written (w : Watch) (bs : List Byte) : Watch :=
  let tensor := leNat (bs.take 4)
  let status := ((bs.getD 8 0#8).toNat)
  let enabled := status.testBit 0
  let w' := { w with tensorId := tensor, threshold := leNat ((bs.drop 4).take 2), enabled := enabled,
                     reached := w.reached && !status.testBit 1, overflow := w.overflow && !status.testBit 2 }
  if tensor ≠ w.tensorId ∨ enabled ≠ w.enabled then { w' with silent := 0, reached := false, overflow := false } else w'

/-- The watches after a write of bytes at an offset of SILENCE_WATCHES; bytes outside the write are written as they read,
with zero in the W1C bits. -/
def Training.writeWatches (t : Training) (offset : Nat) (data : List Byte) : Training :=
  { t with watches := (List.range 256).foldl (fun m i =>
      if 16 * i < offset + data.length ∧ offset < 16 * i + 16 then
        let w := mget Watch.reset i m
        let base := w.bytes.set 8 (if w.enabled then 1#8 else 0#8)
        let bs := (List.range 16).map (fun k =>
          if offset ≤ 16 * i + k ∧ 16 * i + k < offset + data.length then data.getD (16 * i + k - offset) 0#8
          else base.getD k 0#8)
        mset Watch.reset i (w.written bs) m
      else m) t.watches }

/-- Reads SILENCE_WATCHES from an offset. -/
def Training.readWatches (t : Training) (offset n : Nat) : List Byte :=
  (List.range n).map (fun k => (mget Watch.reset ((offset + k) / 16) t.watches).bytes.getD ((offset + k) % 16) 0#8)

/-- THRESHOLD of a watch as a program has taken it, or SILENCE_DEFAULT (Table 9.6). -/
def State.watchThreshold (s : State) (c : Chan) (threshold : Nat) : Nat :=
  if threshold = 0 then s.ent (kEng c 0x12) else threshold

/-- The evaluation of one watch at the commit of a step, with TENSOR_ID and THRESHOLD as the step's program took them (R271, R273,
R274). Log entry 57. -/
def State.evaluateWatch (s : State) (c : Chan) (step : Nat) (q : SilenceCount) : State :=
  let w := mget Watch.reset q.watch (s.chan c).training.watches
  let put := fun (s : State) (w : Watch) =>
    s.onTraining c (fun t => { t with watches := mset Watch.reset q.watch { w with lastStep := step % 2 ^ 32 } t.watches })
  if q.blocks = 0 then put s w
  else if q.nonzero then put s { w with silent := 0 }
  else
    let n := min 65535 (w.silent + 1)
    let reached := decide (n ≠ w.silent) && n == s.watchThreshold c q.threshold
    let full := decide (n ≠ w.silent) && n == 65535
    let s := put s { w with silent := n, reached := w.reached || reached, overflow := w.overflow || full }
    let s := if reached then s.bump c (kEng c 0x14) else s
    if reached || full then
      s.raise c 0x0042 (leBytes 1 q.watch ++ leBytes 1 ((if reached then 2 else 0) + (if full then 4 else 0))
        ++ leBytes 4 q.tensorId ++ leBytes 8 step)
    else s

/-- Every watch that the step's program counts for is evaluated at the step's commit (R273). -/
def State.evaluateWatches (s : State) (c : Chan) (step : Nat) : State :=
  let counts := (s.chan c).training.silence.filter (fun q => q.step == step)
  let s := s.onChan c (fun h => { h with safety := { h.safety with watchesBefore := h.training.watches } })
  let s := counts.foldl (fun s q => s.evaluateWatch c step q) s
  s.onTraining c (fun t => { t with silence := t.silence.filter (fun q => q.step != step) })

end Sys2Proof.Machine
end

