-- ==== Sys2Proof/Machine/EngineCommands.lean ====
section
/-!
DEFINITION. The commands of the digital engines: product, transpose, row and raster descriptors, output tiles, and the
KA48 buffer commands (07 R209 to R225, 08 R244 to R250).
-/

namespace Sys2Proof.Machine

/-- PRODUCT_DESCRIPTOR: the descriptor is loaded and checked, and its output tiles are ready to be worked (R209 to R211). -/
def execProductDescriptor (c : Chan) (job : Nat) (s : State) : Host.Outcome State Fault Refusal :=
  .next (s.withJob c job 0x20 (fun j => s.beginProduct c j))

/-- ENGINE_TILE_COMPLETE: an engine finishes an output tile that is not done, and its drain writes it (R211, R212). -/
def execEngineTileComplete (c : Chan) (job tile : Nat) (s : State) : Host.Outcome State Fault Refusal :=
  .next (match (s.chan c).job job with
    | some j =>
      (match j.phase with
        | .product e => if tile < e.tileCount && !e.done.contains tile && (s.chan c).issues then s.endTile c j e tile else s
        | _ => s)
    | none => s)

/-- The job as it stands now. -/
def State.current (s : State) (c : Chan) (j : Job) : Job := ((s.chan c).job j.id).getD j

/-- A started transpose descriptor does its work (R215). -/
def State.transposeStarted (s : State) (c : Chan) (j : Job) (src dst : TensorDesc) : State :=
  let s := (s.countNearest c j [dst]).transpose c j (s.drawKeys c j dst) src dst
  s.finishJob c (s.current c j) 0 0

/-- TRANSPOSE_DESCRIPTOR (R200, R215, R244). -/
def execTransposeDescriptor (c : Chan) (job : Nat) (s : State) : Host.Outcome State Fault Refusal :=
  .next (s.withJob c job 0x32 (fun j =>
    let go := fun (src dst : TensorDesc) => s.startHeld c j (.transpose src dst) (fun s => s.transposeStarted c j src dst)
    match j.phase with
    | .held (.transpose src dst) => go src dst
    | .held _ => s
    | _ => (match (s.chan c).loadTranspose (s.loadEnv c j) j with
      | .error r => s.refuseJob c j r
      | .ok (src, dst) => go src dst)))

/-- The tensors that a row descriptor writes in a block format. -/
def RowExec.written (e : RowExec) : List TensorDesc :=
  if e.op = 1 ∨ e.op = 3 ∨ e.op = 5 then e.y.toList else e.dx.toList

/-- A started row descriptor does its work (R216, R217). -/
def State.rowStarted (s : State) (c : Chan) (j : Job) (e : RowExec) : State :=
  let s := (s.countNearest c j e.written).rowExecute c j e
  s.finishJob c (s.current c j) 0 0

/-- ROW_DESCRIPTOR (R200, R216, R217). -/
def execRowDescriptor (c : Chan) (job : Nat) (s : State) : Host.Outcome State Fault Refusal :=
  .next (s.withJob c job 0x30 (fun j =>
    let go := fun (e : RowExec) => s.startHeld c j (.row e) (fun s => s.rowStarted c j e)
    match j.phase with
    | .held (.row e) => go e
    | .held _ => s
    | _ => (match (s.chan c).loadRow (s.loadEnv c j) j with
      | .error r => s.refuseJob c j r
      | .ok e => go e)))

/-- A started raster descriptor does its work (R222 to R225). -/
def State.rasterStarted (s : State) (c : Chan) (j : Job) (e : RasterExec) : State :=
  let s := s.rasterExecute c j e
  s.finishJob c (s.current c j) 0 0

/-- RASTER_DESCRIPTOR (R200, R222 to R225). -/
def execRasterDescriptor (c : Chan) (job : Nat) (s : State) : Host.Outcome State Fault Refusal :=
  .next (s.withJob c job 0x60 (fun j =>
    let go := fun (e : RasterExec) => s.startHeld c j (.raster e) (fun s => s.rasterStarted c j e)
    match j.phase with
    | .held (.raster e) => go e
    | .held _ => s
    | _ => (match (s.chan c).loadRaster (s.loadEnv c j) j with
      | .error r => s.refuseJob c j r
      | .ok e => go e)))

/-! ### KA48 buffer commands (R94, R95, R246) -/

/-- Whether a burst address names a KA48 group in HBM (R193, R246). -/
def burstOk (a : Nat) : Bool := decide (a % 64 = 0) && inHbm a 64

/-- Address of value `i` of the group at `a` (R94). -/
def groupAddr (a i : Nat) : Nat := a + 6 * i

/-- The ten values of the group at `a`, as 48-bit words. -/
def Channel.group (h : Channel) (a : Nat) : List Nat := (List.range 10).map (fun i => h.nat (groupAddr a i) 6)

/-- Each masked value of the group becomes its sum with its increment (R95, R246, R278). -/
def Channel.accumulateGroup (h : Channel) (k2 : Bool) (a : Nat) (mask : BitVec 10) (incs : List Word) : Channel :=
  (List.range 10).foldl (fun (g : Channel) i =>
    if mask.getLsbD i then
      let old := Fp.decode ka48 (g.nat (groupAddr a i) 6)
      let inc := f32 (incs.getD i 0#32).toNat
      g.writeNat (groupAddr a i) 6 (Fp.encode ka48 (kaAdd k2 old inc).1)
    else g) h

/-- The status of each value of the group (R269, Table 9.5): the kind of an invalid sum or of a sum beyond range, 0 for none and for a
value outside the mask. -/
def Channel.groupStatus (h : Channel) (k2 : Bool) (a : Nat) (mask : BitVec 10) (incs : List Word) : List Nat :=
  (List.range 10).map (fun i =>
    if mask.getLsbD i then
      (kaAdd k2 (Fp.decode ka48 (h.nat (groupAddr a i) 6)) (f32 (incs.getD i 0#32).toNat)).2.getD 0
    else 0)

/-- Sets the ten values of the group to +0 (R246). -/
def Channel.clearGroup (h : Channel) (a : Nat) : Channel := { h with mem := memClear h.mem a 60 }

/-- ACCUMULATE_WRITE at the base die: each masked value becomes the sum of R95 (R246), a status for each value is returned (R269), and
the command is counted. -/
def execAccumulateWrite (c : Chan) (burst : Nat) (mask : BitVec 10) (increments : List Word) (s : State) :
    Host.Outcome State Fault Refusal :=
  if !burstOk burst then .fault .noSuchBurst
  else .next (if (s.chan c).up then
      ((s.onChan c (fun h => h.accumulateGroup (s.k2 c) burst mask increments)).countAccumulates c 1).emit
        (.accumulateStatus ((s.chan c).groupStatus (s.k2 c) burst mask increments))
    else s)

/-- READ_CLEAR: the ten values are returned and each becomes +0 (R246). -/
def execReadClear (c : Chan) (burst : Nat) (s : State) : Host.Outcome State Fault Refusal :=
  if !burstOk burst then .fault .noSuchBurst
  else .next (if (s.chan c).up then
      (s.onChan c (fun h => h.clearGroup burst)).emit (.readValues ((s.chan c).group burst))
    else s)

/-- CLEAR: every value of whole groups becomes +0 (R246). -/
def execClear (c : Chan) (addr length : Nat) (s : State) : Host.Outcome State Fault Refusal :=
  if addr % 64 ≠ 0 || length % 64 != 0 || !inHbm addr length then .fault .noSuchBurst
  else .next (if (s.chan c).up then
      s.onChan c (fun h => (List.range (length / 64)).foldl (fun (g : Channel) i => g.clearGroup (addr + 64 * i)) h)
    else s)

end Sys2Proof.Machine
end

