-- ==== Sys2Proof/Machine/Directory.lean ====
section
/-!
DEFINITION. The tile directory, physical tiles, spares and their takeovers, the program queue and the calibration queue
(04 R105, R117, R131 to R136; 05 R144 to R147, R151, R163 to R169; 06 R176, R183 to R185).
-/

namespace Sys2Proof.Machine

/-! ### Entries and physical tiles -/

/-- Entries of one slot (R131). -/
def slotEntries : Nat := 262144

/-- The spare entry of an entry's group (R131). -/
def spareOf (e : Nat) : Nat := 16 * (e / 16) + 15

/-- Whether an entry is a spare entry. -/
def isSpare (e : Nat) : Bool := e % 16 == 15

/-- An entry of a freshly bound cartridge at index `i` of its slot (R131, R171). -/
def homeEntry (i : Nat) : DirEntry := ⟨if i % 16 = 15 then .spare else .free, false, false, 0, i % 16, false⟩

/-- An entry of a slot without an authenticated cartridge (R133); its tile is that of a fresh attach (R131; log entry 124). -/
def absentEntry (i : Nat) : DirEntry := ⟨.free, false, false, 0, i % 16, false⟩

/-- The directory entry at a logical index (R131, R133). -/
def Channel.entry (h : Channel) (e : Nat) : DirEntry :=
  let y := h.slot (e / slotEntries)
  let i := e % slotEntries
  if y.attached then mget (homeEntry i) i y.dir else absentEntry i

/-- A slot with one entry replaced. -/
def SlotState.setEntry (y : SlotState) (i : Nat) (d : DirEntry) : SlotState :=
  { y with dir := mset (homeEntry i) i d y.dir }

/-- A channel with one entry replaced; a slot without an authenticated cartridge holds none (R133). -/
def Channel.setEntry (h : Channel) (e : Nat) (d : DirEntry) : Channel :=
  let side := e / slotEntries
  if (h.slot side).attached then h.setSlot side ((h.slot side).setEntry (e % slotEntries) d) else h

/-- The tile of a slot that an entry holds: die × 65,536 + die tile (R105, R131). -/
def Channel.tileOf (h : Channel) (e : Nat) : Nat := 16 * (e % slotEntries / 16) + (h.entry e).pos

/-- Programs of a tile since manufacture (R166, R171). -/
def SlotState.count (y : SlotState) (tile : Nat) : Nat :=
  (((Config.factoryCount y.cart tile % 17 : Nat) : Int) + mget 0 tile y.counts
    + (if tile % 16 = 15 then (y.homeParks : Int) else 0)).toNat

/-- Programs of the tile that an entry holds. -/
def Channel.entryCount (h : Channel) (e : Nat) : Nat := (h.slot (e / slotEntries)).count (h.tileOf e)

/-- The tile rating (R168). -/
def tileRating : Nat := 100000

/-- A spare entry that is free (Table 4.6). -/
def Channel.freeSpare (h : Channel) (s : Nat) : Bool := (h.entry s).state == .spare && decide (h.entryCount s ≤ 99998)

/-- A spare entry that is permanently unusable (Table 4.6). -/
def Channel.deadSpare (h : Channel) (s : Nat) : Bool :=
  (h.slot (s / slotEntries)).attached
    && ((h.entry s).state == .retired || (h.entry s).state == .frozen || decide (99998 < h.entryCount s))

/-- Changes the state of an entry (Table 4.6): the end of a calibration sets RELAPSE where the entry was suspect, and
programming clears it. -/
def DirEntry.toState (d : DirEntry) (st : TileState) : DirEntry :=
  match st with
  | .calibrating => { d with state := st, wasSuspect := d.state == .suspect }
  | .programmed =>
    if d.state = .calibrating then { d with state := st, relapse := d.relapse || d.wasSuspect, wasSuspect := false }
    else { d with state := st, relapse := false }
  | .free => { d with state := st, relapse := false, pairValid := false, pair := 0, wasSuspect := false }
  | _ => { d with state := st, wasSuspect := false }

/-- A channel with the state of one entry changed. -/
def Channel.toState (h : Channel) (e : Nat) (st : TileState) : Channel := h.setEntry e ((h.entry e).toState st)

/-- TILE_STATE_CHANGED (R117). -/
def State.raiseTile (s : State) (c : Chan) (e : Nat) (st : TileState) : State :=
  s.raise c 0x0030 (leBytes 4 e ++ leBytes 1 st.toNat)

/-- An entry becomes retired: RETIREMENTS advances (Table 5.7), and a retirement of Table 4.1 raises its event. -/
def State.retireEntry (s : State) (c : Chan) (e : Nat) (event : Bool) : State :=
  let s := (s.onChan c (fun h => h.toState e .retired)).bump c (kArr c 0x2F)
  if event then s.raiseTile c e .retired else s

/-- The arrays changed by a function. -/
def State.onArrays (s : State) (c : Chan) (f : Arrays → Arrays) : State :=
  s.onChan c (fun h => { h with arrays := f h.arrays })

/-- The registered layer whose tile list holds a data entry (R567). -/
def Channel.layerOf (h : Channel) (e : Nat) : Option Layer := h.arrays.layers.find? (fun l => l.tiles.contains e)

/-- The physical fields of a data entry and its spare entry are exchanged (R161, R164): the tiles, and with them what
belongs to the tiles. -/
def Channel.exchange (h : Channel) (d : Nat) : Channel :=
  let s := spareOf d
  let a := h.entry d
  let b := h.entry s
  (h.setEntry d { a with pos := b.pos }).setEntry s { b with pos := a.pos }

/-- The spare is engaged for a data entry (R159, R163): loading, with the PAIR fields of both. -/
def Channel.engage (h : Channel) (d : Nat) : Channel :=
  let s := spareOf d
  let h := h.setEntry s { ((h.entry s).toState .loading) with pairValid := true, pair := d % 16 }
  h.setEntry d { (h.entry d) with pairValid := true, pair := 15 }

/-- PAIR_VALID 0 in an entry. -/
def Channel.unpair (h : Channel) (e : Nat) : Channel := h.setEntry e { (h.entry e) with pairValid := false, pair := 0 }

/-- Whether a read resolved to tile `tile` of a side is active (R135). -/
def Channel.tileActive (h : Channel) (side tile : Nat) : Bool :=
  h.arrays.reads.any (fun r => match r.phase with
    | .active sd t _ _ _ => sd == side && t == tile
    | .waiting => false)

/-- Active reads of a side (R127). -/
def Channel.activeReads (h : Channel) (side : Nat) : Nat :=
  (h.arrays.reads.filter (fun r => match r.phase with
    | .active sd _ _ _ _ => sd == side
    | .waiting => false)).length

/-- Active tiles of a side: reads and calibrations (R127, R180). -/
def Channel.activeTiles (h : Channel) (side : Nat) : Nat :=
  h.activeReads side + (h.arrays.cals.filter (fun k => k.side == side)).length

/-- Throttle fraction of a slot (R465). -/
def Channel.slotFraction (h : Channel) (side : Nat) : Nat :=
  if side = 0 then h.power.slotThrottle0.f else h.power.slotThrottle1.f

/-- Whether one more tile of a side may become active (R127, R465). -/
def Channel.roomActive (h : Channel) (side : Nat) : Bool :=
  decide (h.activeTiles side < 320 * h.slotFraction side) && decide (h.activeTiles 0 + h.activeTiles 1 < 10240)

/-! ### The program queue (R146, R147, R166 to R169) -/

/-- Requests a program of the tile that `entry` holds. -/
def State.requestProgram (s : State) (c : Chan) (p : Purpose) (entry : Nat) (again : Bool) : State :=
  s.onChan c (fun h => { h with nextId := h.nextId + 1,
                                arrays := { h.arrays with progQueue := h.arrays.progQueue ++ [⟨h.nextId, p, entry, again⟩] } })

/-- Programs running on a side, and those of them on one die. -/
def Channel.progsOn (h : Channel) (side : Nat) (die : Option Nat) : Nat :=
  (h.arrays.progs.filter (fun p => p.entry / slotEntries == side && (match die with
    | some d => h.tileOf p.entry / 65536 == d
    | none => true))).length

/-- Whether a waiting program may start (R33, R135, R145, R146, R186, R465). -/
def Channel.progStartable (h : Channel) (p : TileProg) : Bool :=
  let side := p.entry / slotEntries
  let y := h.slot side
  let tile := h.tileOf p.entry
  h.issues && h.arraysUsable && h.power.cartSupply && decide (h.slotFraction side = 16)
    && decide (h.progsOn side none < 64) && decide (h.progsOn side (some (tile / 65536)) < 16)
    && !h.tileActive side tile && !h.arrays.cals.any (fun k => k.side == side && k.tile == tile)
    && (match p.purpose, y.sweep with
      | .first _ _, some n => decide (tile < n)
      | _, _ => true)

/-- The waiting program that starts next: class order, then order of request (R146). Log entry 58. -/
def Channel.nextProg (h : Channel) : Option TileProg :=
  [1, 2, 3, 4, 5].findSome? (fun k => h.arrays.progQueue.find? (fun p => p.purpose.cls == k && h.progStartable p))

/-- The cartridge rating (R169). -/
def cartridgeRating : Nat := 26214400000

/-- Percent and programs of each threshold of Table 5.6, by its bit of THRESHOLDS_PASSED. -/
def wearThresholds : List (Nat × Nat × Nat) := [(0, 80, 20971520000), (1, 95, 24903680000), (2, 100, 26214400000)]

/-- Programs of the cartridge since manufacture (R167). -/
def SlotState.ledgerTotal (y : SlotState) : Nat := Config.factoryTotal y.cart + y.total

/-- Number of a slot of channel `c`. -/
def slotNumber (c : Chan) (side : Nat) : Nat := 2 * c.val + side

/-- Raises WEAR_THRESHOLD for each threshold first reached and records it (R169). -/
def State.wearCheck (s : State) (c : Chan) (side : Nat) : State :=
  wearThresholds.foldl (fun s t =>
    let y := (s.chan c).slot side
    if t.2.2 ≤ y.ledgerTotal && !y.thresholds.testBit t.1 then
      (s.onChan c (fun h => h.setSlot side { y with thresholds := y.thresholds ||| 2 ^ t.1 })).raise c 0x0035
        (leBytes 1 (slotNumber c side) ++ leBytes 1 t.2.1 ++ leBytes 8 y.ledgerTotal)
    else s) s

/-- One program of a tile enters the ledger (R166, R167). -/
def State.countProgram (s : State) (c : Chan) (side tile : Nat) : State :=
  let s := s.onChan c (fun h =>
    let y := h.slot side
    h.setSlot side { y with counts := mset 0 tile (mget 0 tile y.counts + 1) y.counts,
                            total := y.total + 1, hourNow := y.hourNow + 1 })
  (s.bump c (kArr c 0x2D)).wearCheck c side

/-! ### Calibration queue (R176, R183, R185) -/

/-- |T − CAL_TEMP| of an entry, in 0.125 K; 0 without a cartridge temperature. -/
def Channel.calDrift (h : Channel) (e : Nat) : Nat :=
  let y := h.slot (e / slotEntries)
  match y.temp with
  | some t => (t - ((mget CalRecord.blank (h.tileOf e) y.cal).calTemp : Int)).natAbs
  | none => 0

/-- Whether a drift in 0.125 K exceeds CAL_TEMP_THRESHOLD. -/
def State.beyondThreshold (s : State) (c : Chan) (drift : Nat) : Bool :=
  Fp.gt (.fin false drift (-3)) (f32 (s.ent (kArr c 0x60)))

/-- Whether the tile that an entry holds is due (R176). -/
def State.calDue (s : State) (c : Chan) (e : Nat) : Bool :=
  let h := s.chan c
  let y := h.slot (e / slotEntries)
  y.attached && ((h.entry e).state == .suspect || (mget CalRecord.blank (h.tileOf e) y.cal).result == 0
    || s.beyondThreshold c (h.calDrift e))

/-- Whether a due entry takes part in calibration, and is not skipped (R183): a spare entry only in spare or suspect. -/
def Channel.calEligible (h : Channel) (e : Nat) : Bool :=
  match (h.entry e).state with
  | .loading => false
  | .calibrating => false
  | .retired => false
  | .spare => !(h.entry e).pairValid
  | .suspect => !(isSpare e && (h.entry e).pairValid)
  | .frozen => !isSpare e
  | .free => !isSpare e
  | .programmed => true

/-- Entries of a group in the order of R183: the spare entry first, then the data entries. -/
def groupOrder (g : Nat) : List Nat := (16 * g + 15) :: (List.range 15).map (fun i => 16 * g + i)

/-- Due entries of a group, in order. -/
def State.groupDue (s : State) (c : Chan) (g : Nat) : List Nat :=
  (groupOrder g).filter (fun e => s.calDue c e && (s.chan c).calEligible e
    && !(s.chan c).arrays.cals.any (fun k => k.entry == e))

/-- Key of the order of groups in R183: suspect groups first, then descending drift. -/
def Channel.groupKey (h : Channel) (due : List Nat) : Nat × Nat :=
  (if due.any (fun e => (h.entry e).state == .suspect) then 1 else 0, due.foldl (fun a e => max a (h.calDrift e)) 0)

/-- Inserts a group into the order of R183; ties keep ascending groups. -/
def insertGroup (k : (Nat × Nat) × List Nat) : List ((Nat × Nat) × List Nat) → List ((Nat × Nat) × List Nat)
  | [] => [k]
  | a :: l => if a.1.1 < k.1.1 ∨ (a.1.1 = k.1.1 ∧ a.1.2 < k.1.2) then k :: a :: l else a :: insertGroup k l

/-- Whether a queued entry is the first of its group in the calibration queue, so that its turn has come (R183). -/
def Channel.calFirst (h : Channel) (e : Nat) : Bool :=
  !(h.arrays.calQueue.takeWhile (fun q => q != e)).any (fun q => q / 16 == e / 16)

/-- A calibration of an entry needs a cover (R183). -/
def Channel.needsCover (h : Channel) (e : Nat) : Bool :=
  !isSpare e && ((h.entry e).state == .programmed || (h.entry e).state == .suspect)

/-- Calibrations and link recalibrations wait while a program is loaded under LIVE_SERVICE 0; a write of LIVE_SERVICE takes effect at
the next program load (R449, Table 15.7). Log entry 102. -/
def State.serviceWaits (s : State) (c : Chan) : Bool := (s.chan c).training.program.any (fun p => p.quiet)

/-- Takes up one entry of the calibration queue that needs a cover, when its turn has come: its cover program is requested, or its
calibration is deferred while the group's spare is not free (R163, R183, R185, Table 5.5). -/
def State.calTake (s : State) (c : Chan) (e : Nat) : State :=
  let h := s.chan c
  if s.serviceWaits c || !h.needsCover e || !h.calFirst e then s
  else
    let s := s.onArrays c (fun a => { a with calQueue := a.calQueue.filter (fun q => q != e) })
    if h.freeSpare (spareOf e) then (s.onChan c (fun h => h.engage e)).requestProgram c (.cover e) (spareOf e) false
    else s.bump c (kArr c 0x34)

/-- Takes up the entries of the calibration queue in order. Log entry 69. -/
def State.calPump (s : State) (c : Chan) : State :=
  (s.chan c).arrays.calQueue.foldl (fun s e => s.calTake c e) s

/-- Puts the due entries of one group into the calibration queue, in order (R182, R183, R185). Log entry 59. -/
def State.calGroup (s : State) (c : Chan) (g : Nat) : State :=
  if ((s.chan c).slot (16 * g / slotEntries)).sweep.isSome then s
  else
    let due := s.groupDue c g
    (s.onArrays c (fun a => { a with
      calQueue := a.calQueue.filter (fun e => e / 16 != g || ((s.chan c).entry e).state == .calibrating) ++ due })).calPump c

/-- The evaluation of R176 over one slot and the schedule of R183; a slot under its attach sweep is left to the sweep
(log entry 20). -/
def State.calEvaluate (s : State) (c : Chan) (side : Nat) : State :=
  let y := (s.chan c).slot side
  if !y.attached || y.sweep.isSome then s
  else
    let groups := (List.range 16384).filterMap (fun i =>
      let due := s.groupDue c (16384 * side + i)
      if due.isEmpty then none else some ((s.chan c).groupKey due, due))
    let order := (groups.foldl (fun l k => insertGroup k l) []).flatMap (fun k => k.2)
    let s := s.onArrays c (fun a => { a with
      calQueue := a.calQueue.filter (fun e => e / slotEntries != side || ((s.chan c).entry e).state == .calibrating) ++ order })
    s.calPump c

/-! ### Spares becoming free, retirements (R117, R147, R163, R164) -/

/-- Starts the retirement takeover of a data entry, makes it wait, or retires it at once (Table 4.1, R147, R164). -/
def State.retireStart (s : State) (c : Chan) (d : Nat) : State :=
  let h := s.chan c
  let sp := spareOf d
  if h.freeSpare sp then
    (s.onChan c (fun h => h.engage d)).requestProgram c (.retire d) sp false
  else if h.deadSpare sp then s.retireEntry c d ((h.entry d).state != .loading)
  else s.onArrays c (fun a => { a with retireWaits := if a.retireWaits.contains d then a.retireWaits else a.retireWaits ++ [d] })

/-- Counts one result of a layer's programming job (R421). -/
def State.countLayerJob (s : State) (c : Chan) (d programmed taken retired : Nat) : State :=
  match (s.chan c).layerOf d with
  | none => s
  | some l => s.onChan c (fun h => { h with jobs := h.jobs.map (fun j => match j.phase with
      | .programming i p t r => if i = l.id then { j with phase := .programming i (p + programmed) (t + taken) (r + retired) } else j
      | _ => j) })

/-- Ends a programming job when every listed entry has left loading (R150, R421). -/
def State.settleLayer (s : State) (c : Chan) (d : Nat) : State :=
  match (s.chan c).layerOf d with
  | none => s
  | some l =>
    if l.tiles.any (fun e => ((s.chan c).entry e).state == .loading) then s
    else match (s.chan c).jobs.find? (fun j => match j.phase with
        | .programming i _ _ _ => i == l.id
        | _ => false) with
      | some j =>
        (match j.phase with
          | .programming _ p t r => s.finishJob c j (p % 2 ^ 32 + t * 2 ^ 32) r
          | _ => s)
      | none => s

/-- Unregisters a layer whose entries are all released, and ends its release job (R151). -/
def State.settleRelease (s : State) (c : Chan) : State :=
  (s.chan c).jobs.foldl (fun s j => match j.phase with
    | .releasing id =>
      (match (s.chan c).arrays.layers.find? (fun l => l.id == id) with
        | some l =>
          if l.tiles.any (fun e => (s.chan c).arrays.releaseWaits.contains e) then s
          else (s.onArrays c (fun a => { a with layers := a.layers.filter (fun l => l.id != id) })).finishJob c j 0 0
        | none => s.finishJob c j 0 0)
    | _ => s) s

/-- An entry whose release waited goes to free (R151). -/
def State.releaseIfWaiting (s : State) (c : Chan) (e : Nat) : State :=
  if (s.chan c).arrays.releaseWaits.contains e then
    let s := s.onChan c (fun h =>
      let st := (h.entry e).state
      let h := if st = .retired then h else h.toState e .free
      { h with arrays := { h.arrays with releaseWaits := h.arrays.releaseWaits.filter (fun q => q != e) } })
    s.settleRelease c
  else s

/-- A data entry of a spare entry's group that waits for a retirement takeover, first come first. -/
def Channel.waitingRetire (h : Channel) (sp : Nat) : Option Nat := h.arrays.retireWaits.find? (fun d => d / 16 == sp / 16)

/-- What follows when a spare entry has become free or permanently unusable: the waiting retirement of its group, and
the deferred calibrations (R117, R185). Each turn deals with one waiting entry. -/
def State.spareSettled (s : State) (c : Chan) (sp : Nat) : State :=
  let go := fun (s : State) (_ : Nat) =>
    match (s.chan c).waitingRetire sp with
    | some d =>
      if (s.chan c).freeSpare sp || (s.chan c).deadSpare sp then
        let s := s.onArrays c (fun a => { a with retireWaits := a.retireWaits.filter (fun q => q != d) })
        let loading := ((s.chan c).entry d).state == .loading
        let dead := !(s.chan c).freeSpare sp
        let s := s.retireStart c d
        if loading && dead then (s.countLayerJob c d 0 0 1).settleLayer c d else s
      else s
    | none => s
  let s := (List.range 15).foldl go s
  s.calGroup c (sp / 16)

/-- A spare entry ends its loading: spare, then frozen at the tile rating (R136, R168). -/
def State.spareReady (s : State) (c : Chan) (sp : Nat) : State :=
  let s := s.onChan c (fun h => (h.toState sp .spare).unpair sp)
  let s := if tileRating ≤ (s.chan c).entryCount sp then s.onChan c (fun h => h.toState sp .frozen) else s
  s.spareSettled c sp

/-- Writes the cells and the header of the tile that an entry holds (Table 5.2, steps 3 to 6). -/
def Channel.writeHeader (h : Channel) (e : Nat) (gain : Half) (version : Byte) (ok : Bool) (cells : Map Int) : Channel :=
  let side := e / slotEntries
  let y := h.slot side
  h.setSlot side { y with headers := mset none (h.tileOf e) (some ⟨gain, version, ok⟩) y.headers,
                          cells := mset [] (h.tileOf e) cells y.cells }

/-- The header of the tile that an entry holds. -/
def Channel.header (h : Channel) (e : Nat) : Option TileHeader := mget none (h.tileOf e) (h.slot (e / slotEntries)).headers

/-- Freezes the data entry that a program brought to the tile rating (R168). -/
def State.freezeData (s : State) (c : Chan) (d : Nat) : State :=
  if ((s.chan c).entry d).state = .programmed ∧ tileRating ≤ (s.chan c).entryCount d then
    s.onChan c (fun h => h.toState d .frozen)
  else s

/-- Whether a spare entry in loading serves a calibrating data entry (Table 4.6). -/
def Channel.servesCover (h : Channel) (sp : Nat) : Bool :=
  (h.entry sp).state == .loading && (h.entry sp).pairValid && (h.entry (16 * (sp / 16) + (h.entry sp).pair)).state == .calibrating

/-- The directory effect of one fallback, by the entry that the read used (R117, Tables 4.1 and 4.6): a spare that serves a cover, or
whose cover has ended while the read went on, becomes suspect. -/
def State.fallbackEffect (s : State) (c : Chan) (e : Nat) (spare : Bool) : State :=
  let h := s.chan c
  if spare then
    let sp := spareOf e
    if h.servesCover sp then (s.onChan c (fun h => h.toState sp .suspect)).raiseTile c sp .suspect
    else if (h.entry sp).state = .spare then
      ((s.onChan c (fun h => h.toState sp .suspect)).raiseTile c sp .suspect).calGroup c (sp / 16)
    else s
  else
    let d := h.entry e
    match d.state with
    | .programmed =>
      if d.relapse then
        (match h.arrays.folds.find? (fun f => f.entry == e) with
          | some _ => s.onArrays c (fun a => { a with
              folds := a.folds.map (fun f => if f.entry = e then { f with retire := true } else f) })
          | none =>
            if (h.arrays.progQueue ++ h.arrays.progs).any (fun p => p.purpose == .retire e) then s
            else s.retireStart c e)
      else ((s.onChan c (fun h => h.setEntry e { (h.entry e) with state := .suspect })).raiseTile c e .suspect).calGroup c (e / 16)
    | _ => s

end Sys2Proof.Machine
end

