-- ==== Sys2Proof/Machine/Programming.lean ====
section
/-!
DEFINITION. Programming of layers and tiles, the low-rank factors and folds (05_array_programming.md R139 to R174).
-/

namespace Sys2Proof.Machine

/-! ### Scales and targets (R140 to R143) -/

/-- The smallest BF16 value that is at least `m` × 2^`e`, for `m` nonzero (R107, R141). -/
def bfCeil (m : Nat) (e : Int) : Fp :=
  let t := max (e + bitLen m - 8) (-133)
  if t ≤ e then (Fp.fin false m e).round bf16 .nearest
  else
    let sh := (t - e).toNat
    (Fp.fin false (ceilDiv m (2 ^ sh)) t).round bf16 .nearest

/-- c(n) of one output row (R141). -/
def rowScale (headroom : Fp) (ws : List Fp) : Fp :=
  let top := ws.foldl (fun a w => if w.isFinite then Fp.maxOf a w.abs else a) Fp.zero
  if top.isZero then Fp.one
  else match Fp.mulExact headroom top with
    | .fin _ m e => if m = 0 then Fp.one else bfCeil m e
    | _ => Fp.one

/-- round_half_even(64 × W ÷ c) before the clamp (R142); 0 for a W or c that is not finite. -/
def rawTarget (c w : Fp) : Int :=
  match c, w with
  | .fin _ mc ec, .fin n mw ew =>
    if mc = 0 then 0
    else
      let d := ew - ec + 6
      let r := if 0 ≤ d then roundHalfEven ((mw * 2 ^ d.toNat : Nat) : Int) mc
        else roundHalfEven ((mw : Nat) : Int) (mc * 2 ^ (-d).toNat)
      if n then -r else r
  | _, _ => 0

/-- The target of one weight, and whether it was clamped (R142). -/
def target (c w : Fp) : Int × Bool :=
  let r := rawTarget c w
  (max (-64) (min 64 r), decide (64 < r.natAbs))

/-- Bytes of one row of the basis image (R143). -/
def basisRow (k : Nat) : Nat := 64 * ceilDiv k 64

/-- The signed byte at an address. -/
def Channel.signedByte (h : Channel) (a : Nat) : Int := (h.byte a).toInt

/-- The target of weight (n, k) in the basis image; none for an invalid byte (R143). -/
def Channel.basisTarget (h : Channel) (l : Layer) (n k : Nat) : Option Int :=
  let v := h.signedByte (l.basis + n * basisRow l.k + k)
  if v.natAbs ≤ 64 then some v else none

/-- c(n) of a layer. -/
def Channel.scaleAt (h : Channel) (l : Layer) (n : Nat) : Fp := b16 (h.nat (l.scaleAddr + 2 * n) 2)

/-- c × m ÷ 64 (R140). -/
def w0Of (c : Fp) (m : Int) : Fp := toF32 (Fp.mulExact c (.fin (decide (m < 0)) m.natAbs (-6)))

/-- Tiles along the input dimension (R118). -/
def Layer.p (l : Layer) : Nat := ceilDiv l.k 256

/-- Place of a data entry in the tile list. -/
def Layer.place (l : Layer) (d : Nat) : Nat := l.tiles.findIdx (fun e => e == d)

/-- First input and first output that a data entry covers (R118). -/
def Layer.origin (l : Layer) (d : Nat) : Nat × Nat := (256 * (l.place d % l.p), 256 * (l.place d / l.p))

/-- Check gain K_t of targets m(i, j) of a tile (R107). -/
def checkGain (m : Nat → Nat → Int) : Half :=
  let sums := (List.range 256).map (fun i => (((List.range 256).map (m i)).foldl (· + ·) 0).natAbs)
  let top := sums.foldl max 0
  let g := if top ≤ 64 then Fp.one else bfCeil top (-6)
  BitVec.ofNat 16 (Fp.encode bf16 g)

/-- The cells of a tile whose row i and column j has the target m(i, j) (R144). -/
def cellMap (m : Nat → Nat → Int) : Map Int :=
  (List.range 65536).filterMap (fun k => let v := m (k / 256) (k % 256); if v = 0 then none else some (k, v))

/-- The targets that a cover or takeover of a data entry programs: those of the basis image, an invalid byte as 0 (R143,
R163). -/
def Channel.tileTargets (h : Channel) (l : Layer) (d i j : Nat) : Int :=
  let o := l.origin d
  if l.k ≤ o.1 + i ∨ l.n ≤ o.2 + j then 0 else (h.basisTarget l (o.2 + j) (o.1 + i)).getD 0

/-- Records invalid operations of one kind at weights (n, k) of a layer in its parameter tensor's record, if it has one (R141, R143,
R205 to R207). The event of EVENT_ON_INVALID comes at the end of the descriptor execution whose job is given, and at once where the
work belongs to none. -/
def State.recordWeights (s : State) (c : Chan) (job : Option Nat) (t : TensorDesc) (kind : Nat) (at' : List (Nat × Nat)) : State :=
  if at'.isEmpty then s
  else
    let st := at'.foldl (fun st p => st.merge t.cols (Stats.ofInvalid ⟨kind, p.1, p.2, 0xFFFFFFFF⟩)) Stats.none
    let s := s.mergeStats c t st
    match job, st.first with
    | some id, _ => s.onChan c (fun h => match h.job id with
      | some j => h.setJob (j.noteInvalid t st)
      | none => h)
    | none, some i => if t.status ≠ 0 && t.eventOnInvalid then s.raise c 0x0003 (leBytes 8 t.addr ++ leBytes 6 (i.row * t.cols + i.col))
      else s
    | none, none => s

/-- Weights (n, k) of a tile that lie within the layer. -/
def Layer.tileCells (l : Layer) (d : Nat) : List (Nat × Nat) :=
  let o := l.origin d
  (List.range (min 256 (l.n - o.2))).flatMap (fun j => (List.range (min 256 (l.k - o.1))).map (fun i => (o.2 + j, o.1 + i)))

/-- Records the invalid basis bytes that a cover or takeover of a data entry reads (R143). -/
def State.recordBasis (s : State) (c : Chan) (d : Nat) : State :=
  match (s.chan c).layerOf d with
  | none => s
  | some l => s.recordWeights c none l.param 0x07
      ((l.tileCells d).filter (fun q => ((s.chan c).basisTarget l q.1 q.2).isNone))

/-! ### The program descriptor (R148 to R151) -/

/-- Reads a tile list (R118), each entry whole, so that one that names no tile is seen (R129). -/
def Channel.tileList (h : Channel) (a n : Nat) : List Nat := (List.range n).map (fun i => h.nat (a + 4 * i) 4)

/-- Whether a tile list meets the conditions of R118 and R129. -/
def tilesOk (tiles : List Nat) (p : Nat) : Bool :=
  tiles.all (fun e => decide (e < 2 * slotEntries) && e % 16 != 15)
    && tiles.zipIdx.all (fun q => q.1 / slotEntries == (tiles.getD (q.2 / p * p) 0) / slotEntries)

/-- Whether a list names one entry twice. -/
def hasTwin : List Nat → Bool
  | [] => false
  | a :: l => l.contains a || hasTwin l

/-- Bytes of the area of factor A or B: `n` rows of `k` BF16 values (R155). -/
def factorArea (n k : Nat) : Nat := n * (64 * ceilDiv k 32)

/-- Bytes of a factor bank (R155). -/
def bankBytes (n k r : Nat) : Nat := factorArea n r + factorArea r k

/-- An accepted program descriptor. -/
structure ProgramExec where
  layer : Layer
  headroom : Fp
  deriving DecidableEq, Repr

/-- Loads a program descriptor without RELEASE (R12, R129, R148, R149). Log entry 62. -/
def State.loadProgramDesc (s : State) (c : Chan) (j : Job) : Except Refused ProgramExec := do
  let h := s.chan c
  let env := s.loadEnv c j
  let a := j.addr
  let bad := fun (off : Nat) => (⟨0x50, a, off, 0⟩ : Refused)
  let flags := h.nat (a + 2) 2
  let k := h.nat (a + 4) 4
  let n := h.nat (a + 8) 4
  let hr := h.nat (a + 12) 4
  let p := ceilDiv k 256
  let q := ceilDiv n 256
  if h.nat a 2 ≠ 0x50 then throw (bad 0)
  if k = 0 || 65536 < k then throw (bad 4)
  if n = 0 || 262144 < n then throw (bad 8)
  if hr ≠ 0 && !(Fp.le Fp.one (f32 hr) && Fp.le (f32 hr) (Fp.ofInt 4)) then throw (bad 12)
  let la := h.nat (a + 16) 8
  if la % 64 ≠ 0 || !nameable la (4 * p * q) then throw (bad 16)
  let tiles := h.tileList la (p * q)
  if !tilesOk tiles p || hasTwin tiles || tiles.any (fun e => (h.entry e).state != .free
      || decide (tileRating ≤ h.entryCount e) || !(h.slot (e / slotEntries)).attached) then throw (bad 16)
  let sc := h.nat (a + 24) 8
  if sc % 64 ≠ 0 || !hbmFree sc (2 * n) then throw (bad 24)
  let param ← h.loadTensor env 0x50 a 32 (h.nat (a + 32) 8) false anywhere
  if param.rows ≠ n || param.cols != k || param.format == 0x12 then throw (bad 32)
  let snap ← h.loadTensor env 0x50 a 40 (h.nat (a + 40) 8) true anywhere
  if snap.format ≠ 0 || snap.layout != 0 || snap.rows != n || snap.cols != k then throw (bad 40)
  let basis := h.nat (a + 48) 8
  if basis % 64 ≠ 0 || !hbmFree basis (n * basisRow k) then throw (bad 48)
  let rank := h.nat (a + 72) 1
  let factors := h.nat (a + 56) 8
  if factors % 64 ≠ 0 || !hbmFree factors (2 * bankBytes n k rank) then throw (bad 56)
  if 65536 ≤ h.nat (a + 64) 8 then throw (bad 64)
  if (rank ≠ 0 && (rank < 8 || 64 < rank)) || (rank != 0 && s.ent (kArr c 0x53) == 0) then throw (bad 72)
  let id := h.nat (a + 74) 2
  if 4096 ≤ id || h.arrays.layers.any (fun l => l.id == id) then throw (bad 74)
  pure ⟨⟨id, k, n, tiles, sc, param, snap, basis, factors, rank, flags.testBit 1,
    BitVec.ofNat 16 (h.nat (a + 64) 8), some (BitVec.ofNat 16 (h.nat (a + 64) 8)), true, none⟩,
    if hr = 0 then .fin false 5 (-2) else f32 hr⟩

/-- The scales of a layer as they are programmed (R141). -/
def Channel.newScales (h : Channel) (k2 : Bool) (e : ProgramExec) : List Fp :=
  (List.range e.layer.n).map (fun n =>
    rowScale e.headroom ((List.range e.layer.k).map (fun k => (h.elem k2 e.layer.param n k).value)))

/-- One row of the basis image, padded with zeros (R143). -/
def basisBytes (k : Nat) (ms : List Int) : List Byte :=
  ms.map (fun m => BitVec.ofInt 8 m) ++ List.replicate (basisRow k - ms.length) 0#8

/-- Step 1 and 2 of R150: scales, basis image, snapshot image and zero factors are written. The snapshot is converted to nearest under
the K3 rules, also in emulation and with STOCHASTIC set (R150, R259, R275). -/
def State.writeViews (s : State) (c : Chan) (j : Job) (e : ProgramExec) : State :=
  let h := s.chan c
  let k2 := s.k2 c
  let l := e.layer
  let cs := h.newScales k2 e
  let w := fun (n k : Nat) => (h.elem k2 l.param n k).value
  let m := fun (n k : Nat) => (target (cs.getD n Fp.one) (w n k)).1
  let g := h.write l.scaleAddr (cs.flatMap (fun v => leBytes 2 (Fp.encode bf16 v)))
  let g := (List.range l.n).foldl (fun (g : Channel) n =>
    g.write (l.basis + n * basisRow l.k) (basisBytes l.k ((List.range l.k).map (m n)))) g
  let g := { g with mem := memClear g.mem l.factors (2 * bankBytes l.n l.k l.rank) }
  let bad := (List.range l.n).flatMap (fun n => ((List.range l.k).filter (fun k => !(w n k).isFinite)).map (fun k => (n, k)))
  let s := s.setChan c g
  let snap := { l.snapshot with flags := l.snapshot.flags / 2 * 2 }
  let s := s.writeTensorAs false c j snap ⟨0, 0, 0, 0⟩ (fun n k => w0Of (cs.getD n Fp.one) (m n k)) (fun _ _ => false) Stats.none
  let s := s.storeReads c (fun x => l.param.touches x)
  s.recordWeights c (some j.id) l.param 0x03 bad

/-- PROGRAM_DESCRIPTOR: the layer is registered, its views are written and its tiles wait to be programmed (R148 to
R150). -/
def execProgramDescriptor (c : Chan) (job : Nat) (s : State) : Host.Outcome State Fault Refusal :=
  .next (s.withJob c job 0x50 (fun j =>
    if (s.chan c).releases j.addr then s
    else match s.loadProgramDesc c j with
      | .error r => s.refuseJob c j r
      | .ok e =>
        let s := s.writeViews c j e
        let s := s.onArrays c (fun a => { a with layers := a.layers ++ [e.layer] })
        let s := s.onChan c (fun h => h.setJob { ((h.job j.id).getD j) with phase := .programming e.layer.id 0 0 0 })
        e.layer.tiles.foldl (fun s d =>
          (s.onChan c (fun h => h.toState d .loading)).requestProgram c (.first d e.layer.id) d false) s))

/-- Cancels a fold: it leaves the table, and its spare's tile is parked (Table 5.5). A program of the fold that already runs
is parked when it ends. -/
def State.cancelFold (s : State) (c : Chan) (f : Fold) : State :=
  let sp := spareOf f.entry
  let running := (s.chan c).arrays.progs.any (fun p => p.entry == sp)
  let s := s.onArrays c (fun a => { a with
    folds := a.folds.filter (fun g => g.index != f.index),
    progQueue := a.progQueue.filter (fun p => p.entry != sp) })
  let s := s.onChan c (fun h => h.unpair f.entry)
  if running then s else s.requestProgram c .park sp false

/-- Releases one entry of a layer (R151): at once, or when its calibration or its program ends. Log entry 58. -/
def State.releaseEntry (s : State) (c : Chan) (d : Nat) : State :=
  match ((s.chan c).entry d).state with
  | .programmed => s.onChan c (fun h => h.toState d .free)
  | .suspect => s.onChan c (fun h => h.toState d .free)
  | .frozen => s.onChan c (fun h => h.toState d .free)
  | .calibrating => s.onArrays c (fun a => { a with releaseWaits := a.releaseWaits ++ [d] })
  | .loading => s.onArrays c (fun a => { a with releaseWaits := a.releaseWaits ++ [d] })
  | _ => s

/-- Address of the staging area of fold `j` (R158). Log entry 62. -/
def State.stagingAddr (s : State) (c : Chan) (j : Nat) : Nat := s.ent (kArr c 0x53) + 65536 * j

/-- The staged target of input row `i` and output column `o` of a fold; none for an invalid byte (R143, R158). -/
def Channel.staged (h : Channel) (base i o : Nat) : Option Int :=
  let v := h.signedByte (base + 256 * i + o)
  if v.natAbs ≤ 64 then some v else none

/-- The staged targets as a fold's program writes them: an invalid byte as 0, as in a cover (R143; log entry 122). -/
def Channel.stagedCells (h : Channel) (base i o : Nat) : Int := (h.staged base i o).getD 0

/-! ### Refresh of the factors (R152 to R156, R160) -/

/-- The parameter tensor that a refresh of version `v` reads (R234). -/
def Channel.refreshParam (h : Channel) (l : Layer) (v : Half) : TensorDesc :=
  match h.training.weights.find? (fun w => w.arrayLayer == l.id) with
  | some w => if v.toNat % 2 = 0 then w.param0 else w.param1
  | none => l.param

/-- Address of row `i` of factor A in bank `j` (R155). -/
def Layer.aRow (l : Layer) (j i : Nat) : Nat := l.factors + j * bankBytes l.n l.k l.rank + i * (64 * ceilDiv l.rank 32)

/-- Address of row `i` of factor B in bank `j` (R155). -/
def Layer.bRow (l : Layer) (j i : Nat) : Nat :=
  l.factors + j * bankBytes l.n l.k l.rank + factorArea l.n l.rank + i * (64 * ceilDiv l.k 32)

/-- W₀ of a target, NaN for an invalid byte (R140, R143). -/
def w0At (c : Fp) : Option Int → Fp
  | some m => w0Of c m
  | none => .nan

/-- W₀ of one weight during a refresh: a ready fold's target stands in for the basis (R153, R160); NaN for an invalid
byte of either (R143). -/
def State.refreshW0 (s : State) (c : Chan) (l : Layer) (n k : Nat) : Fp :=
  let h := s.chan c
  let d := l.tiles.getD (n / 256 * l.p + k / 256) 0
  match h.arrays.folds.find? (fun f => f.entry == d && f.ready) with
  | some f => w0At (h.scaleAt l n) (h.staged (s.stagingAddr c f.index) (k % 256) (n % 256))
  | none => w0At (h.scaleAt l n) (h.basisTarget l n k)

/-- One entry of the projection matrix (R153, Table 9.2). -/
def State.omega (s : State) (c : Chan) (param : TensorDesc) (step k i : Nat) : Fp :=
  let u := draw (s.ent (kEng c 0x11)) step param.tensorId (k * 64 + i) 0x2000
  if u.testBit 31 then Fp.ofInt (-1) else Fp.one

/-- Modified Gram-Schmidt over the columns of y, each a list over n (R153). -/
def gramSchmidt : List (List Fp) → List (List Fp) → List (List Fp)
  | done, [] => done
  | done, y :: ys =>
    let z := done.foldl (fun y a =>
      let p := sum32 ((a.zip y).map (fun q => mul32 q.1 q.2))
      (y.zip a).map (fun q => sub32 q.1 (mul32 p q.2))) y
    let nrm := sqrt32 (sum32 (z.map (fun v => mul32 v v)))
    let col := z.map (fun v => if nrm.isZero then Fp.zero else div32 v nrm)
    gramSchmidt (done ++ [col]) ys

/-- ρ of a tile from E = D − AB (R154). -/
def residual (cells : List (Nat × Nat)) (e : Nat → Nat → Fp) (scale : Nat → Fp) : Fp :=
  let qs := cells.map (fun q => let v := div32 (e q.1 q.2) (scale q.1); mul32 v v)
  sqrt32 (div32 (sum32 qs) (Fp.ofInt cells.length))

/-- Refreshes one layer for a version: the bank written, the residuals of its tiles (R153, R154). -/
def State.refreshLayer (s : State) (c : Chan) (l : Layer) (v : Half) (step : Nat) : State :=
  let h := s.chan c
  let k2 := s.k2 c
  let param := h.refreshParam l v
  let full := l.projectNext || step % s.ent (kArr c 0x51) == 0
  let w := fun (n k : Nat) => (h.elem k2 param n k).value
  let d := fun (n k : Nat) => sub32 (w n k) (s.refreshW0 c l n k)
  let ns := List.range l.n
  let ks := List.range l.k
  let old := (v.toNat + 1) % 2
  let cols := if full then
      gramSchmidt [] ((List.range l.rank).map (fun i => ns.map (fun n =>
        sum32 (ks.map (fun k => mul32 (d n k) (s.omega c param step k i))))))
    else (List.range l.rank).map (fun i => ns.map (fun n => b16 (h.nat (l.aRow old n + 2 * i) 2)))
  let a := fun (n i : Nat) => (cols.getD i []).getD n Fp.zero
  let b := fun (i k : Nat) => sum32 (ns.map (fun n => mul32 (a n i) (d n k)))
  let ab := fun (n i : Nat) => toBf (a n i)
  let bb := fun (i k : Nat) => toBf (b i k)
  let j := v.toNat % 2
  let e := fun (n k : Nat) => sub32 (d n k) (sum32 ((List.range l.rank).map (fun i => mul32 (ab n i) (bb i k))))
  let rho := l.tiles.map (fun t => (t, residual (l.tileCells t) e (fun n => h.scaleAt l n)))
  let bad := ns.flatMap (fun n => (ks.filter (fun k => (s.refreshW0 c l n k).isNan)).map (fun k => (n, k)))
  let g := ns.foldl (fun (g : Channel) n => (List.range l.rank).foldl (fun (g : Channel) i =>
    g.writeNat (l.aRow j n + 2 * i) 2 (Fp.encode bf16 (ab n i))) g) h
  let g := (List.range l.rank).foldl (fun (g : Channel) i => ks.foldl (fun (g : Channel) k =>
    g.writeNat (l.bRow j i + 2 * k) 2 (Fp.encode bf16 (bb i k))) g) g
  let s := (s.setChan c g).storeReads c (fun x => param.touches x)
  let s := s.recordWeights c none l.param 0x07 bad
  s.onArrays c (fun r =>
    let layers := r.layers.map (fun q => if q.id = l.id then { q with refreshed := some v, projectNext := false } else q)
    { r with
      layers := layers,
      folds := r.folds.map (fun f => if f.layer = l.id ∧ f.ready ∧ f.switch = none then { f with switch := some v } else f),
      residuals := rho.foldl (fun m q => mset 0 q.1 (w32 q.2) m) r.residuals })

/-! ### Selection and staging of folds (R157 to R159) -/

/-- Inserts a candidate by falling residual, ties by ascending entry (R157). -/
def insertFold (k : Fp × Nat) : List (Fp × Nat) → List (Fp × Nat)
  | [] => [k]
  | a :: l => if Fp.gt k.1 a.1 || (!Fp.gt a.1 k.1 && decide (k.2 < a.2)) then k :: a :: l else a :: insertFold k l

/-- The lowest free place of the fold table (R158). -/
def Arrays.freeFold (a : Arrays) : Option Nat := (List.range 4096).find? (fun j => !a.folds.any (fun f => f.index == j))

/-- Stages the fold of a data entry from version `v` at place `i` of the fold table (R159). -/
def State.stageFold (s : State) (c : Chan) (l : Layer) (d i : Nat) (v : Half) : State :=
  let h := s.chan c
  let k2 := s.k2 c
  let param := h.refreshParam l v
  let base := s.stagingAddr c i
  let o := l.origin d
  let w := fun (n k : Nat) => (h.elem k2 param n k).value
  let t := fun (i j : Nat) => if l.k ≤ o.1 + i ∨ l.n ≤ o.2 + j then ((0 : Int), false)
    else target (h.scaleAt l (o.2 + j)) (w (o.2 + j) (o.1 + i))
  let cells := l.tileCells d
  let clamps := (cells.filter (fun q => (t (q.2 - o.1) (q.1 - o.2)).2)).length
  let bad := cells.filter (fun q => !(w q.1 q.2).isFinite)
  let s := s.onChan c (fun h => (List.range 256).foldl (fun (g : Channel) r =>
    g.write (base + 256 * r) ((List.range 256).map (fun j => BitVec.ofInt 8 (t r j).1))) h)
  let s := (s.bumpBy c (kArr c 0x2C) clamps).recordWeights c none l.param 0x03 bad
  let s := s.onChan c (fun h => h.engage d)
  let s := s.onArrays c (fun a => { a with folds := a.folds ++ [⟨i, d, l.id, false, v, none, false⟩] })
  s.requestProgram c (.fold i) (spareOf d) false

/-- The fold selection that follows the refreshes of a version (R157). -/
def State.selectFolds (s : State) (c : Chan) (v : Half) : State :=
  let a := (s.chan c).arrays
  let cands := (a.layers.filter (fun l => decide (0 < l.rank) && !l.frozen)).flatMap (fun l =>
    (l.tiles.filter (fun d =>
      let st := ((s.chan c).entry d).state
      (st == .programmed || st == .suspect) && !a.folds.any (fun f => f.entry == d)
        && Fp.gt (f32 (mget 0 d a.residuals)) (f32 (s.ent (kArr c 0x50))))).map (fun d => (f32 (mget 0 d a.residuals), d)))
  let order := cands.foldl (fun l k => insertFold k l) []
  let r := order.foldl (fun (q : State × Nat) k =>
    if q.2 = 0 then q
    else
      let s := q.1
      let h := s.chan c
      let sp := spareOf k.2
      let y := h.slot (sp / slotEntries)
      if (h.entry sp).state ≠ .spare || (h.entry sp).pairValid || decide (99998 < h.entryCount sp)
          || decide (cartridgeRating ≤ y.ledgerTotal) then (s.bump c (kArr c 0x2B), q.2)
      else match h.arrays.freeFold, h.layerOf k.2 with
        | some i, some l => (s.stageFold c l k.2 i v, q.2 - 1)
        | _, _ => (s.bump c (kArr c 0x2B), q.2)) (s, s.ent (kArr c 0x52))
  r.1.onArrays c (fun a => { a with residuals := [] })

/-! ### Release of layers (R151) -/

/-- PROGRAM_RELEASE: folds are cancelled, the tiles go to free and the layer is unregistered (R151). Where its refresh was the last one
outstanding, the folds of the version are selected (R157). -/
def execProgramRelease (c : Chan) (job : Nat) (s : State) : Host.Outcome State Fault Refusal :=
  .next (s.withJob c job 0x50 (fun j =>
    let h := s.chan c
    let bad := fun (off : Nat) => (⟨0x50, j.addr, off, 0⟩ : Refused)
    if !h.releases j.addr then s
    else if h.nat j.addr 2 ≠ 0x50 then s.refuseJob c j (bad 0)
    else if 4096 ≤ h.nat (j.addr + 74) 2 then s.refuseJob c j (bad 74)
    else
      let id := h.nat (j.addr + 74) 2
      match h.arrays.layers.find? (fun l => l.id == id) with
      | none => s.finishJob c j 0 0
      | some l =>
        let s := (h.arrays.folds.filter (fun f => f.layer == id)).foldl (fun s f => s.cancelFold c f) s
        let s := l.tiles.foldl (fun s d => s.releaseEntry c d) s
        let s := s.onArrays c (fun a => { a with
          retireWaits := a.retireWaits.filter (fun d => !l.tiles.contains d || a.releaseWaits.contains d),
          calQueue := a.calQueue.filter (fun d => !l.tiles.contains d || a.releaseWaits.contains d),
          refreshLeft := a.refreshLeft.filter (fun i => i != id) })
        let s := if !h.arrays.refreshLeft.isEmpty && (s.chan c).arrays.refreshLeft.isEmpty then
            s.selectFolds c h.arrays.refreshVersion
          else s
        let s := s.onChan c (fun h => h.setJob { j with phase := .releasing id })
        s.settleRelease c))

/-! ### Programs of tiles (R145 to R147, R168) -/

/-- What follows a program of the tile of a spare entry that failed twice (R147). -/
def State.spareFailed (s : State) (c : Chan) (p : TileProg) : State :=
  let sp := p.entry
  let s := s.retireEntry c sp false
  let s := s.onChan c (fun h => h.unpair sp)
  let s := match p.purpose with
    | .fold _ =>
      (match (s.chan c).arrays.folds.find? (fun (f : Fold) => spareOf f.entry == sp) with
        | some f => (s.onArrays c (fun a => { a with folds := a.folds.filter (fun g => g.index != f.index) })).onChan c
            (fun h => h.unpair f.entry)
        | none => s)
    | .cover d => (s.onChan c (fun h => h.unpair d)).bump c (kArr c 0x34)
    | .retire d =>
      let loading := ((s.chan c).entry d).state == TileState.loading
      let s := (s.onChan c (fun h => h.unpair d)).retireEntry c d (!loading)
      if loading then ((s.countLayerJob c d 0 0 1).settleLayer c d).releaseIfWaiting c d else s
    | _ => s
  s.spareSettled c sp

/-- A program has failed twice, or its repeat could not start (R147, R168). Log entry 58. -/
def State.progFailed (s : State) (c : Chan) (p : TileProg) : State :=
  let side := p.entry / slotEntries
  let tile := (s.chan c).tileOf p.entry
  let s := s.bump c (kArr c 0x2E)
  let s := s.raise c 0x0034 (leBytes 1 (slotNumber c side) ++ leBytes 1 (tile / 65536) ++ leBytes 2 (tile % 65536)
    ++ leBytes 1 p.purpose.cls)
  match p.purpose with
  | .first d _ =>
    let dead := (s.chan c).deadSpare (spareOf d)
    let s := s.retireStart c d
    if dead then ((s.countLayerJob c d 0 0 1).settleLayer c d).releaseIfWaiting c d else s
  | _ => s.spareFailed c p

/-- TILE_PROGRAM_START: the next waiting program starts and enters the wear ledger (R146, R166, R168, R169). -/
def execTileProgramStart (c : Chan) (s : State) : Host.Outcome State Fault Refusal :=
  .next (match (s.chan c).nextProg with
    | none => s
    | some p =>
      let s := s.onArrays c (fun a => { a with progQueue := a.progQueue.filter (fun q => q.id != p.id) })
      let side := p.entry / slotEntries
      let tile := (s.chan c).tileOf p.entry
      if tileRating ≤ ((s.chan c).slot side).count tile then s.progFailed c p
      else (s.countProgram c side tile).onArrays c (fun a => { a with progs := a.progs ++ [p] }))

/-- The header version of a takeover or cover of a data entry: that of the tile it holds, or its layer's tag under first
programming (R132, R150). -/
def Channel.coverVersion (h : Channel) (d : Nat) : Byte :=
  match (h.entry d).state, h.header d, h.layerOf d with
  | .loading, _, some l => l.tag.setWidth 8
  | _, some k, _ => k.weightVersion
  | _, _, _ => 0

/-- A verified program of a cover or takeover: the header with the gain of the basis targets (R143, R163). -/
def State.writeCoverHeader (s : State) (c : Chan) (d : Nat) : State :=
  let h := s.chan c
  let m := match h.layerOf d with
    | some l => h.tileTargets l d
    | none => fun _ _ => 0
  (s.onChan c (fun h => h.writeHeader (spareOf d) (checkGain m) (h.coverVersion d) true (cellMap m))).recordBasis c d

/-- What follows a program that verified (R147, R150, R159, R161, R163, R164, R168). A park leaves no weights, and its header shows
WEIGHT_VERSION 0 (log entry 123). -/
def State.progVerified (s : State) (c : Chan) (p : TileProg) : State :=
  match p.purpose with
  | .first d _ =>
    let h := s.chan c
    let m := match h.layerOf d with
      | some l => h.tileTargets l d
      | none => fun _ _ => 0
    let s := s.onChan c (fun h => (h.writeHeader d (checkGain m) (h.coverVersion d) true (cellMap m)).toState d .programmed)
    ((((s.freezeData c d).countLayerJob c d 1 0 0).settleLayer c d).releaseIfWaiting c d).calGroup c (d / 16)
  | .cover d =>
    let s := s.writeCoverHeader c d
    if ((s.chan c).entry d).state = .programmed ∨ ((s.chan c).entry d).state = .suspect then
      s.onChan c (fun h =>
        let h := h.toState d .calibrating
        { h with arrays := { h.arrays with calQueue := d :: h.arrays.calQueue } })
    else (s.onChan c (fun h => h.unpair d)).spareReady c (spareOf d)
  | .retire d =>
    let first := ((s.chan c).entry d).state == TileState.loading
    let s := s.writeCoverHeader c d
    if ((s.chan c).entry d).state = .free then (s.onChan c (fun h => h.unpair d)).spareReady c (spareOf d)
    else
      let s := s.onChan c (fun h => ((h.exchange d).toState d .programmed).unpair d)
      let s := (s.retireEntry c (spareOf d) false).onChan c (fun h => h.unpair (spareOf d))
      let s := s.freezeData c d
      let s := if first then (s.countLayerJob c d 0 1 0).settleLayer c d else s
      (s.releaseIfWaiting c d).spareSettled c (spareOf d)
  | .fold i =>
    (match (s.chan c).arrays.folds.find? (fun f => f.index == i && spareOf f.entry == p.entry) with
      | some f =>
        let base := s.stagingAddr c i
        let s := s.onChan c (fun h => h.writeHeader p.entry (checkGain (h.stagedCells base)) (f.source.setWidth 8) true
          (cellMap (h.stagedCells base)))
        (s.onArrays c (fun a => { a with
          folds := a.folds.map (fun g => if g.index = i then { g with ready := true } else g) })).bump c (kArr c 0x29)
      | none => s.requestProgram c .park p.entry false)
  | .park => (s.onChan c (fun h => h.writeHeader p.entry 0x3F80#16 0#8 true [])).spareReady c p.entry

/-- TILE_PROGRAM_COMPLETE: the final verify of a running program ends (R147). -/
def execTileProgramComplete (c : Chan) (prog : Nat) (verified : Bool) (s : State) : Host.Outcome State Fault Refusal :=
  .next (match (s.chan c).arrays.progs.find? (fun p => p.id == prog) with
    | none => s
    | some p =>
      let s := s.onArrays c (fun a => { a with progs := a.progs.filter (fun q => q.id != prog) })
      if verified then s.progVerified c p
      else
        let s := s.onChan c (fun h => h.writeHeader p.entry 0x3F80#16 0#8 false [])
        if p.again then s.progFailed c p else s.requestProgram c p.purpose p.entry true)

/-! ### Refreshes and the ledger's hours (R152, R167) -/

/-- FACTOR_REFRESH: the next layer whose refresh is outstanding, once the old bank is not live, and after the last one the fold
selection (R152, R157, R236, R283). -/
def execFactorRefresh (c : Chan) (s : State) : Host.Outcome State Fault Refusal :=
  .next (
    let a := (s.chan c).arrays
    match a.refreshLeft with
    | [] => s
    | id :: rest =>
      if s.mirror c || !(s.chan c).issues || (s.chan c).live (a.refreshVersion - 2) then s
      else
        let s := match a.layers.find? (fun l => l.id == id) with
          | some l => s.refreshLayer c l a.refreshVersion a.refreshStep
          | none => s
        let s := s.onChan c (fun h => { h with
          arrays := { h.arrays with refreshLeft := rest },
          safety := { h.safety with refreshFirst := h.safety.refreshFirst.filter (fun i => i != id) } })
        if rest.isEmpty then s.selectFolds c a.refreshVersion else s)

/-- The ledger's hours covered, H of R170. -/
def SlotState.hoursCovered (y : SlotState) : Nat := min 168 y.hours.length

/-- POWERED_HOUR: a powered hour of a slot's cartridge ends, and the running hour's programs become its count (R167,
R170). -/
def execPoweredHour (slot : Slot) (s : State) : Host.Outcome State Fault Refusal :=
  .next (
    let c := slot.owner
    let side := slot.side.val
    let y := (s.chan c).slot side
    if !y.present || !(s.chan c).power.cartSupply then s
    else s.onChan c (fun h => h.setSlot side { y with hours := (y.hourNow :: y.hours).take 168, hourNow := 0,
                                                      poweredHours := y.poweredHours + 1 }))

end Sys2Proof.Machine
end

