-- ==== Sys2Proof/Machine/Calibration.lean ====
section
/-!
DEFINITION. Calibration of tiles (06_array_calibration.md R175 to R187). Arithmetic is exact up to the final rounding of each
code, so it is written over the rationals; what the converters return is a free value (log entry 6).
-/

namespace Sys2Proof.Machine

/-- Rounds the square root of a rational that is not negative, to nearest, a half down (log entry 126). -/
def ratSqrtRound (q : Rat) : Nat :=
  let n := Nat.sqrt (q.num.toNat / q.den)
  if ((n : Rat) + 1 / 2) * ((n : Rat) + 1 / 2) < q then n + 1 else n

/-- Clamps a code, and says whether it was clamped. -/
def clampCode (lo hi v : Int) : Int × Bool := (max lo (min hi v), decide (v < lo) || decide (hi < v))

/-- Mean of the conversions of one measurement of a column; `n` numbers the calibration's free values (R179). -/
def calMean (n j k count : Nat) : Rat := (Config.calibrationSum n j k : Rat) / (count : Rat)

/-- The measured columns and the result of one calibration (R179): the column words, RESIDUAL and RESULT. Log entry 6. -/
def calibrate (n : Nat) (refExpected : Nat) (limit : Rat) : List (Int × Int) × Nat × Nat :=
  let o := fun (j : Nat) => calMean n j 0 256
  let a := fun (j : Nat) => calMean n j 1 256 - o j
  let k := fun (j : Nat) => 120 / a j
  let b := ((List.range 8).map (fun r => k 257 * (calMean n 257 (3 + r) 64 - o 257))).foldl (· + ·) 0
  let f := ((refExpected : Rat) / 16) / b
  let noGain := fun (j : Nat) => decide (a j ≤ 0) || decide (b ≤ 0)
  let gain := fun (j : Nat) => if noGain j then ((2047 : Int), true)
    else clampCode (-2047) 2047 (ratRound ((k j * f - 1) * 16384))
  let off := fun (j : Nat) => clampCode (-512) 511 (ratRound (o j * 16))
  let cols := (List.range 258).map (fun j => ((gain j).1, (off j).1))
  let clamped := (List.range 258).any (fun j => (gain j).2 || (off j).2)
  if (List.range 258).any noGain then (cols, 0xFF, 3)
  else
    let e := fun (j : Nat) => (1 + ((gain j).1 : Rat) / 16384) / f * (calMean n j 2 256 - ((off j).1 : Rat) / 16) - 120
    let ms := ((List.range 258).map (fun j => e j * e j)).foldl (· + ·) 0 / 258
    (cols, min 255 (ratSqrtRound (1024 * ms)), if clamped then 3 else if limit * limit < ms then 2 else 1)

/-- What starts next on a channel: a calibration of `tile` of `side` under `entry` in a mode. -/
structure CalStart where
  side : Nat
  tile : Nat
  entry : Nat
  mode : CalMode
  deriving DecidableEq, Repr

/-- The entry of a group that holds a tile of a side. -/
def Channel.holder (h : Channel) (side tile : Nat) : Nat :=
  let g := side * 16384 + tile / 16
  ((List.range 16).map (fun i => 16 * g + i)).find? (fun e => h.tileOf e == tile) |>.getD (16 * g)

/-- Whether a tile of a side is free for a calibration, its active reads apart (R127, R180, R465). -/
def Channel.calSpace (h : Channel) (side tile : Nat) : Bool :=
  let y := h.slot side
  y.attached && h.power.cartSupply && decide (h.slotFraction side = 16) && h.roomActive side
    && decide ((h.arrays.cals.filter (fun k => k.side == side)).length < 256)
    && !h.arrays.cals.any (fun k => k.side == side && k.tile == tile)
    && !h.arrays.progs.any (fun p => p.entry / slotEntries == side && h.tileOf p.entry == tile)

/-- Whether a calibration may start on a tile (R127, R135, R180, R465). -/
def Channel.calRoom (h : Channel) (side tile : Nat) : Bool := h.calSpace side tile && !h.tileActive side tile

/-- Whether new reads of a frozen data entry are held: its calibration runs, or its turn has come and waits only for the active reads
to end (R184). -/
def State.calHolds (s : State) (c : Chan) (e : Nat) : Bool :=
  let h := s.chan c
  h.arrays.cals.any (fun k => k.entry == e)
    || (h.arrays.calQueue.contains e && h.calFirst e && !s.serviceWaits c && h.arraysUsable
      && h.calSpace (e / slotEntries) (h.tileOf e))

/-- The mode in which a queued entry may be calibrated now; none while it waits for a cover (R183, R184). -/
def Channel.calMode (h : Channel) (e : Nat) : Option CalMode :=
  match (h.entry e).state with
  | .calibrating => some .covered
  | .free => some .inPlace
  | .frozen => some .inPlace
  | .spare => some .spare
  | .suspect => if isSpare e then some .spare else none
  | _ => none

/-- The calibration that starts next: an attach sweep's tile, else the first entry of the queue that is ready and whose turn in its
group has come (R33, R183, R186, R453); with `held` no entry of the queue starts but one whose cover serves already. Log entry 59. -/
def Channel.nextCal (h : Channel) (held : Bool) : Option CalStart :=
  let sweep := if !h.up || h.safe then none else [0, 1].findSome? (fun side => match (h.slot side).sweep with
    | some n => if n < slotEntries && h.calRoom side n then some (⟨side, n, h.holder side n, .sweep⟩ : CalStart) else none
    | none => none)
  sweep <|> if !h.issues || !h.arraysUsable then none else h.arrays.calQueue.findSome? (fun e => match h.calMode e with
    | some m =>
      if (held && m != .covered) || !h.calFirst e then none else
      let side := e / slotEntries
      if h.calRoom side (h.tileOf e) then some (⟨side, h.tileOf e, e, m⟩ : CalStart) else none
    | none => none)

/-- TILE_CALIBRATION_START (R179, R183, R184, R186). Log entry 59. -/
def execTileCalibrationStart (c : Chan) (s : State) : Host.Outcome State Fault Refusal :=
  .next (
    let s := if (s.chan c).issues then s.calPump c else s
    match (s.chan c).nextCal (s.serviceWaits c) with
    | none => s
    | some k =>
      let r := s.drawFree
      let y := (s.chan c).slot k.side
      let t := y.temp.getD (Config.fresh r.1 : Int)
      let s := if y.temp.isSome then s else r.2
      let s := s.onChan c (fun h =>
        let h := { h with
          nextId := h.nextId + 1,
          arrays := { h.arrays with cals := h.arrays.cals ++ [⟨h.nextId, k.side, k.tile, k.entry, k.mode, t⟩],
                                    calQueue := if k.mode = .sweep then h.arrays.calQueue
                                      else h.arrays.calQueue.filter (fun e => e != k.entry) } }
        if k.mode = .sweep then h.setSlot k.side { (h.slot k.side) with sweep := some (k.tile + 1) }
        else if k.mode = .spare then h.toState k.entry .calibrating
        else h)
      s.calPump c)

/-- The record of one calibration (Tables 6.1, 6.2). -/
def CalRecord.next (old : CalRecord) (tCal : Int) (m : List (Int × Int) × Nat × Nat) : CalRecord :=
  ⟨m.2.1, (max 0 (min 1023 tCal)).toNat, m.2.2, min (2 ^ 28 - 1) (old.count + 1), m.1⟩

/-- What the end of a calibration does to the directory (R163, R181, Table 4.6); one under a cover is counted (Table 6.3). -/
def State.calReturn (s : State) (c : Chan) (k : TileCal) : State :=
  match k.mode with
  | .covered =>
    let sp := spareOf k.entry
    let s := s.bump c (kArr c 0x33)
    let s := s.onChan c (fun h => (h.toState k.entry .programmed).unpair k.entry)
    let s := s.releaseIfWaiting c k.entry
    let s := s.onChan c (fun h => h.unpair sp)
    if ((s.chan c).entry sp).state = .loading then s.spareReady c sp else s.calGroup c (sp / 16)
  | .spare =>
    let s := s.onChan c (fun h => h.toState k.entry .spare)
    let s := if tileRating ≤ (s.chan c).entryCount k.entry then s.onChan c (fun h => h.toState k.entry .frozen) else s
    s.spareSettled c k.entry
  | _ => s

/-- Ends the attach sweep of a side whose last calibration has ended: SLOT_STATUS 3 (R186). -/
def State.sweepEnd (s : State) (c : Chan) (side : Nat) : State :=
  let y := (s.chan c).slot side
  if y.sweep = some slotEntries ∧ !(s.chan c).arrays.cals.any (fun k => k.side == side && k.mode == .sweep) then
    let s := s.onChan c (fun h => h.setSlot side { y with sweep := none, status := 3, lastSweepEnd := h.clock.timebase })
    s.calEvaluate c side
  else s

/-- The result of a calibration: the record, its counters and its event (R179, R181). -/
def State.calRecord (s : State) (c : Chan) (k : TileCal) : State :=
  let r := s.drawFree
  let y := (s.chan c).slot k.side
  let m := calibrate r.1 (Config.refExpected y.cart k.tile).toNat (f32 (s.ent (kArr c 0x61))).toRat
  let rec' := CalRecord.next (mget CalRecord.blank k.tile y.cal) k.tCal m
  let s := r.2.onChan c (fun h => h.setSlot k.side { y with cal := mset CalRecord.blank k.tile rec' y.cal })
  let s := s.bump c (kArr c 0x32)
  if rec'.result = 2 ∨ rec'.result = 3 then
    (s.bump c (kArr c (if rec'.result = 2 then 0x36 else 0x37))).raise c 0x0037
      (leBytes 1 (slotNumber c k.side) ++ leBytes 1 (k.tile / 65536) ++ leBytes 2 (k.tile % 65536)
        ++ leBytes 1 rec'.result ++ leBytes 1 rec'.residual)
  else s

/-- Whether no tile of a slot is due: every tile has its record, and none of the entries is due (R176). -/
def State.noneDue (s : State) (c : Chan) (side : Nat) : Bool :=
  decide (slotEntries ≤ ((s.chan c).slot side).cal.length)
    && (List.range slotEntries).all (fun i => !s.calDue c (slotEntries * side + i))

/-- LAST_SWEEP_END follows the timebase while the slot has no due tile; the summaries are recomputed after each calibration
(Table 6.4). -/
def State.noteSweep (s : State) (c : Chan) (side : Nat) : State :=
  if s.noneDue c side then s.onChan c (fun h => h.setSlot side { (h.slot side) with lastSweepEnd := h.clock.timebase }) else s

/-- Work on a tile calibration that ends, up to the end of a sweep. -/
def State.calEnd (s : State) (c : Chan) (k : TileCal) : State :=
  let s := s.onArrays c (fun a => { a with cals := a.cals.filter (fun q => q.id != k.id) })
  let s := (s.calRecord c k).calReturn c k
  let again := match ((s.chan c).slot k.side).temp with
    | some t => s.beyondThreshold c (t - k.tCal).natAbs
    | none => false
  let s := if again && k.mode != .sweep then s.calGroup c (k.entry / 16) else s
  ((s.calPump c).sweepEnd c k.side).noteSweep c k.side

end Sys2Proof.Machine
end

