-- ==== Sys2Proof/Machine/Arrays.lean ====
section
/-!
DEFINITION. The array gateway: array layer executions, tile reads, fallbacks, outliers and the delivery of vectors
(04 R105 to R130, R134, R161, R162; 07 R218 to R220; 09 R269, R270, R281 to R283).
-/

namespace Sys2Proof.Machine

/-! ### The array layer descriptor (R128, R129, R218) -/

/-- Loads the side-path descriptor of an array layer descriptor (R218): RANK and BANK; the engine reads factors in HBM only (R199). -/
def Channel.loadSidePath (h : Channel) (own k n : Nat) (layer : Option Layer) : Except Refused (Nat × Nat) := do
  let a := h.nat (own + 64) 8
  let bad := fun (off : Nat) => (⟨0x42, a, off, 0⟩ : Refused)
  if !descAt a 64 then throw ⟨0x41, own, 64, 0⟩
  if h.nat a 2 ≠ 0x42 then throw (bad 0)
  let r := h.nat (a + 2) 1
  if r < 8 || 64 < r || (match layer with
    | some l => l.rank != r
    | none => true) then throw (bad 2)
  if h.nat (a + 4) 4 ≠ k then throw (bad 4)
  if h.nat (a + 8) 4 ≠ n then throw (bad 8)
  let bank := h.nat (a + 16) 8
  if bank % 64 ≠ 0 || !hbmFree bank (bankBytes n k r) then throw (bad 16)
  pure (r, bank)

/-- Loads and checks an array layer descriptor (R12, R128, R129, R194, R199, R204, R218). The drain writes OUTPUT in the shared store,
or a KA48 gradient buffer in HBM under R249; the outlier engine reads PARAMETER in HBM, and in the mirror the gateway reads it
wherever it lies (R282). Log entries 62, 120. -/
def State.loadArray (s : State) (c : Chan) (j : Job) : Except Refused ArrayExec := do
  let h := s.chan c
  let env := s.loadEnv c j
  let a := j.addr
  let bad := fun (off : Nat) => (⟨0x41, a, off, 0⟩ : Refused)
  let flags := h.nat (a + 2) 2
  let k := h.nat (a + 4) 4
  let n := h.nat (a + 8) 4
  let vectors := h.nat (a + 12) 4
  let p := ceilDiv k 256
  let q := ceilDiv n 256
  if h.nat a 2 ≠ 0x41 then throw (bad 0)
  if k = 0 || 65536 < k then throw (bad 4)
  if n = 0 || 262144 < n then throw (bad 8)
  if vectors = 0 then throw (bad 12)
  let la := h.nat (a + 16) 8
  if la % 64 ≠ 0 || !nameable la (4 * p * q) then throw (bad 16)
  let tiles := h.tileList la (p * q)
  if !tilesOk tiles p then throw (bad 16)
  let sc := h.nat (a + 24) 8
  if sc % 64 ≠ 0 || !nameable sc (2 * n) then throw (bad 24)
  let snap ← h.loadTensor env 0x41 a 32 (h.nat (a + 32) 8) false anywhere
  if snap.format ≠ 0 || snap.layout != 0 || snap.rows != n || snap.cols != k then throw (bad 32)
  let param ← h.loadTensor env 0x41 a 40 (h.nat (a + 40) 8) false (if s.mirror c then anywhere else onlyHbm)
  if param.rows != n || param.cols != k then throw (bad 40)
  let input ← h.loadTensor env 0x41 a 48 (h.nat (a + 48) 8) false anywhere
  if (input.format != 0x10 && input.format != 0x11) || input.rows != vectors || input.cols != k then throw (bad 48)
  let oa := h.nat (a + 56) 8
  let output ← h.loadTensor env 0x41 a 56 oa true (if h.nat (oa + 2) 1 == 0x12 then onlyHbm else onlyStore)
  if output.rows != vectors || output.cols != n || (output.format == 0x12 && !h.gradOk j output) then throw (bad 56)
  let layer := h.layerOf (tiles.getD 0 0)
  let side ← (if flags.testBit 1 then h.loadSidePath a k n layer else pure (0, 0))
  let tau := h.nat (a + 72) 4
  if !(Fp.gt (f32 tau) Fp.zero) then throw (bad 72)
  let th := h.nat (a + 76) 4
  if th ≠ 0 && !(Fp.le (.fin false 1 (-1)) (f32 th) && Fp.le (f32 th) (Fp.ofInt 1024)) then throw (bad 76)
  let lim := h.nat (a + 80) 1
  if 8 < lim then throw (bad 80)
  let st := h.nat (a + 88) 8
  if st % 64 ≠ 0 || !nameable st 128 then throw (bad 88)
  pure { addr := a, frozen := flags.testBit 0, sidePath := flags.testBit 1, k := k, n := n, vectors := vectors,
         tiles := tiles, scaleAddr := sc, snapshot := snap, param := param, input := input, output := output,
         rank := side.1, bank := side.2, tau := tau, theta := if th = 0 then s.ent (kArr c 0x10) else th,
         limit := if lim = 0 then s.ent (kArr c 0x11) else lim, status := st,
         layer := (layer.map (fun (l : Layer) => l.id)).getD 0xFFFF, tag := h.tagFor j param, vecs := [], delivered := 0,
         clipRaised := false, frozenRaised := false, freeRaised := [] }

/-- Tiles along the input dimension (R118). -/
def ArrayExec.p (e : ArrayExec) : Nat := ceilDiv e.k 256

/-! ### Fold switches (R161) -/

/-- A four-bit line after some of its blocks have been rewritten (R89, R161): POISONED follows the scales of all its blocks; SATURATED
and CRUSHED are those of the rewritten blocks and, where the line holds others, what it showed before (log entry 63). -/
def relined (line : List Byte) (out : List (Nat × BlockOut)) (whole : Bool) : List Byte :=
  let line := out.foldl (fun l p => putBlock .kf4 l false p.1 p.2 false) line
  let old := (line.getD 63 0#8).toNat
  let kept := fun (n : Nat) (new : Bool) => if new || (!whole && old.testBit n) then 2 ^ n else 0
  line.set 63 (BitVec.ofNat 8 (BlkFmt.kf4.code * 32 + old / 16 % 2 * 16
    + (if (List.range 7).any (fun i => line.getD (56 + i) 0#8 == 255#8) then 8 else 0)
    + kept 2 (out.any (fun p => p.2.saturated)) + kept 1 (out.any (fun p => p.2.crushed))))

/-- Rewrites the part of stored row `n` of the snapshot image that a tile covers from its staged targets, line by line (R143, R161),
with what the record of the image takes (R82). The conversion is to nearest under the K3 rules (R259, R275). -/
def Channel.rewriteRow (h : Channel) (l : Layer) (o : Nat × Nat) (base n : Nat) : Channel × Stats :=
  let t := l.snapshot
  let first := o.1 / 16
  let count := ceilDiv (min 256 (l.k - o.1)) 16
  let conv := fun (b : Nat) =>
    let width := min 16 (l.k - (o.1 + 16 * b))
    let xs := (List.range width).map (fun i => w0At (h.scaleAt l n) (h.staged base (16 * b + i) (n - o.2)))
    convertBlock .kf4 false 16 (some 12) .nearest t.tInv xs
  let outs := (List.range count).map (fun b => (first + b, conv b))
  let real := ceilDiv l.k 16
  let lines := (outs.map (fun p => p.1 / 7)).eraseDups
  let g := lines.foldl (fun (g : Channel) i =>
    let mine := outs.filter (fun p => p.1 / 7 == i)
    let a := t.lineAddr .kf4 n (7 * i)
    g.write a (relined (g.bytes a 64) (mine.map (fun p => (p.1 % 7, p.2))) (mine.length == min 7 (real - 7 * i)))) h
  (g, outs.foldl (fun st p => st.merge t.cols (Stats.ofBlock p.2 false (fun i => (n, 16 * p.1 + i)) p.1)) Stats.none)

/-- Rewrites the snapshot blocks of a data entry's tile from the staged targets (R161). Log entries 62, 63. -/
def Channel.rewriteSnapshot (h : Channel) (l : Layer) (d base : Nat) : Channel × Stats :=
  let o := l.origin d
  (List.range (min 256 (l.n - o.2))).foldl (fun (acc : Channel × Stats) j =>
    let r := acc.1.rewriteRow l o base (o.2 + j)
    (r.1, acc.2.merge l.snapshot.cols r.2)) (h, Stats.none)

/-- Copies the staged targets of a fold into the basis image (R161). -/
def Channel.copyBasis (h : Channel) (l : Layer) (d base : Nat) : Channel :=
  (l.tileCells d).foldl (fun (g : Channel) q =>
    let o := l.origin d
    g.write (l.basis + q.1 * basisRow l.k + q.2) [h.byte (base + 256 * (q.2 - o.1) + (q.1 - o.2))]) h

/-- Writes the views of a fold that switches, from its staged targets, for the execution that it precedes: the basis image, the
snapshot image, and what the gateway records of invalid bytes and poisoned blocks (R143, R161, R207, R270). -/
def State.switchViews (s : State) (c : Chan) (j : Job) (e : ArrayExec) (l : Layer) (d base : Nat) : State :=
  let h := s.chan c
  let o := l.origin d
  let bad := (l.tileCells d).filter (fun q => (h.staged base (q.2 - o.1) (q.1 - o.2)).isNone)
  let r := (h.copyBasis l d base).rewriteSnapshot l d base
  let s := (s.setChan c r.1).mergeStats c l.snapshot r.2
  let s := s.onChan c (fun h => match h.job j.id with
    | some j => h.setJob (j.noteInvalid l.snapshot r.2)
    | none => h)
  let s := s.recordWeights c (some j.id) l.param 0x07 bad
  if (l.param.status ≠ 0 && !bad.isEmpty) || (l.snapshot.status ≠ 0 && r.2.invalid ≠ 0) then s.layerSticky c e.status 3 else s

/-- Switches one fold at the start of an execution of its layer (R161, Table 5.5). -/
def State.switchFold (s : State) (c : Chan) (j : Job) (e : ArrayExec) (l : Layer) (f : Fold) : State :=
  let base := s.stagingAddr c f.index
  let d := f.entry
  let s := s.switchViews c j e l d base
  let s := s.onChan c (fun h => ((h.exchange d).toState d .programmed).unpair d)
  let s := s.onArrays c (fun a => { a with
    folds := a.folds.filter (fun g => g.index != f.index),
    layers := a.layers.map (fun q => if q.id = l.id then { q with switched := (match q.switched, f.switch with
      | some x, some y => some (if later16 y x then y else x)
      | x, y => y <|> x) } else q) })
  let s := (s.bump c (kArr c 0x2A)).freezeData c d
  if f.retire then
    ((s.retireEntry c (spareOf d) false).onChan c (fun h => h.unpair (spareOf d))).spareSettled c (spareOf d)
  else s.requestProgram c .park (spareOf d) false

/-- Whether an execution tagged `u` reaches a fold's switch version (R161). -/
def Fold.reached (f : Fold) (u : Half) : Bool :=
  f.ready && (match f.switch with
    | some w => !later16 w u
    | none => false)

/-! ### Input vectors (R92, R120 to R126) -/

/-- KI4/32 blocks of x′ (R92), always to nearest (R79, R259): scale, codes, saturated, flushes. -/
def quantise (xp : List Fp) : List BlockOut :=
  (List.range (ceilDiv xp.length 32)).map (fun b =>
    convertBlock .ki4 false 32 none .nearest Fp.one ((xp.drop (32 * b)).take 32))

/-- Groups of tile position `p` that are not skipped: scale code and codes of each of the eight groups (R110). -/
def VecState.groups (v : VecState) (p : Nat) : List (Nat × List Nat) :=
  (List.range 8).map (fun r => v.quant.getD (8 * p + r) (0, List.replicate 32 0))

/-- Whether a tile is read at all for a vector (R110). -/
def VecState.reads (v : VecState) (p : Nat) : Bool := (v.groups p).any (fun g => g.1 != 0)

/-- What becomes of one input vector at the start of an execution (R122, R124, R125), with `room` places left in the deferred
queue: the vector, and the clipped elements. -/
def prepareVector (index : Nat) (tau : Fp) (room : Nat) (xs : List Fp) : VecState × List Nat :=
  match xs.findIdx? (fun x => !x.isFinite) with
  | some k => (⟨index, .nonFinite k, [], [], [], 0, false, [], []⟩, [])
  | none =>
    let outs := (xs.zipIdx.filter (fun p => Fp.gt p.1.abs tau)).map (fun p => p.2)
    let now := outs.take 32
    let rest := outs.drop 32
    let later := rest.take room
    let clipped := rest.drop room
    let diverted := now ++ later
    let xp := xs.zipIdx.map (fun p =>
      if diverted.contains p.2 then Fp.zero
      else if clipped.contains p.2 then (match p.1 with
        | .fin true _ _ => tau.neg
        | _ => tau)
      else p.1)
    let kind := if xp.all Fp.isZero then VecKind.zero else VecKind.normal
    let quant := if kind = .zero then [] else (quantise xp).map (fun b => (b.scale, b.codes))
    (⟨index, kind, quant, xp.map w32, diverted.map (fun k => (k, Fp.encode bf16 (toBf (xs.getD k Fp.zero)))),
      later.length, !clipped.isEmpty, [], []⟩, clipped)

/-- Records one invalid operation of an execution in the OUTPUT's record and sets STICKY[3] (R269, R270). -/
def State.gatewayInvalid (s : State) (c : Chan) (job : Nat) (e : ArrayExec) (i : Invalid) : State :=
  let st := Stats.ofInvalid i
  let s := s.mergeStats c e.output st
  let s := s.onChan c (fun h => match h.job job with
    | some j => h.setJob (j.noteInvalid e.output st)
    | none => h)
  if i.kind = 0x03 ∨ i.kind = 0x06 ∨ i.kind = 0x07 ∨ i.kind = 0x08 then s.layerSticky c e.status 3 else s

/-- An array execution put back into its job. -/
def State.setExec (s : State) (c : Chan) (job : Nat) (e : ArrayExec) : State :=
  s.onChan c (fun h => match h.job job with
    | some j => h.setJob { j with phase := .array e }
    | none => h)

/-- The array execution of a job. -/
def Channel.execOf (h : Channel) (job : Nat) : Option ArrayExec :=
  match h.job job with
  | some j => (match j.phase with
    | .array e => some e
    | _ => none)
  | none => none

/-- Adds to a counter of the channel and to one of the layer record. -/
def State.arrayBump (s : State) (c : Chan) (e : ArrayExec) (sub k n : Nat) : State :=
  (s.bumpBy c (kArr c sub) n).layerBump c e.status k n

/-- Puts the deferred elements of a vector into the queue (R125). -/
def State.enqueueDeferred (s : State) (c : Chan) (job : Nat) (v : VecState) : State :=
  let add := (v.diverted.drop 32).map (fun d => (⟨job, v.index, d.1, d.2⟩ : Deferred))
  let s := s.onArrays c (fun a => { a with deferred := a.deferred ++ add })
  let n := (s.chan c).arrays.deferred.length
  if s.ent (kArr c 0x30) < n then s.setEnt (kArr c 0x30) n else s

/-- Adds the tile reads of a vector (R110, R127): the read tiles wait, the others contribute an exact zero. -/
def State.addReads (s : State) (c : Chan) (job : Nat) (e : ArrayExec) (v : VecState) : State × VecState :=
  e.tiles.zipIdx.foldl (fun (q : State × VecState) t =>
    if q.2.reads (t.2 % e.p) then
      (q.1.onChan c (fun h => { h with
        nextId := h.nextId + 1,
        arrays := { h.arrays with reads := h.arrays.reads ++ [⟨h.nextId, job, v.index, t.2, .waiting, false⟩] } }), q.2)
    else (q.1, { q.2 with outs := mset none t.2 (some .skipped) q.2.outs })) (s, v)

/-- Faulty parameter lines that a vector reads at columns `ks`, each at the lowest output that it feeds (R565). -/
def Channel.paramFaults (h : Channel) (e : ArrayExec) (vec : Nat) (ks : List Nat) : List Invalid :=
  ((List.range e.n).foldl (fun (acc : List Nat × List Invalid) n =>
    ks.foldl (fun (acc : List Nat × List Invalid) k =>
      match (h.elemBf false e.param n k).fault with
      | some f =>
        let l := e.param.elemLine n k
        if acc.1.contains l then acc else (l :: acc.1, acc.2 ++ [⟨f.1, vec, n, f.2⟩])
      | none => acc) acc) ([], [])).2

/-- Whether a store word lies in a parameter line that holds columns `ks` of an output. -/
def ArrayExec.paramTouches (e : ArrayExec) (ks : List Nat) (w : Nat) : Bool :=
  (List.range e.n).any (fun n => ks.any (fun k => e.param.elemLine n k == 8 * w / 64 * 64))

/-- The products that the outlier engine forms of diverted elements, each parameter decoded to BF16 (R124, R220). -/
def Channel.outlierTerms (h : Channel) (e : ArrayExec) (ds : List (Nat × Nat)) : List Outlier :=
  ds.map (fun d => ⟨d.1, (List.range e.n).map (fun n =>
    let x := b16 d.2
    let p := h.elemBf false e.param n d.1
    (w32 (mul32 x p.value), mulInvalid x p.value, p.degraded))⟩)

/-- What reading the parameters of diverted elements records and counts (R197, R220, R565). -/
def State.readOutliers (s : State) (c : Chan) (job : Nat) (e : ArrayExec) (vec : Nat) (ks : List Nat) : State :=
  let s := ((s.chan c).paramFaults e vec ks).foldl (fun s i => s.gatewayInvalid c job e i) s
  (s.storeReads c (e.paramTouches ks)).perfAdd c 71 (e.n * ks.length)

/-- Records the faulty store lines of one input vector, at its first output (R197, R565). -/
def State.readInput (s : State) (c : Chan) (job : Nat) (e : ArrayExec) (i : Nat) : State :=
  let h := s.chan c
  let s := ((List.range e.k).filterMap (fun k => (h.elem false e.input i k).fault.map (fun f => (e.input.elemLine i k, f)))).eraseDups.foldl
    (fun s f => s.gatewayInvalid c job e ⟨f.2.1, i, 0, f.2.2⟩) s
  s.storeReads c (fun w => (List.range e.k).any (fun k => e.input.elemLine i k == 8 * w / 64 * 64))

/-- Takes up one input vector of an execution (R120 to R126, R130). -/
def State.startVector (s : State) (c : Chan) (job : Nat) (e : ArrayExec) (i : Nat) : State × ArrayExec :=
  let h := s.chan c
  let xs := (List.range e.k).map (fun k => (h.elem false e.input i k).value)
  let s := s.readInput c job e i
  let r := prepareVector i (f32 e.tau) (4096 - (s.chan c).arrays.deferred.length) xs
  let v := r.1
  match v.kind with
  | .nonFinite k => (s.gatewayInvalid c job e ⟨0x03, i, 0, k⟩, { e with vecs := e.vecs ++ [v] })
  | _ =>
    let blocks := if v.kind = .zero then [] else quantise (v.xp.map f32)
    let s := s.arrayBump c e 0x25 layerDiverted (v.diverted.length + r.2.length)
    let s := s.arrayBump c e 0x26 layerDeferred v.deferredLeft
    let s := s.arrayBump c e 0x27 layerClipped r.2.length
    let s := s.layerBump c e.status layerSaturated (blocks.filter (fun (b : BlockOut) => b.saturated)).length
    let s := s.layerBump c e.status layerFlushed ((blocks.map (fun (b : BlockOut) => b.flushes)).foldl (· + ·) 0)
    let s := s.layerBump c e.status layerZeroVectors (if v.kind = .zero then 1 else 0)
    let now := v.diverted.take 32
    let v := { v with outliers := (s.chan c).outlierTerms e now }
    let s := s.readOutliers c job e i (now.map (fun d => d.1))
    let s := if e.sidePath then s.perfAdd c 70 (e.rank * (e.k + e.n)) else s
    let q := match r.2 with
      | [] => (s, e)
      | k :: _ =>
        let s := s.layerSticky c e.status 0
        if e.clipRaised then (s, e)
        else (s.raise c 0x0031 (leBytes 2 e.layer ++ leBytes 4 i ++ leBytes 4 k), { e with clipRaised := true })
    let s := q.1.enqueueDeferred c job v
    let p := if v.kind = .zero then (s, v) else s.addReads c job e v
    (p.1, { q.2 with vecs := q.2.vecs ++ [p.2] })

/-- Deals the tiles of a mirror product to the tensor engines of all sixteen clusters, at the BF16 rate (R211, R282). -/
def State.countMirror (s : State) (c : Chan) (e : ArrayExec) : State :=
  (List.range (ceilDiv e.vectors 128 * ceilDiv e.n 16)).foldl (fun s _ => s.countTile c 0xFFFF (16 * ceilDiv e.k 16)) s

/-- Starts a loaded execution: its vectors, in the mirror or on the arrays (R120 to R127, R281). -/
def State.startArray (s : State) (c : Chan) (j : Job) (e : ArrayExec) : State :=
  if s.mirror c then
    let s := (s.bump c (kEng c 0x15)).countMirror c e
    let r := (List.range e.vectors).foldl (fun (q : State × ArrayExec) i =>
      let s := q.1.readInput c j.id e i
      let h := s.chan c
      match (List.range e.k).find? (fun k => !(h.elem false e.input i k).value.isFinite) with
      | some k => (s.gatewayInvalid c j.id e ⟨0x03, i, 0, k⟩,
          { q.2 with vecs := q.2.vecs ++ [⟨i, .nonFinite k, [], [], [], 0, false, [], []⟩] })
      | none => (s, { q.2 with vecs := q.2.vecs ++ [⟨i, .mirror, [], [], [], 0, false, [], []⟩] })) (s, e)
    r.1.setExec c j.id r.2
  else
    let r := (List.range e.vectors).foldl (fun (q : State × ArrayExec) i => q.1.startVector c j.id q.2 i) (s, e)
    r.1.setExec c j.id r.2

/-- Whether tile reads of other executions of a layer have not ended (R161). -/
def Channel.layerReads (h : Channel) (job layer : Nat) : Bool :=
  h.arrays.reads.any (fun r => r.job != job && (match h.execOf r.job with
    | some e => e.layer == layer
    | none => false))

/-- The gateway takes a loaded execution whose waits are met: the folds that its version reaches switch first, once no earlier read of
the layer is under way (R161). -/
def State.gatewayStart (s : State) (c : Chan) (j : Job) (e : ArrayExec) : State :=
  let h := s.chan c
  match h.arrays.layers.find? (fun l => l.id == e.layer) with
  | none => (s.countNearest c j [e.output]).startArray c j e
  | some l =>
    let due := if s.mirror c then [] else h.arrays.folds.filter (fun f => f.layer == l.id && f.reached e.tag)
    if !due.isEmpty && h.layerReads j.id l.id then s.onChan c (fun h => h.setJob { j with phase := .held (.array e) })
    else
      let s := due.foldl (fun s f => s.switchFold c j e l f) s
      (s.countNearest c j [e.output]).startArray c (s.current c j) e

/-- ARRAY_LAYER_EXECUTE: the descriptor is loaded once, waits, and starts (R128, R129, R156, R161, R162, R200, R120 to R127, R281). -/
def execArrayLayerExecute (c : Chan) (job : Nat) (s : State) : Host.Outcome State Fault Refusal :=
  .next (s.withJob c job 0x41 (fun j =>
    let start := fun (e : ArrayExec) => s.startHeld c j (.array e) (fun s => s.gatewayStart c j e)
    match j.phase with
    | .held (.array e) => start e
    | .held _ => s
    | _ =>
      (match s.loadArray c j with
        | .error r => s.refuseJob c j r
        | .ok e => start e)))

/-! ### Tile reads (R108 to R117, R127, R134) -/

/-- An execution changed by a function. -/
def State.onExec (s : State) (c : Chan) (job : Nat) (f : ArrayExec → ArrayExec) : State :=
  match (s.chan c).execOf job with
  | some e => s.setExec c job (f e)
  | none => s

/-- What a tile contributes to a vector is put in place, and its read ends. -/
def State.endRead (s : State) (c : Chan) (r : TileRead) (o : TileOut) : State :=
  let s := s.onArrays c (fun a => { a with reads := a.reads.filter (fun q => q.id != r.id) })
  s.onExec c r.job (fun e => { e with vecs := e.vecs.map (fun v =>
    if v.index = r.vec then { v with outs := mset none r.entry (some o) v.outs } else v) })

/-- A read in progress replaced. -/
def State.setRead (s : State) (c : Chan) (r : TileRead) : State :=
  s.onArrays c (fun a => { a with reads := a.reads.map (fun q => if q.id = r.id then r else q) })

/-- Block `i` of 16 of a tile's inputs, as an operand of R116. -/
def VecState.half (v : VecState) (p i : Nat) : Block :=
  let g := (v.groups p).getD (i / 2) (0, [])
  ⟨g.1, Fp.one, ((g.2.drop (16 * (i % 2))).take 16).map BlkFmt.ki4.codeK, none, false⟩

/-- The digital contribution of a fallen-back tile at stack position `p` of stack `q` (R116), for its 256 outputs, as accumulators with
the tensor scale applied; a poisoned pair and an invalid sum are recorded as those of a product are (R102). -/
def Channel.fallbackOut (h : Channel) (e : ArrayExec) (v : VecState) (p q : Nat) : List Acc :=
  (List.range 256).map (fun j =>
    let n := 256 * q + j
    if e.n ≤ n then Acc.zero
    else
      let blocks := (List.range 16).filter (fun i => decide (256 * p + 16 * i < e.k))
      let acc := blocks.foldl (fun (acc : Acc) i =>
        acc.block .kf4 .ki4 (16 * p + i) (h.readBlock e.snapshot .kf4 n (16 * p + i)) (v.half p i)) Acc.zero
      { acc with value := mul32 acc.value (f32 e.snapshot.scale) })

/-- The invalid operations of the accumulators of vector `vec` from output `n0` on: kinds 0x02 and 0x01 with their block along k
(R101, R102). -/
def accInvalid (vec n0 : Nat) (l : List Acc) : List Invalid :=
  l.zipIdx.flatMap (fun p =>
    (p.1.poison.toList.map (fun b => (⟨0x02, vec, n0 + p.2, b⟩ : Invalid)))
      ++ (p.1.invalid.toList.map (fun b => (⟨0x01, vec, n0 + p.2, b⟩ : Invalid))))

/-- Faulty snapshot lines that a fallback reads, at the lowest output each feeds (R565). -/
def Channel.snapshotFaults (h : Channel) (e : ArrayExec) (vec p q : Nat) : List Invalid :=
  (List.range (min 256 (e.n - 256 * q))).flatMap (fun j =>
    let n := 256 * q + j
    let lines := ((List.range 16).filter (fun i => decide (256 * p + 16 * i < e.k))).map (fun i => (16 * p + i) / 7)
    lines.eraseDups.filterMap (fun l =>
      ((h.readBlock e.snapshot .kf4 n (7 * l)).fault).map (fun k => (⟨k, vec, n, 7 * l⟩ : Invalid))))

/-- A tile falls back for a vector (R116, R117). -/
def State.fallBack (s : State) (c : Chan) (r : TileRead) (e : ArrayExec) : State :=
  match e.vecs.find? (fun v => v.index == r.vec) with
  | none => s
  | some v =>
    let p := r.entry % e.p
    let q := r.entry / e.p
    let h := s.chan c
    let out := h.fallbackOut e v p q
    let found := h.snapshotFaults e r.vec p q ++ accInvalid r.vec (256 * q) out
    let s := found.foldl (fun s i => s.gatewayInvalid c r.job e i) s
    let s := s.storeReads c (fun w => (List.range (min 256 (e.n - 256 * q))).any (fun j =>
      (List.range 16).any (fun i => decide (256 * p + 16 * i < e.k)
        && e.snapshot.lineAddr .kf4 (256 * q + j) (16 * p + i) == 8 * w / 64 * 64)))
    let s := (s.arrayBump c e 0x22 layerFallbacks 1).layerSticky c e.status 1
    s.endRead c r (.fallback (out.map (fun a => w32 a.value)))

/-- A read of a free entry (Table 4.5). -/
def State.freeRead (s : State) (c : Chan) (r : TileRead) (e : ArrayExec) (t : Nat) : State :=
  let s := s.gatewayInvalid c r.job e ⟨0x08, r.vec, 256 * (r.entry / e.p), t⟩
  let s := if e.freeRaised.contains t then s
    else (s.raise c 0x0033 (leBytes 8 e.addr ++ leBytes 4 t)).onExec c r.job (fun e => { e with freeRaised := t :: e.freeRaised })
  s.endRead c r .free

/-- A read starts on a tile (R127, R134). -/
def State.beginRead (s : State) (c : Chan) (r : TileRead) (e : ArrayExec) (entry : Nat) (spare : Bool) : State :=
  let side := entry / slotEntries
  let s := s.setRead c { r with phase := .active side ((s.chan c).tileOf entry) spare 0 [] }
  (s.arrayBump c e 0x20 layerTileReads 1).perfAdd c 76 1

/-- A frozen tile read by a layer without FROZEN (Table 4.5). -/
def State.noteFrozen (s : State) (c : Chan) (r : TileRead) (e : ArrayExec) (t : Nat) : State :=
  if e.frozen then s
  else
    let s := s.layerSticky c e.status 2
    if e.frozenRaised then s
    else (s.raise c 0x0032 (leBytes 8 e.addr ++ leBytes 4 t)).onExec c r.job (fun e => { e with frozenRaised := true })

/-- A wait of a read, counted once (Table 4.5, R184). -/
def State.holdRead (s : State) (c : Chan) (r : TileRead) (f : State → State) : State :=
  if r.counted then s else f (s.setRead c { r with counted := true })

/-- What the gateway does with one waiting read: it passes over it, or has dealt with it, or must stop because no tile may
become active (R127, R134). -/
inductive IssueStep where
  | pass (s : State)
  | done (s : State)
  | stop

/-- Resolves a waiting read (Table 4.5, R33, R127, R184): no tile is read while the channel may not use its arrays. Log entries 60,
121. -/
def State.resolve (s : State) (c : Chan) (r : TileRead) (e : ArrayExec) : IssueStep :=
  let h := s.chan c
  let t := e.tiles.getD r.entry 0
  let go := fun (s : State) (entry : Nat) (spare : Bool) =>
    if !h.arraysUsable then .pass s
    else if h.roomActive (entry / slotEntries) then .done (s.beginRead c r e entry spare) else IssueStep.stop
  match (h.entry t).state with
  | .loading => .pass (s.holdRead c r (fun s => s.arrayBump c e 0x28 layerWriteWaits 1))
  | .retired => .done (s.fallBack c r e)
  | .free => .done (s.freeRead c r e t)
  | .calibrating => go s (spareOf t) true
  | .frozen =>
    if s.calHolds c t then .pass (s.holdRead c r (fun s => s.bump c (kArr c 0x35)))
    else if !h.arraysUsable then .pass s
    else if h.roomActive (t / slotEntries) then .done ((s.noteFrozen c r e t).beginRead c r e t false) else .stop
  | _ => go s t false

/-- Goes through the waiting reads in order until one is dealt with (R127). Log entry 60. -/
def State.issueFrom (s : State) (c : Chan) : List TileRead → State
  | [] => s
  | r :: rs =>
    match (s.chan c).execOf r.job with
    | none => s.issueFrom c rs
    | some e =>
      match s.resolve c r e with
      | .pass s' => s'.issueFrom c rs
      | .done s' => s'
      | .stop => s

/-- TILE_READ_ISSUE: the next waiting tile read is resolved and issued (R127, R134). -/
def execTileReadIssue (c : Chan) (s : State) : Host.Outcome State Fault Refusal :=
  .next (if (s.chan c).issues && (s.chan c).power.cartSupply then
      s.issueFrom c ((s.chan c).arrays.reads.filter (fun r => r.phase == .waiting))
    else s)

/-- One plane's conversions of a column group: the sum of (code − OFFSET) over the kept parts in 1/16 LSB for columns 0
to 256, the splits, and whether a quarter was over range (R108, R111, R112). -/
structure PlaneSum where
  sums : List Int
  halves : Nat
  quarters : Nat
  failed : Bool
  deriving DecidableEq, Repr

/-- A plane in which nothing is driven. -/
def PlaneSum.empty : PlaneSum := ⟨List.replicate 257 0, 0, 0, false⟩

/-- Both parts of a split plane. -/
def PlaneSum.add (a b : PlaneSum) : PlaneSum :=
  ⟨(a.sums.zip b.sums).map (fun p => p.1 + p.2), a.halves + b.halves, a.quarters + b.quarters, a.failed || b.failed⟩

/-- The cells of the driven rows from `first` to `first + count − 1`. -/
def drivenCells (cells : Map Int) (driven : Nat → Bool) (first count : Nat) : Map Int :=
  cells.filter (fun p => decide (first ≤ p.1 / 256) && decide (p.1 / 256 < first + count) && driven (p.1 / 256))

/-- Sums of m over the driven rows, by column (R106). -/
def columnSums (live : Map Int) : Map Int :=
  live.foldl (fun s p => mset 0 (p.1 % 256) (mget 0 (p.1 % 256) s + p.2) s) []

/-- The input of the converter of column `j` in LSB (R106 to R108): 15 LSB for each driven row at g = ±1, and the check column
h(i) = Σ g(i, j) ÷ K_t; the analogue error of the conversion is a free value. -/
def converterInput (n : Nat) (gain : Rat) (sums : Map Int) (j : Nat) : Rat :=
  let m : Rat := if j < 256 then ((mget 0 j sums : Int) : Rat) else ((sums.foldl (fun a p => a + p.2) 0 : Int) : Rat) / gain
  15 * m / 64 + Config.conversionError n j

/-- One conversion of columns 0 to 256: (code − OFFSET) of each in 1/16 LSB, and whether any is beyond ±126.5 LSB (R108).
Log entry 6. -/
def convertOnce (n : Nat) (gain : Rat) (live : Map Int) (off : Nat → Int) : List Int × Bool :=
  let sums := columnSums live
  let raw := (List.range 257).map (converterInput n gain sums)
  (raw.zipIdx.map (fun p => 16 * max (-127) (min 127 (ratRound p.1)) - off p.2),
    raw.any (fun v => decide (253 / 2 < v) || decide (v < -253 / 2)))

/-- A plane over `count` rows from `first`, split while it is over range (R111); `driven` says which rows are driven and `free`
counts conversions. `fuel` 3 is a group, 2 a half, 1 a quarter. -/
def planeSum (gain : Rat) (cells : Map Int) (off : Nat → Int) (driven : Nat → Bool) :
    Nat → Nat → Nat → Nat → PlaneSum × Nat
  | 0, _, _, free => (PlaneSum.empty, free)
  | fuel + 1, first, count, free =>
    if !(List.range count).any (fun i => driven (first + i)) then (PlaneSum.empty, free)
    else
      let r := convertOnce free gain (drivenCells cells driven first count) off
      if !r.2 then (⟨r.1, 0, 0, false⟩, free + 1)
      else if fuel = 0 then (⟨r.1, 0, 0, true⟩, free + 1)
      else
        let a := planeSum gain cells off driven fuel first (count / 2) (free + 1)
        let b := planeSum gain cells off driven fuel (first + count / 2) (count / 2) a.2
        let t := a.1.add b.1
        (if fuel = 2 then { t with halves := t.halves + 1 } else { t with quarters := t.quarters + 1 }, b.2)

/-- w(b) of a bit-plane (R109). -/
def planeWeight (b : Nat) : Int := if b = 3 then -8 else 2 ^ b

/-- One group of a tile read: G(r, j) in 1/16 LSB for columns 0 to 256, with its splits (R109 to R112). -/
def groupRead (gain : Rat) (cells : Map Int) (cols : Nat → Int × Int) (r : Nat) (g : Nat × List Nat) (free : Nat) : PlaneSum × Nat :=
  if g.1 = 0 then (PlaneSum.empty, free)
  else [0, 1, 2, 3].foldl (fun (acc : PlaneSum × Nat) b =>
    let driven := fun (i : Nat) => (g.2.getD (i - 32 * r) 0).testBit b
    let p := planeSum gain cells (fun j => (cols j).2) driven 3 (32 * r) 32 acc.2
    let w := planeWeight b
    (acc.1.add { p.1 with sums := p.1.sums.map (fun v => w * v) }, p.2)) (PlaneSum.empty, free)

/-- g(r, j) from G(r, j) and GAIN_CODE (R112, R178). -/
def cellValue (sum gain : Int) : Fp :=
  Fp.divRound fp32 .nearest (Fp.ofInt (sum * (16384 + gain))) (Fp.ofInt 3932160)

/-- One tile read: g(r, j) row after row, the splits, whether an unsplittable over range occurred, and the counter of free
values after it (R111, R112). -/
def readTile (gain : Rat) (cells : Map Int) (cols : Nat → Int × Int) (gs : List (Nat × List Nat)) (free : Nat) :
    List Fp × Nat × Nat × Bool × Nat :=
  gs.zipIdx.foldl (fun (acc : List Fp × Nat × Nat × Bool × Nat) g =>
    let p := groupRead gain cells cols g.2 g.1 acc.2.2.2.2
    (acc.1 ++ p.1.sums.zipIdx.map (fun v => cellValue v.1 (cols v.2).1), acc.2.1 + p.1.halves,
      acc.2.2.1 + p.1.quarters, acc.2.2.2.1 || p.1.failed, p.2)) ([], 0, 0, false, free)

/-- The mean of one accumulated sum over `n` reads (R115). -/
def readMean (acc : List Fp) (n i : Nat) : Fp := div32 (acc.getD i Fp.zero) (Fp.ofInt n)

/-- The confidence check of one group (R114, R115). -/
def groupPasses (theta gain : Fp) (acc : List Fp) (n r : Nat) : Bool :=
  let avg := fun (j : Nat) => readMean acc n (257 * r + j)
  let e := sub32 (sum32 ((List.range 256).map avg)) (mul32 gain (avg 256))
  Fp.le e.abs theta

/-- The partial of a passing read for each output column (R112, R115). -/
def partialSums (gs : List (Nat × List Nat)) (acc : List Fp) (n : Nat) : List Fp :=
  (List.range 256).map (fun j => sum32 (gs.zipIdx.map (fun g => mul32 (ks8Value g.1.1) (readMean acc n (257 * g.2 + j)))))

/-- One loop of a tile read ends (R115): it passes, is repeated, or falls back. Log entry 6. -/
def State.readLoop (s : State) (c : Chan) (r : TileRead) (e : ArrayExec) (v : VecState) (side tile : Nat) (spare : Bool)
    (n : Nat) (acc : List Nat) : State :=
  let y := (s.chan c).slot side
  let gs := v.groups (r.entry % e.p)
  let cal := mget CalRecord.blank tile y.cal
  let gain := b16 ((mget none tile y.headers).map (fun (k : TileHeader) => k.checkGain.toNat) |>.getD 0x3F80)
  let out := readTile gain.toRat (mget [] tile y.cells) (fun j => cal.columns.getD j (0, 0)) gs s.free
  let s := { s with free := out.2.2.2.2 }
  let sums := out.1.zipIdx.map (fun p => add32 (if acc.isEmpty then Fp.zero else f32 (acc.getD p.2 0)) p.1)
  let s := s.arrayBump c e 0x23 layerHalves out.2.1
  let s := s.arrayBump c e 0x24 layerQuarters out.2.2.1
  let ok := !out.2.2.2.1 && gs.zipIdx.all (fun g => g.1.1 == 0 || groupPasses (f32 e.theta) gain sums (n + 1) g.2)
  if ok then s.endRead c r (.passed ((partialSums gs sums (n + 1)).map w32))
  else if n + 1 = e.limit + 1 then (s.fallBack c r e).fallbackEffect c (e.tiles.getD r.entry 0) spare
  else (s.arrayBump c e 0x21 layerReReads 1).setRead c { r with phase := .active side tile spare (n + 1) (sums.map w32) }

/-- TILE_READ_COMPLETE: the conversions of one pass of an active tile read end (R111, R112, R115 to R117). -/
def execTileReadComplete (c : Chan) (read : Nat) (s : State) : Host.Outcome State Fault Refusal :=
  .next (match (s.chan c).arrays.reads.find? (fun r => r.id == read) with
    | none => s
    | some r =>
      match r.phase, (s.chan c).execOf r.job with
      | .active side tile spare n acc, some e =>
        (match e.vecs.find? (fun v => v.index == r.vec) with
          | some v => s.readLoop c r e v side tile spare n acc
          | none => s)
      | _, _ => s)

/-! ### Delivery (R119 to R123, R219, R220, R281) -/

/-- A traced value rounded to BF16. -/
def Traced.toBf (a : Traced) : Traced := ⟨Machine.toBf a.v, a.bad⟩

/-- The side-path result z_n of a vector, with its invalid products and sums (R206, R219). -/
def Channel.sidePathOut (h : Channel) (e : ArrayExec) (v : VecState) : List Traced :=
  let xs := v.xp.map (fun w => Traced.of (toBf (f32 w)))
  let factor := fun (a : Nat) => Traced.of (b16 (h.nat a 2))
  let aRow := fun (n : Nat) => e.bank + n * (64 * ceilDiv e.rank 32)
  let bRow := fun (i : Nat) => e.bank + factorArea e.n e.rank + i * (64 * ceilDiv e.k 32)
  let u := (List.range e.rank).map (fun i =>
    (Traced.sum (xs.zipIdx.map (fun p => (factor (bRow i + 2 * p.2)).mul p.1))).toBf)
  (List.range e.n).map (fun n => (Traced.sum (u.zipIdx.map (fun p => (factor (aRow n + 2 * p.2)).mul p.1))).toBf)

/-- One output element with what it records. -/
structure GatewayOut where
  value : Fp
  invalid : List Invalid
  deriving DecidableEq, Repr

/-- The per-output-channel scale of output `n` as the gateway reads it: NaN in an uncorrectable store line (R76, R197). -/
def Channel.channelScale (h : Channel) (e : ArrayExec) (n : Nat) : Fp :=
  let a := e.scaleAddr + 2 * n
  if h.lineBad a then .nan else b16 (h.nat a 2)

/-- What the scale of output `n` records for a vector: an uncorrectable line once, at the first output that it feeds, and not again
as a scale that is not finite (R76, R197, R565; log entry 120). -/
def Channel.scaleInvalid (h : Channel) (e : ArrayExec) (vec n : Nat) : List Invalid :=
  if h.lineBad (e.scaleAddr + 2 * n) then (if n % 32 = 0 then [⟨0x09, vec, n, 0xFFFFFFFF⟩] else [])
  else if (h.channelScale e n).isFinite then [] else [⟨0x06, vec, n, 0xFFFFFFFF⟩]

/-- The array term of output `n` (R119, R121, Table 4.5). -/
def Channel.arrayTerm (h : Channel) (e : ArrayExec) (v : VecState) (n : Nat) : Fp :=
  let q := n / 256
  let outs := (List.range e.p).map (fun p => mget none (q * e.p + p) v.outs)
  let c := h.channelScale e n
  if !c.isFinite then .nan
  else if v.kind = .zero then Fp.zero
  else if outs.any (fun o => o == some .free) then .nan
  else
    let sum := sum32 (outs.filterMap (fun o => match o with
      | some (.passed ws) => some (f32 (ws.getD (n % 256) 0))
      | _ => none))
    mul32 sum c

/-- The result of a vector at output `n` (R120, R122, R281). -/
def Channel.gatewayOut (h : Channel) (e : ArrayExec) (v : VecState) (side : List Traced) (n : Nat) : GatewayOut :=
  match v.kind with
  | .nonFinite _ => ⟨.nan, []⟩
  | .mirror =>
    let acc := (List.range e.k).foldl (fun (acc : Acc) k =>
      acc.product .nearest (h.elemBf false e.input v.index k).value (h.elemBf false e.param n k).value) Acc.zero
    ⟨acc.value, accInvalid v.index n [acc]⟩
  | _ =>
    let acc : Acc := ⟨h.arrayTerm e v n, none, none⟩
    let wide := 0xFFFFFFFF
    let q := n / 256
    let acc := (List.range e.p).foldl (fun (acc : Acc) p => match mget none (q * e.p + p) v.outs with
      | some (.fallback ws) => acc.add .nearest wide (f32 (ws.getD (n % 256) 0))
      | _ => acc) acc
    let z := tracedAt side n
    let sided := acc.add .nearest wide z.v
    let acc := if e.sidePath then { sided with invalid := if z.bad then some wide else sided.invalid } else acc
    let acc := v.outliers.foldl (fun (acc : Acc) d =>
      let t := d.terms.getD n (0, false, false)
      let acc := if t.2.1 then { acc with invalid := some wide } else acc
      acc.add .nearest wide (f32 t.1)) acc
    ⟨acc.value, h.scaleInvalid e v.index n ++ accInvalid v.index n [acc]⟩

/-- Whether a vector may be delivered: every tile has answered and no deferred outlier is left (R123). -/
def VecState.complete (v : VecState) (e : ArrayExec) : Bool :=
  match v.kind with
  | .normal => v.deferredLeft == 0 && (List.range e.tiles.length).all (fun i => (mget none i v.outs).isSome)
  | .zero => v.deferredLeft == 0
  | _ => true

/-- Whether the results of a vector carry DEGRADED (R90, R126). -/
def Channel.vectorDegraded (h : Channel) (e : ArrayExec) (v : VecState) (n : Nat) : Bool :=
  v.clipped
    || (v.kind == .mirror && (List.range e.k).any (fun k => (h.elemBf false e.param n k).degraded))
    || v.outliers.any (fun d => (d.terms.getD n (0, false, false)).2.2)
    || (List.range e.p).any (fun p => match mget none (n / 256 * e.p + p) v.outs with
      | some (.fallback _) => (List.range 16).any (fun i => decide (256 * p + 16 * i < e.k)
          && (h.readBlock e.snapshot .kf4 n (16 * p + i)).degraded)
      | _ => false)

/-- The results of one vector. -/
def Channel.vectorOuts (h : Channel) (e : ArrayExec) (v : VecState) : List GatewayOut :=
  let side := if e.sidePath && (v.kind == .normal || v.kind == .zero) then h.sidePathOut e v else []
  (List.range e.n).map (h.gatewayOut e v side)

/-- Adds the results of a vector into a KA48 OUTPUT by accumulate-write (R212). -/
def Channel.deliverKa (h : Channel) (k2 : Bool) (e : ArrayExec) (v : VecState) : Channel × Stats :=
  ((h.vectorOuts e v).map (fun (o : GatewayOut) => o.value)).zipIdx.foldl (fun (acc : Channel × Stats) p =>
    let r := acc.1.kaAccumulate k2 e.output v.index p.2 p.1
    (r.1, acc.2.merge e.output.cols r.2)) (h, Stats.none)

/-- ACCUMULATE_WRITE commands of one vector into a KA48 OUTPUT: a run of 16 outputs in ROW layout, a single element in COLUMN (R248). -/
def ArrayExec.kaCount (e : ArrayExec) : Nat :=
  if e.output.layout = 0 then ((List.range (ceilDiv e.n 16)).map (fun t => kaCommands (16 * t) (min 16 (e.n - 16 * t)))).foldl (· + ·) 0
  else e.n

/-- Writes the results of delivered vectors into OUTPUT when its rows are vectors (R120, R203). -/
def Channel.deliverRow (h : Channel) (k2 : Bool) (e : ArrayExec) (keys : DrawKeys) (v : VecState) : Channel × Stats :=
  h.writeRow k2 e.output keys v.index ((h.vectorOuts e v).map (fun (o : GatewayOut) => o.value)) (h.vectorDegraded e v)

/-- Writes into OUTPUT when its stored rows are outputs: wide elements at once, and a block of each stored row when its last
vector is delivered (R75, R203). -/
def Channel.deliverColumn (h : Channel) (k2 : Bool) (e : ArrayExec) (keys : DrawKeys) (v : VecState) : Channel × Stats :=
  let t := e.output
  let vals := (h.vectorOuts e v).map (fun (o : GatewayOut) => o.value)
  let st := vals.foldl (fun st x => st.merge t.cols (Stats.ofValue x)) Stats.none
  match t.blk with
  | none => (vals.zipIdx.foldl (fun (g : Channel) p =>
      let d := t.wideWrite p.2 v.index (p.1.round t.wide .nearest)
      g.write d.1 d.2) h, st)
  | some f =>
    let w := if k2 then 32 else 16
    if (v.index + 1) % w ≠ 0 ∧ v.index + 1 ≠ e.vectors then (h, st)
    else
      let b := v.index / w
      let vs := (e.vecs.drop (w * b)).take w
      let rows := vs.map (fun u => (u, (h.vectorOuts e u).map (fun (o : GatewayOut) => o.value)))
      let first := if k2 then 2 * b else b
      (List.range e.n).foldl (fun (acc : Channel × Stats) n =>
        let o := t.convert k2 f keys n b (rows.map (fun r => r.2.getD n Fp.zero))
        let deg := vs.any (fun u => h.vectorDegraded e u n)
        (acc.1.putBlockAt k2 t f n b o deg (fun i => i % f.blocksPerLine == 0),
          acc.2.merge t.cols (Stats.ofBlock o deg (fun i => (w * b + i, n)) first))) (h, st)

/-- VECTOR_DELIVERY: the next vector of an execution, in order, when it is complete (R120, R123). -/
def execVectorDelivery (c : Chan) (job : Nat) (s : State) : Host.Outcome State Fault Refusal :=
  .next (match (s.chan c).job job, (s.chan c).execOf job with
    | some j, some e =>
      (match e.vecs.find? (fun v => v.index == e.delivered) with
        | some v =>
          if !v.complete e || !(s.chan c).issues then s
          else
            let h := s.chan c
            let k2 := s.k2 c
            let keys := s.drawKeys c j e.output
            let ks := if v.kind = .mirror then List.range e.k else []
            let ka := e.output.format == 0x12
            let inv := h.paramFaults e v.index ks ++ (h.vectorOuts e v).flatMap (fun (o : GatewayOut) => o.invalid)
            let r := if ka then h.deliverKa k2 e v
              else if e.output.layout = 0 then h.deliverRow k2 e keys v else h.deliverColumn k2 e keys v
            let s := ((s.setChan c r.1).mergeStats c e.output r.2).countSilence c j e.output r.2
            let s := s.onChan c (fun h => match h.job job with
              | some j => h.setJob (j.noteInvalid e.output r.2)
              | none => h)
            let s := inv.foldl (fun s i => s.gatewayInvalid c job e i) s
            let s := s.storeReads c (fun w => e.paramTouches ks w
              || (v.kind != .mirror && decide (e.scaleAddr ≤ 8 * w) && decide (8 * w < e.scaleAddr + 2 * e.n)))
            let s := if ka then s.countAccumulates c e.kaCount else s
            let e := { e with delivered := e.delivered + 1 }
            let s := s.setExec c job e
            if e.delivered = e.vectors then
              (match (s.chan c).job job with
                | some j => s.finishJob c j 0 0
                | none => s)
            else s
        | none => s)
    | _, _ => s)

/-- DEFERRED_OUTLIER_SERVE: the outlier engine serves the oldest element of the deferred queue (R125, R220). -/
def execDeferredOutlierServe (c : Chan) (s : State) : Host.Outcome State Fault Refusal :=
  .next (match (s.chan c).arrays.deferred with
    | [] => s
    | d :: rest =>
      if !(s.chan c).issues then s
      else
        let s := s.onArrays c (fun a => { a with deferred := rest })
        match (s.chan c).execOf d.job with
        | none => s
        | some e =>
          let made := (s.chan c).outlierTerms e [(d.index, d.value)]
          (s.readOutliers c d.job e d.vec [d.index]).onExec c d.job (fun e => { e with vecs := e.vecs.map (fun v =>
            if v.index = d.vec then { v with deferredLeft := v.deferredLeft - 1, outliers := v.outliers ++ made } else v) }))

/-! ### Entries of the interleave program (R236, R240, R249, R250, R253) -/

/-- Loads the descriptor of an entry's job by its type, with everything it points to (R200, R240). -/
def State.loadHeld (s : State) (c : Chan) (j : Job) : Except Refused Held :=
  let h := s.chan c
  let env := s.loadEnv c j
  match j.descType with
  | 0x20 => (h.loadProduct env j).map Held.product
  | 0x30 => (h.loadRow env j).map Held.row
  | 0x32 => (h.loadTranspose env j).map (fun p => Held.transpose p.1 p.2)
  | 0x38 => if h.isIn j.addr then (h.loadIn env j).map (fun p => Held.stashIn p.1 p.2.1 p.2.2)
      else (h.loadOut env j).map (fun p => Held.stashOut p.1 p.2)
  | 0x41 => (s.loadArray c j).map Held.array
  | 0x60 => (h.loadRaster env j).map Held.raster
  | _ => .error ⟨j.descType, j.addr, 0, 0⟩

/-- A loaded entry starts once its waits are met; its engine then takes it up. An OUT starts when it has its run of granules (R253). -/
def State.takeEntry (s : State) (c : Chan) (j : Job) (x : Held) : State :=
  match x with
  | .stashOut _ _ =>
    (match s.heldWait c j x with
      | .error r => s.refuseJob c j r
      | .ok (some w) => s.holdJob c j x w.1 w.2
      | .ok none => s.onChan c (fun h => h.setJob { j with phase := .held x }))
  | _ => s.startHeld c j x (fun s => s.onChan c (fun h => h.setJob { j with phase := .held x }))

/-- The job of entry `i` of the current slot. -/
def Channel.entryJob (h : Channel) (p : Program) (i : Nat) : Option Job :=
  h.jobs.find? (fun j => match j.owner with
    | .entry slot k _ _ _ _ => slot == p.slot && k == i
    | _ => false)

/-- Entry `i` of the current slot is loaded: its job is made, and its descriptor is loaded or refused (R240). -/
def State.loadEntry (s : State) (c : Chan) (p : Program) (i : Nat) (e : SlotEntry) : State :=
  let h := s.chan c
  let slotAddr := h.nat (p.addr + 24) 8 + 256 * p.slot
  let ty := h.nat e.desc 2
  let j : Job := ⟨h.nextId, .entry p.slot i e.mb e.cls e.weight e.lastGrad, e.desc, ty, .started, [], []⟩
  let s := (s.onChan c (fun h => h.addJob j.owner j.addr ty)).setEntry c i .loaded
  if !descAt e.desc 64 then s.refuseJob c j ⟨0x71, slotAddr, 16 + 16 * i, 0⟩
  else if !entryType ty then s.refuseJob c j ⟨ty, e.desc, 0, 0⟩
  else match s.loadHeld c j with
    | .error r => s.refuseJob c j r
    | .ok x => s.takeEntry c j x

/-- PROGRAM_ENTRY_START: entry `i` of the current slot is loaded and starts when it may (R236, R240, R250); an entry that a wait holds
back is looked at again. -/
def execProgramEntryStart (c : Chan) (entry : Fin 15) (s : State) : Host.Outcome State Fault Refusal :=
  .next (match (s.chan c).training.program with
    | none => s
    | some p =>
      let h := s.chan c
      match (p.slots.getD p.slot [])[entry.val]? with
      | none => s
      | some e =>
        if !h.runs || p.abandoned.isSome then s
        else if p.states.getD entry.val .done = .loaded then
          (match h.entryJob p entry.val with
            | some j => (match j.phase with
              | .held x => s.takeEntry c j x
              | _ => s)
            | none => s)
        else if !p.mayStart entry.val then s
        else if h.versionStalled p e.mb then
          if p.versionHeld.contains e.mb then s
          else (s.onTraining c (fun t => { t with
            program := some { p with versionHeld := e.mb :: p.versionHeld } })).bump c (kEng c 0x07)
        else if e.weight ≠ 0xFFFF && h.bufferBusy e.weight then
          if p.gradWaited.contains entry.val then s
          else (s.onTraining c (fun t => { t with
            program := some { p with gradWaited := entry.val :: p.gradWaited } })).bump c (kEng c 0x09)
        else s.loadEntry c p entry.val e)

end Sys2Proof.Machine
end

