-- ==== Sys2Proof/Machine/Timebase.lean ====
section
/-!
DEFINITION. Timebases, EPOCH pulses, the rack reference and the performance snapshot (02 R55 to R66, 14 R408), and what
an idle step of 10 ns does.
-/

namespace Sys2Proof.Machine

/-- The host reaches BAR0: the port complex runs and the PCI Express link is up (R25, R28). -/
def State.hostReaches (s : State) : Bool := s.module.on && s.module.alive && s.module.endpoint.linkUp

/-- The port complex serves the registers and entries of channel `c` (R27, R407). -/
def State.available (s : State) (c : Chan) : Bool := (s.chan c).served && (s.chan c).power.fuseClosed

/-- The host reaches the registers of channel `c`. -/
def State.hostServed (s : State) (c : Chan) : Bool := s.hostReaches && s.available c

/-- A clock after an EPOCH pulse, with the code and data of the event it raises (R56, R57, R58). -/
def Clock.pulse (k : Clock) : Clock × Option (Nat × List Byte) :=
  if k.status.holdover then (k, none)
  else if k.status.loadArmed then
    let st := { k.status with loadGeneration := k.status.loadGeneration + 1, loadArmed := false, alignError := false,
                              loaded := true }
    ({ k with timebase := k.epochLoad, status := st, capture := some k.epochLoad },
      some (0x0010, leBytes 8 k.timebase.toNat ++ leBytes 8 k.epochLoad.toNat))
  else
    let after := { k with capture := some k.timebase }
    match k.capture with
    | none => (after, none)
    | some p =>
      if k.status.loaded && k.timebase - p != 100000000#64 then
        ({ after with status := { k.status with alignError := true } },
          some (0x0011, leBytes 8 k.timebase.toNat ++ leBytes 8 p.toNat))
      else (after, none)

/-- A clock whose reference stops (R58). -/
def Clock.lost (k : Clock) : Clock := { k with status := { k.status with holdover := true, refLost := true } }

/-- A clock whose reference returns (R58). -/
def Clock.returned (k : Clock) : Clock := { k with status := { k.status with holdover := false, alignError := true } }

/-- The module's clock changed, and an event raised when there is one. -/
def State.portClock (s : State) (k : Clock) (e : Option (Nat × List Byte)) : State :=
  let s := { s with module := { s.module with clock := k } }
  match e with
  | some (code, data) => s.raisePort 0 code data
  | none => s

/-- A channel's clock changed, and an event raised when there is one. -/
def State.chanClock (s : State) (c : Chan) (k : Clock) (e : Option (Nat × List Byte)) : State :=
  let s := s.onChan c (fun h => { h with clock := k })
  match e with
  | some (code, data) => s.raise c code data
  | none => s

/-- Acts on every channel whose timebase runs. -/
def State.eachUp (s : State) (f : State → Chan → State) : State :=
  [0, 1, 2, 3].foldl (fun (s : State) (c : Chan) => if (s.chan c).up then f s c else s) s

/-- EPOCH_PULSE (R56, R57, R62). -/
def execEpochPulse (s : State) : Host.Outcome State Fault Refusal :=
  .next (if !s.module.on then s
    else
      let p := s.module.clock.pulse
      (s.portClock p.1 p.2).eachUp (fun s c =>
        let r := (s.chan c).clock.pulse
        s.chanClock c r.1 r.2))

/-- REFERENCE_LOST (R58, R62). -/
def execReferenceLost (s : State) : Host.Outcome State Fault Refusal :=
  .next (if !s.module.refPresent then s
    else
      let s := { s with module := { s.module with refPresent := false } }
      if !s.module.on then s
      else
        let k := s.module.clock
        (s.portClock k.lost (some (0x0012, leBytes 8 k.timebase.toNat))).eachUp (fun s c =>
          let q := (s.chan c).clock
          s.chanClock c q.lost (some (0x0012, leBytes 8 q.timebase.toNat))))

/-- REFERENCE_RETURNED (R58, R62). -/
def execReferenceReturned (s : State) : Host.Outcome State Fault Refusal :=
  .next (if s.module.refPresent then s
    else
      let s := { s with module := { s.module with refPresent := true } }
      if !s.module.on then s
      else
        let k := s.module.clock
        (s.portClock k.returned (some (0x0013, leBytes 8 k.timebase.toNat))).eachUp (fun s c =>
          let q := (s.chan c).clock
          s.chanClock c q.returned (some (0x0013, leBytes 8 q.timebase.toNat))))

/-- TIMEBASE_LOW_READ: the low half is returned and the high half latched (R60); an unavailable channel reads all ones
(R407). -/
def execTimebaseLowRead (c : Chan) (s : State) : Host.Outcome State Fault Refusal :=
  .next (if !s.hostReaches then s
    else if !s.available c then s.emit (.readData 0xFFFFFFFF#64)
    else
      let k := (s.chan c).clock
      (s.onChan c (fun h => { h with clock := { k with high := k.timebase.extractLsb' 32 32 } })).emit
        (.readData ((k.timebase.extractLsb' 0 32).setWidth 64)))

/-- PORT_TIMEBASE_LOW_READ (R60, R62). -/
def execPortTimebaseLowRead (s : State) : Host.Outcome State Fault Refusal :=
  .next (if !s.hostReaches then s
    else
      let k := s.module.clock
      ({ s with module := { s.module with clock := { k with high := k.timebase.extractLsb' 32 32 } } }).emit
        (.readData ((k.timebase.extractLsb' 0 32).setWidth 64)))

/-- What a snapshot captures, as the words of Table 14.5. -/
def Channel.captureWords (h : Channel) : Map Nat :=
  let m := (List.range 78).foldl (fun m i => mset 0 (i + 2) (mget 0 (i + 2) h.perf.counters) m) []
  let m := mset 0 0 h.clock.timebase.toNat (mset 0 1 h.clock.status.loadGeneration.toNat m)
  mset 0 81 (h.perf.overflow / 2 ^ 64) (mset 0 80 (h.perf.overflow % 2 ^ 64) m)

/-- PERF_SNAPSHOT: a write of 1 to the trigger (R65). -/
def execPerfSnapshot (c : Chan) (s : State) : Host.Outcome State Fault Refusal :=
  .next (if s.hostServed c && !(s.chan c).perf.busy then
      s.onChan c (fun h => { h with perf := { h.perf with snapshot := h.captureWords, busy := true } })
    else s)

/-- SNAPSHOT_COMPLETE: SNAPSHOT_BUSY reads 0 again (R65). -/
def execSnapshotComplete (c : Chan) (s : State) : Host.Outcome State Fault Refusal :=
  .next (s.onChan c (fun h => { h with perf := { h.perf with busy := false } }))

/-- PACE_COUNT of a channel in P0 advances by the handshakes of 10 ns, a free value (R64). Log entry 1. -/
def State.paceTick (s : State) (c : Chan) : State :=
  if (s.chan c).power.state = .p0 then
    let r := s.drawFree
    r.2.perfAdd c 2 (Config.paceStep r.1 c.val)
  else s

/-- The upset or cell fault that may meet a channel's shared store within 10 ns, a free value; a word that already fails fails no better
(R197; log entry 116). -/
def State.storeTick (s : State) (c : Chan) : State :=
  let r := s.drawFree
  match Config.storeUpset r.1 c.val with
  | none => r.2
  | some (w, double, persistent) =>
    let word := (storeBase + w * 8 % storeSize) / 8
    r.2.onChan c (fun h =>
      let old := (mget none word h.storeErr).getD ⟨false, false⟩
      { h with storeErr := mset none word (some ⟨old.uncorrectable || double, old.persistent || persistent⟩) h.storeErr })

/-- One tick of 10 ns: what a step does when no command waits (R55, R59, R64, R197; log entries 1, 116). -/
def State.tick (s : State) : State :=
  if !s.module.on then s
  else
    let k := s.module.clock
    let s := { s with module := { s.module with clock := { k with timebase := k.timebase + 1 } } }
    s.eachUp (fun s c =>
      (s.onChan c (fun h => { h with clock := { h.clock with timebase := h.clock.timebase + 1 } })).paceTick c |>.storeTick c)

end Sys2Proof.Machine
end

