-- ==== Sys2Proof/Machine/Requests.lean ====
section
/-!
DEFINITION. Object-dictionary requests: the paths and their roles, the answer, the checks that come before every read and
write, the audit record, and persistence (14 R428 to R432; 17 R475 to R479, R484, R489, R510, R511; 18 R517 to R520).
-/

namespace Sys2Proof.Machine

/-! ### Paths (R430, R478, R487) -/

/-- Whether a request can arrive on a path: the host reaches the mailbox, or the session is open. -/
def State.pathOpen (s : State) (p : ReqPath) : Bool :=
  match p with
  | .mailbox => s.hostReaches
  | .session id => s.module.on && s.module.alive && (s.session id).isSome

/-- Role in force on a path: 0 operator, 1 installer, 2 maker. -/
def State.roleOf (s : State) (p : ReqPath) : Nat :=
  match p with
  | .mailbox => s.module.endpoint.mailbox.role
  | .session id => ((s.session id).map (·.role)).getD 0

/-- The role of a path set (R430, R487). -/
def State.setRole (s : State) (p : ReqPath) (role : Nat) : State :=
  match p with
  | .mailbox => s.onEndpoint (fun e => { e with mailbox := { e.mailbox with role := role } })
  | .session id => (match s.session id with
    | some q => s.setSession { q with role := role }
    | none => s)

/-- PATH of an audit record, and of R514. -/
def pathCode (p : ReqPath) : Nat :=
  match p with
  | .mailbox => 0
  | .session _ => 1

/-- SESSION of a path; 0 on the mailbox. -/
def pathSession (p : ReqPath) : Nat :=
  match p with
  | .mailbox => 0
  | .session id => id

/-- The 16 bytes that begin a response, and its data (R428). -/
def responseBytes (status ty len off : Nat) (data : List Byte) : List Byte :=
  leBytes 1 status ++ leBytes 1 ty ++ [0#8, 0#8] ++ leBytes 4 len ++ leBytes 4 off ++ leBytes 4 data.length ++ data

/-- Answers a request: the mailbox's response buffer, BUSY, DONE and SIGNAL (R429), or the session's RESPONSE, which is kept
for a repeat of the same REQUEST (R485, R489). Log entries 40, 46. -/
def State.reply (s : State) (p : ReqPath) (status ty len off : Nat) (data : List Byte) : State :=
  let s := s.emit (.odResponse p status ty len off data)
  let bytes := responseBytes status ty len off data
  match p with
  | .mailbox =>
    let s := s.onEndpoint (fun e => { e with mailbox := { e.mailbox with busy := false, done := true, response := bytes } })
    if s.module.endpoint.mailbox.signal then s.requestVector (512 * s.module.endpoint.eventChannel + 511) else s
  | .session id => (match s.session id with
    | some q =>
      let body := leBytes 4 q.lastSeq.toNat ++ bytes
      (s.setSession { q with lastRequest := some (q.lastSeq, body) }).sessionFrame id 0x11 body
    | none => s)

/-! ### Serving cores (R480, R502) -/

/-- The core that serves an index: the port complex, or the cores of a channel; none for a reserved index (Table 17.2). -/
def servedBy (index : Nat) : Option (Option Chan) :=
  match odTable.findSome? (fun r => (r.owner index).map (fun u => (r.index, u))) with
  | none => none
  | some (base, u) =>
    if base = 0x1120 ∨ base = 0x4010 then some (some (Fin.ofNat 4 (u / 2)))
    else if [0x1000, 0x1010, 0x1100, 0x2800, 0x5000, 0x7000, 0x8000].contains base then some none
    else some (some (Fin.ofNat 4 u))

/-- Whether the cores of a channel answer requests at an index: a boot-held channel serves two indices (R27, R502). -/
def State.serves (s : State) (c : Chan) (index : Nat) : Bool :=
  s.available c && ((s.chan c).fw.bootState != 2 || index == 0x1110 + c.val || index == 0x7100 + 0x100 * c.val)

/-- Access code of a role in a row (Table 17.4). -/
def OdRow.code (r : OdRow) (role : Nat) : Nat :=
  if role = 0 then r.access.1 else if role = 1 then r.access.2.1 else r.access.2.2

/-- Length of an entry in bytes: a scalar's size, or the bound of a string, DOMAIN or KEY entry. -/
def entryLength (index sub ty : Nat) : Nat :=
  if ty < 8 then odSize ty
  else match index, sub with
    | 0x1000, 0x01 => 32
    | 0x1000, 0x02 => 16
    | 0x1000, 0x08 => 64
    | 0x1100, 0x02 => 32
    | 0x1100, 0x03 => 32
    | 0x1100, 0x14 => 1568
    | 0x1100, 0x20 => 196608
    | 0x1100, 0x22 => 49920
    | 0x7000, 0x10 => 0x800000
    | _, _ =>
      if 0x1110 ≤ index ∧ index < 0x1114 then
        (match sub with
          | 0x10 => 32
          | 0x11 => 50368
          | 0x20 => 3145728
          | 0x22 => 49920
          | 0x30 => 0x1E00000
          | _ => 32768)
      else if 0x1120 ≤ index ∧ index < 0x1128 then (if sub = 0x04 then 64 else 32768)
      else if sub = 0x40 then 0x400000
      else if sub = 0x64 then 1040
      else if sub = 0x30 then 4096
      else if sub = 0x08 then 256
      else if sub = 0x07 then 2048
      else if sub = 0x18 then 4096
      else 32768

/-- The checks of a request before its entry is touched (Table 14.14, log entry 21): status, and the entry's row. The PLAN
entries of M ports are read-only for every role (R314). -/
def State.requestCheck (s : State) (p : ReqPath) (write : Bool) (index sub length : Nat) : Nat × Option OdRow :=
  let limit := match p with
    | .mailbox => 4080
    | .session _ => 1408
  if limit < length then (0x08, none)
  else match servedBy index with
    | none => (0x01, none)
    | some who =>
      if (match who with
          | some c => !s.serves c index
          | none => false) then (0x04, none)
      else if sub = 0 then
        (if write then 0x02 else 0x00, some ⟨index, 0, 1, 0, 0, 2, (1, 1, 1), odTopSub index, (0, 0), false⟩)
      else match odFind index sub with
        | none => (0x01, none)
        | some r =>
          let code := r.code (s.roleOf p)
          if code = 0 ∨ (write ∧ (code = 1 ∨ (r.index = 0x5100 ∧ sub < 4))) then (0x02, some r) else (0x00, some r)

/-- Whether a value is in the range that its type and entry state (Table 17.1, R477). -/
def OdRow.accepts (r : OdRow) (v : Nat) : Bool :=
  (r.ty != 1 || decide (v < 2))
    && (r.ty != 7 || decide (v / 2 ^ 23 % 256 ≠ 255))
    && (r.range == (0, 0) || (decide (r.range.1 ≤ v) && decide (v ≤ r.range.2)) || (r.index == 0x5000 && r.lo == 0x01 && v == 65535))

/-- The status that OFFSET, LENGTH and the value of a write earn before the entry's own rule (R477). -/
def OdRow.writeStatus (r : OdRow) (index sub offset : Nat) (data : List Byte) : Nat :=
  let n := entryLength index sub r.ty
  if r.ty < 8 then
    (if offset ≠ 0 then 0x03 else if data.length ≠ n then 0x06 else if r.accepts (leNat data) then 0x00 else 0x03)
  else if r.ty = 8 then (if offset ≠ 0 then 0x03 else if n < data.length then 0x06 else 0x00)
  else if n < offset + data.length then 0x03 else 0x00

/-! ### The audit log (R517 to R520) -/

/-- AUDIT_CHECKPOINT_INTERVAL of a channel's entry; the port complex has none and uses the entry's default (log entry 22). -/
def State.auditInterval (s : State) (c : Option Chan) : Nat :=
  match c with
  | some c => s.ent (odKey (0x1110 + c.val) 0x23)
  | none => 1024

/-- Signs a checkpoint of a channel's log; refused while scan and debug are open (R520, R522). -/
def State.signChannel (s : State) (c : Chan) : State :=
  if (s.chan c).fw.debugState ≠ 0 then s
  else (s.onChan c (fun h => { h with audit := h.audit.sign h.fw c.val h.clock.timebase })).bump c (odKey (0x1110 + c.val) 0x43)

/-- Signs a checkpoint of the port complex's log (R520). -/
def State.signPort (s : State) : State :=
  { s with module := { s.module with audit := s.module.audit.sign s.module.fw 4 s.module.clock.timebase } }

/-- Appends a record to a channel's log, or to the port complex's, with the checkpoint of every interval. Log entry 98. -/
def State.auditRecord (s : State) (who : Option Chan) (r : AuditRecord) : State :=
  match who with
  | some c =>
    let s := s.onChan c (fun h => { h with audit := h.audit.append auditSize { r with time := h.clock.timebase } })
    if s.auditInterval who ≤ (s.chan c).audit.sinceCheckpoint then s.signChannel c else s
  | none =>
    let m := s.module
    let s := { s with module := { m with audit := m.audit.append portAuditSize { r with time := m.clock.timebase } } }
    if s.auditInterval who ≤ s.module.audit.sinceCheckpoint then s.signPort else s

/-- VALUE of the record of a write (Table 18.8). -/
def auditValue (index sub ty : Nat) (data : List Byte) : List Byte :=
  if index = 0x1100 ∧ sub = 0x03 then [] else if 9 ≤ ty then shake256 data 4 else data.take 4

/-! ### Writing (R431, R432, R478, R479) -/

/-- Notes the earlier value of a persistent module entry, whose EEPROM write takes 10 ms (R479). -/
def State.noteRecent (s : State) (key : Nat) : State :=
  let now := s.module.clock.timebase
  let young := s.module.recent.filter (fun e => decide ((now - e.2.2).toNat < 1000000))
  { s with module := { s.module with recent := (key, s.ent key, now) :: young } }

/-- Persistent module entries written less than 10 ms ago take their earlier values (R479). Log entries 51, 67. -/
def State.loseRecent (s : State) : State :=
  let now := s.module.clock.timebase
  let s' := s.module.recent.foldl (fun s e => if (now - e.2.2).toNat < 1000000 then s.setEnt e.1 e.2.1 else s) s
  { s' with module := { s'.module with recent := [] } }

/-- Sets the value of an entry by a request; a persistent module entry notes its earlier value. -/
def State.storeEnt (s : State) (index sub v : Nat) : State :=
  let s := match odFind index sub with
    | some r => if r.persistent && servedBy index == some none then s.noteRecent (odKey index sub) else s
    | none => s
  s.setEnt (odKey index sub) v

/-- Data of WRITE_IGNORED for an entry (Table 14.13). -/
def ignoredData (index sub : Nat) : List Byte := leBytes 2 index ++ leBytes 1 sub

/-- A write not accepted at this time: WRITE_IGNORED, raised by the core that serves the entry (R431). Log entry 43. -/
def State.raiseIgnored (s : State) (index sub : Nat) : State :=
  match servedBy index with
  | some (some c) => s.raise c 0x0004 (ignoredData index sub)
  | _ => s.raisePort 0 0x0004 (ignoredData index sub)

/-- The status that a request to write earns, with the entry's own rule `w`. -/
def State.writeStatusOf (s : State) (p : ReqPath) (index sub offset : Nat) (data : List Byte) (w : State → State × Nat) : Nat :=
  let k := s.requestCheck p true index sub data.length
  let status := if k.1 ≠ 0 then k.1 else (k.2.map (fun r => r.writeStatus index sub offset data)).getD 1
  if status ≠ 0 then status else (w s).2

/-- A request to write: checked, carried out by the entry's own rule `w`, recorded when accepted, and answered. -/
def State.writeRequest (s : State) (p : ReqPath) (index sub offset : Nat) (data : List Byte)
    (w : State → State × Nat) : State :=
  if !s.pathOpen p then s
  else
    let k := s.requestCheck p true index sub data.length
    let ty := (k.2.map (·.ty)).getD 0
    let len := (k.2.map (fun r => entryLength index sub r.ty)).getD 0
    let status := if k.1 ≠ 0 then k.1 else (k.2.map (fun r => r.writeStatus index sub offset data)).getD 1
    if status ≠ 0 then s.reply p status ty len offset []
    else
      let r := w s
      let role := s.roleOf p
      let s' := if r.2 = 0 then
          (match servedBy index with
            | some who => r.1.auditRecord who ⟨1, role, pathCode p, 0, index, sub, offset, data.length, pathSession p,
                auditValue index sub ty data, []⟩
            | none => r.1)
        else r.1
      s'.reply p r.2 ty len offset []

/-- A rule that answers status 0x05 raises WRITE_IGNORED for its entry (R431). Log entry 43. -/
def noting (index sub : Nat) (w : State → State × Nat) (s : State) : State × Nat :=
  let r := w s
  if r.2 = 0x05 then (r.1.raiseIgnored index sub, 0x05) else r

/-- A register of a channel that is also an entry, written through BAR0 at an offset (R473): a write that is not accepted raises
WRITE_IGNORED with the offset. Log entry 98. -/
def State.writeRegister (s : State) (c : Chan) (offset : Nat) (w : State → State × Nat) : State :=
  if !s.hostServed c then s
  else
    let r := w s
    if r.2 = 0 then r.1 else r.1.raise c 0x0004 (leBytes 4 offset)

/-- A request to write whose effect `after` follows the answer (R492): a restart or a reboot. -/
def State.writeThen (s : State) (p : ReqPath) (index sub offset : Nat) (data : List Byte) (w : State → State × Nat)
    (after : State → State) : State :=
  let t := s.writeRequest p index sub offset data w
  if s.pathOpen p && s.writeStatusOf p index sub offset data w == 0 then after t else t

/-- A scalar entry written by a request with the rule `w` on its value. -/
def State.writeScalar (s : State) (p : ReqPath) (index sub : Nat) (bytes v : Nat) (w : State → State × Nat) : State :=
  s.writeRequest p index sub 0 (leBytes bytes v) w

end Sys2Proof.Machine
end

