-- ==== Sys2Proof/Machine/Links.lean ====
section
/-!
DEFINITION. Tharic links: flits and replay, tickets, failure and re-forwarding, discovery, uplink notices, and the flow of
packets through the links of a channel (10 R293 to R303, R309 to R322; 11 R327).
-/

namespace Sys2Proof

/-- A peer in the layout of Table 10.8, with bit 31 set. -/
def Capability.peerWord (k : Capability) : Nat :=
  2 ^ 31 + k.moduleNumber % 32768 * 2 ^ 14 + k.channel % 4 * 2 ^ 12 + k.port % 64 * 2 ^ 6

end Sys2Proof

namespace Sys2Proof.Machine

/-- Flits of the replay buffer of a port (R296). -/
def replayDepth (p : Nat) : Nat := if 34 ≤ p then 1024 else 256

/-- Ticket pools that this module grants on a port (Table 10.3). -/
def grantedPools (p : Nat) : List Nat := if 34 ≤ p then [1024, 20480, 20480, 7168] else [256, 1536, 1536, 768]

/-- Bytes of a flit's packet area (Table 10.1). -/
def areaBytes : Nat := 624

/-! ### The cabling plan and BLOCK_DEGRADED (R314, R316) -/

/-- PLAN of a port: the entry, or the fixed peer of an M port (R314). -/
def State.planOf (s : State) (c : Chan) (p : Nat) : Nat :=
  if p < 3 then 2 ^ 31 + s.moduleNumber % 32768 * 2 ^ 14 + (c.val + p + 1) % 4 * 2 ^ 12 + (2 - p) * 2 ^ 6
  else s.ent (kLink c (1 + p))

/-- PLANNED of a plan entry. -/
def planned (v : Nat) : Bool := v.testBit 31

/-- Whether a port is enabled (PORT_ENABLE). -/
def State.portEnabled (s : State) (c : Chan) (p : Nat) : Bool := s.ent (kLink c (0x81 + p)) == 1

/-- Whether a peer matches a plan entry (R314); B and U ports match none while MODULE_NUMBER is unset. -/
def State.matchesPlan (s : State) (c : Chan) (p : Nat) (k : Capability) : Bool :=
  let v := s.planOf c p
  planned v && (decide (p < 3) || s.moduleNumber != 0xFFFF) && decide ((if p < 3 then k.moduleNumber % 32768 else k.moduleNumber) = v / 2 ^ 14 % 32768)
    && decide (k.channel = v / 2 ^ 12 % 4) && decide (k.port = v / 2 ^ 6 % 64)

/-- BLOCK_DEGRADED (R316). Log entry 65. -/
def State.degraded (s : State) : Bool :=
  [0, 1, 2, 3].any (fun (c : Chan) => (List.range 42).any (fun p =>
    planned (s.planOf c p) && (!s.available c || ((s.chan c).link p).state != 2)))

/-- Raises BLOCK_DEGRADED when it has changed since `old` (R316). -/
def State.watchDegraded (s old : State) : State :=
  if s.module.on && s.module.alive && s.degraded != old.degraded then
    s.raisePort 0 0x0054 (leBytes 1 (if s.degraded then 1 else 0))
  else s

/-! ### Flits and replay (R293 to R297) -/

/-- Sends a flit with the port's present acknowledgement and a fresh CRC (R293, R294, R296). Log entry 64. -/
def State.sendFlit (s : State) (c : Chan) (p : Port) (f : Flit) (nak : Bool) : State :=
  let k := (s.chan c).link p.val
  (s.bump c (kPort c p.val 0x02)).emit
    (.flit c p (Flit.bytes { f with ackSeq := k.expected - 1, ackValid := k.accepted, nak := nak }))

/-- An IDLE flit (R294). -/
def idleFlit : Flit := ⟨1, 0, 0, false, false, 0, [0, 0, 0, 0], List.replicate areaBytes 0#8⟩

/-- Sends a link-control message in a CONTROL flit, with the port's present acknowledgement (R294). -/
def State.sendControl (s : State) (c : Chan) (p : Port) (m : ControlMsg) : State :=
  let k := (s.chan c).link p.val
  (s.bump c (kPort c p.val 0x02)).emit (.control c p (k.expected - 1) k.accepted m)

/-- Sends NAK in the next flit; it is repeated only after a replay timeout (R295). Log entry 64. -/
def State.sendNak (s : State) (c : Chan) (p : Port) : State :=
  if ((s.chan c).link p.val).nakSent then s
  else (s.onLink c p.val (fun k => { k with nakSent := true })).sendFlit c p idleFlit true

/-- Resends every unacknowledged flit in order (R296). -/
def State.resend (s : State) (c : Chan) (p : Port) : State :=
  ((s.chan c).link p.val).replay.foldl (fun s f => s.sendFlit c p f false) s

/-- Keeps a new DATA flit in the replay buffer and sends it, with the ticket returns that are pending, at most 127 a class
(R296, R300). -/
def State.sendData (s : State) (c : Chan) (p : Port) (first : Nat) (area : List Byte) : State :=
  let k := (s.chan c).link p.val
  let back := k.returns.map (fun n => min n 127)
  let f : Flit := ⟨0, k.nextSeq, 0, false, false, first, back, (area ++ List.replicate areaBytes 0#8).take areaBytes⟩
  (s.onLink c p.val (fun k => { k with nextSeq := k.nextSeq + 1, replay := k.replay ++ [f],
                                       returns := (k.returns.zip back).map (fun q => q.1 - q.2) })).sendFlit c p f false

/-- Whether a DATA flit may be sent on a port now (R296, R297, R315, R319). -/
def Channel.sends (h : Channel) (p : Nat) : Bool :=
  let k := h.link p
  h.linksRun && k.state == 2 && !k.goodbye && !k.retraining && decide (k.replay.length < replayDepth p)

/-! ### Leaving service (R317, R327) -/

/-- A packet at the start of a list of words, and what follows; none when it is not there whole. -/
def wholePacket (b : List Byte) : Option (Packet × List Byte) :=
  if b.length < 32 then none
  else
    let n := 32 + leNat ((b.drop 2).take 2)
    if b.length < n then none else some (Packet.ofBytes b, b.drop n)

/-- Reads packets and pads from a stream of words: the whole packets, and the words of one that is incomplete (R294). -/
def parseWords : Nat → List Byte → List Packet × List Byte
  | 0, b => ([], b)
  | n + 1, b =>
    match b with
    | [] => ([], [])
    | x :: _ =>
      if x = 0#8 then parseWords n (b.drop 16)
      else match wholePacket b with
        | none => ([], b)
        | some (k, rest) => ((k :: (parseWords n rest).1), (parseWords n rest).2)

/-- Packets with a word in the unacknowledged DATA flits of a port, in stream order (R317). -/
def Link.inFlight (k : Link) : List Packet := k.replay.flatMap (fun f => (parseWords 39 f.area).1)

/-- Inserts an uplink into the table in the order of R327. -/
def insertUplink (u : Uplink) : List Uplink → List Uplink
  | [] => [u]
  | v :: l =>
    let key := fun (w : Uplink) => ((w.remote * 32 + w.position) * 4 + w.channel) * 8 + w.port
    if key u < key v then u :: v :: l else v :: insertUplink u l

/-- Applies an uplink notice to the table (R327). -/
def Transport.applyNotice (t : Transport) (n : Notice) : Transport :=
  let rest := t.uplinks.filter (fun u => !(u.position == n.position && u.channel == n.channel && u.port == n.port))
  { t with uplinks := if n.up then insertUplink ⟨n.remoteBlock, n.position, n.channel, n.port⟩ rest else rest }

/-- Number of an uplink within its block. -/
def noticeKey (n : Notice) : Nat := (n.position * 4 + n.channel) * 8 + n.port

/-- Sends a notice on the UP links of the given ports. -/
def State.spreadNotice (s : State) (c : Chan) (n : Notice) (ports : List Port) : State :=
  ports.foldl (fun s p => if ((s.chan c).link p.val).state = 2 then s.sendControl c p (.notice n) else s) s

/-- Ports M0 to M2. -/
def mPorts : List Port := (List.range 3).map (fun i => Fin.ofNat 42 i)
/-- Ports B0 to B30. -/
def bPorts : List Port := (List.range 31).map (fun i => Fin.ofNat 42 (3 + i))

/-- Whether a link is in service: UP, or under a recalibration that began from UP (R189, R315). -/
def Link.inService (k : Link) : Bool := k.state == 2 || (k.state == 7 && k.recalUp)

/-- A U link of the channel enters or leaves UP: its table and the notice (R327). -/
def State.uplinkChanged (s : State) (c : Chan) (p : Nat) (up : Bool) : State :=
  if p < 34 then s
  else
    let k := (s.chan c).link p
    let seq := (s.chan c).net.noticeSeq
    let n : Notice := ⟨s.position, c.val, p - 34, up, ((k.peer.map (·.moduleNumber)).getD 0) / 32, seq⟩
    (s.onNet c (fun t => { (t.applyNotice n) with
      noticeSeq := seq + 1,
      noticeSeen := mset none (noticeKey n) (some seq) t.noticeSeen })).spreadNotice c n (mPorts ++ bPorts)

/-- A link leaves UP, or training, for `state` (R317 steps 1 to 4, R319): LINK_DOWNS when it was in service, routes without
the port, re-forwarding on a link with REFORWARD, the words of an incomplete packet and the tickets voided; without REFORWARD its packets are
given up, and what they held of other ports' receive buffers is free again (R300). A new attempt offers 106.25 GBd first (R309). -/
def State.linkDown (s : State) (c : Chan) (p : Nat) (state reason : Nat) : State :=
  let k := (s.chan c).link p
  let listed : Bool := k.state == 2 || (k.inService && k.deferredAt.isSome)
  let moved := if k.features.getLsbD 1 then (k.inFlight.map (fun q => (q, none))) ++ k.queue.map (fun q => (q.pkt, q.source))
    else []
  let lost := if k.features.getLsbD 1 then [] else k.queue.filter (fun q => q.source != some p)
  let s := if k.inService then s.bump c (kPort c p 0x0A) else s
  let s := s.onChan c (fun h =>
    let h := h.setLink p { Link.reset with state := state, version := k.version, reason := reason,
                                           peer := k.peer, retrainedAt := k.retrainedAt,
                                           ser := k.ser, serAt := k.serAt, trained := k.trained && state == 3 }
    let forget := fun (o : Option Nat) => if o = some p then none else o
    { h with net := { h.net with
      inbox := h.net.inbox.map (fun e => (forget e.1, e.2)),
      links := h.net.links.map (fun e => (e.1, { e.2 with queue := e.2.queue.map (fun q => { q with source := forget q.source }) })) } })
  let s := if listed then s.uplinkChanged c p false else s
  let s := lost.foldl (fun s q => s.giveBack c q.source q.pkt) s
  moved.foldl (fun s q => (s.bump c (kLink c 0xD8)).sendPacket c q.1 (if q.2 = some p then none else q.2)) s

/-- A link fails (R317): FAILED, and the event that names the port and the reason. -/
def State.linkFailed (s : State) (c : Chan) (p reason : Nat) : State :=
  ((s.linkDown c p 5 reason).raise c 0x0050 (leBytes 1 p ++ leBytes 1 reason)).watchDegraded s

/-- After a replay: eight in a row without an advance start a fast retrain; a second one within 1 s fails the link (R297). -/
def State.replayed (s : State) (c : Chan) (p : Port) : State :=
  let s := s.onLink c p.val (fun k => { k with stuck := k.stuck + 1 })
  let k := (s.chan c).link p.val
  if k.stuck < 8 then s
  else
    let now := (s.chan c).clock.timebase
    let again : Bool := match k.retrainedAt with
      | some t => decide ((now - t).toNat < 100000000)
      | none => false
    if again then s.linkFailed c p.val 3
    else (s.onLink c p.val (fun k => { k with retraining := true, retrainedAt := some now, stuck := 0 })).bump c
      (kPort c p.val 0x09)

/-- Applies ACK_SEQ and NAK of a good flit (R294, R296). -/
def State.applyAck (s : State) (c : Chan) (p : Port) (f : Received) : State :=
  let k := (s.chan c).link p.val
  let kept := if f.ackValid then k.replay.filter (fun g => decide (0 < (g.seq - f.ackSeq).toNat ∧ (g.seq - f.ackSeq).toNat < 2048))
    else k.replay
  let s := s.onLink c p.val (fun k => { k with replay := kept, stuck := if kept.length < k.replay.length then 0 else k.stuck })
  if f.nak && !kept.isEmpty then (s.resend c p |>.bump c (kPort c p.val 0x07)).replayed c p else s

/-- Whether flits of a port are received: the link is trained and not under a fast retrain. -/
def Channel.hears (h : Channel) (p : Nat) : Bool :=
  let k := h.link p
  h.linksRun && (k.state == 2 || k.state == 7) && !k.retraining

/-- A good flit of any type arrives: it is counted with the symbols corrected in it, and its acknowledgement is acted on (R294,
R321). -/
def State.flitIn (s : State) (c : Chan) (p : Port) (r : Received) : State :=
  ((s.bump c (kPort c p.val 0x03)).bumpBy c (kPort c p.val 0x04) r.corrected.val).applyAck c p r

/-- Whether CONTROL flits of a port are received: the link is trained, whatever plan it matches (R315), and not under a fast
retrain. -/
def Channel.hearsControl (h : Channel) (p : Nat) : Bool :=
  let k := h.link p
  h.linksRun && ([2, 3, 7].contains k.state || (k.state == 1 && k.trained)) && !k.retraining

/-- A CONTROL flit arrives: after its acknowledgement its message is acted on, if the link still stands (R294). -/
def State.controlIn (s : State) (c : Chan) (p : Port) (r : Received) (act : State → State) : State :=
  if !(s.chan c).hearsControl p.val then s
  else
    let t := s.flitIn c p r
    if (t.chan c).hearsControl p.val then act t else t

/-- IDLE_FLIT (R294). Log entry 64. -/
def execIdleFlit (c : Chan) (p : Port) (f : ArrivedFlit) (s : State) : Host.Outcome State Fault Refusal :=
  .next (if (s.chan c).hears p.val then s.flitIn c p (f.flit.received f.corrected) else s)

/-- A DATA flit in sequence: its ticket returns, and the packets that it completes (R295, R299, R300). -/
def State.acceptData (s : State) (c : Chan) (p : Port) (f : Flit) : State :=
  let k := (s.chan c).link p.val
  let area := if k.rx.isEmpty then f.area.drop (16 * min f.firstWord 39) else k.rx ++ f.area
  let r := parseWords 80 area
  let s := s.onLink c p.val (fun k => { k with
    expected := k.expected + 1, accepted := true, nakSent := false, rx := r.2,
    tickets := (k.tickets.zip (f.tickets ++ [0, 0, 0, 0])).map (fun q => q.1 + q.2) })
  r.1.foldl (fun s q => s.toInbox c (some p.val) q) s

/-- A good DATA flit: accepted when its number is the next expected, answered with NAK when it is later, dropped when earlier
(R295). -/
def State.dataIn (s : State) (c : Chan) (p : Port) (f : Flit) (corrected : Fin 16) : State :=
  let s := s.flitIn c p (f.received corrected)
  if !(s.chan c).hears p.val then s
  else
    let ahead := (f.seq - ((s.chan c).link p.val).expected).toNat
    if ahead = 0 then s.acceptData c p f else if ahead < 2048 then s.sendNak c p else s

/-- DATA_FLIT (R295, R296). -/
def execDataFlit (c : Chan) (p : Port) (f : ArrivedFlit) (s : State) : Host.Outcome State Fault Refusal :=
  .next (if (s.chan c).hears p.val then s.dataIn c p f.flit f.corrected else s)

/-- A flit that was bad: counted by its kind, FEC_UNCORRECTABLE at 0x05 and CRC_ERRORS at 0x06, and answered with NAK (R295). -/
def State.badIn (s : State) (c : Chan) (p : Port) (corrected : Nat) (kind : Option Nat) : State :=
  let s := (s.bump c (kPort c p.val 0x03)).bumpBy c (kPort c p.val 0x04) corrected
  ((kind.map (fun k => s.bump c (kPort c p.val k))).getD s).sendNak c p

/-- BAD_FLIT (R290, R293 to R295): the codeword is uncorrectable, the CRC over bytes 0 to 631 does not match, or the type is
reserved. Bytes that show none of these are a good flit. Log entry 64. -/
def execBadFlit (c : Chan) (p : Port) (why : BadFlit) (s : State) : Host.Outcome State Fault Refusal :=
  .next (if !(s.chan c).hears p.val then s
    else match why with
      | .uncorrectable => s.badIn c p 0 (some 0x05)
      | .arrived b n =>
        let f := Flit.ofBytes b
        if !flitCrcOk b then s.badIn c p n.val (some 0x06)
        else if 2 < f.ftype then s.badIn c p n.val none
        else if f.ftype = 0 then s.dataIn c p f n
        else s.flitIn c p (f.received n))

/-- REPLAY_TIMEOUT (R295, R296, R297). -/
def execReplayTimeout (c : Chan) (p : Port) (s : State) : Host.Outcome State Fault Refusal :=
  .next (let k := (s.chan c).link p.val
    if !(s.chan c).hears p.val then s
    else
      let s := if k.nakSent then s.sendFlit c p idleFlit true else s
      if k.replay.isEmpty then s else ((s.resend c p).bump c (kPort c p.val 0x08)).replayed c p)

/-- FAST_RETRAIN_END (R297). -/
def execFastRetrainEnd (c : Chan) (p : Port) (s : State) : Host.Outcome State Fault Refusal :=
  .next (let k := (s.chan c).link p.val
    if (s.chan c).linksRun && k.retraining then
      let s := s.onLink c p.val (fun k => { k with retraining := false, stuck := 0 })
      if k.replay.isEmpty then s else (s.resend c p).bump c (kPort c p.val 0x07)
    else s)

/-- FAST_RETRAIN_TIMEOUT (R297, R317). -/
def execFastRetrainTimeout (c : Chan) (p : Port) (s : State) : Host.Outcome State Fault Refusal :=
  .next (if (s.chan c).linksRun && ((s.chan c).link p.val).retraining then s.linkFailed c p.val 3 else s)

/-! ### The choice of a packet (R299 to R301) -/

/-- The packet of a class that has waited longest. -/
def Link.headOf (k : Link) (cls : Nat) : Option Queued := k.queue.find? (fun q => q.pkt.cls % 4 == cls)

/-- Whether the first packet of a class has its tickets. -/
def Link.affords (k : Link) (cls : Nat) : Bool :=
  match k.headOf cls with
  | some q => decide (q.pkt.words ≤ k.tickets.getD cls 0)
  | none => false

/-- Quantum of a class (R301). -/
def quantum (cls : Nat) : Nat := if cls = 3 then 1 else 4

/-- Deficit round-robin among REDUCE, BROADCAST and BULK (R301): the class that sends, with turn and deficits after it. -/
def Link.turns : Nat → Link → Option (Nat × Link)
  | 0, _ => none
  | n + 1, k =>
    let t := k.turn
    let d := k.deficit.getD (t - 1) 0
    let w := ((k.headOf t).map (fun q => q.pkt.words)).getD 0
    if k.affords t && decide (w ≤ d) then some (t, { k with deficit := k.deficit.set (t - 1) (d - w) })
    else
      let k := if (k.headOf t).isNone then { k with deficit := k.deficit.set (t - 1) 0 } else k
      let t' := t % 3 + 1
      let k := { k with turn := t' }
      Link.turns n (if k.affords t' then { k with deficit := k.deficit.set (t' - 1) (k.deficit.getD (t' - 1) 0 + quantum t') } else k)

/-- The class that sends at a packet boundary (R301). -/
def Link.choose (k : Link) : Option (Nat × Link) := if k.affords 0 then some (0, k) else k.turns 240

/-- TICKET_RETURN_TIMER: with returns pending and no packet that may start, a DATA flit of pads goes out; its first word begins a
pad (R300, Table 10.2). -/
def execTicketReturnTimer (c : Chan) (p : Port) (s : State) : Host.Outcome State Fault Refusal :=
  .next (let k := (s.chan c).link p.val
    if (s.chan c).sends p.val && k.choose.isNone && k.returns.any (fun n => n != 0) then s.sendData c p 0 [] else s)

/-- Counts the first packets of the classes that wait for tickets, each once (R301, Table 10.14). -/
def State.countStalls (s : State) (c : Chan) (p : Nat) : State :=
  [0, 1, 2, 3].foldl (fun s cls =>
    let k := (s.chan c).link p
    match k.headOf cls with
    | some q =>
      if k.affords cls || q.counted then s
      else (s.onLink c p (fun k => { k with
        queue := k.queue.takeWhile (fun r => r.pkt.cls % 4 != cls) ++ { q with counted := true }
          :: (k.queue.dropWhile (fun r => r.pkt.cls % 4 != cls)).drop 1 })).bump c (kPort c p (0x0B + cls))
    | none => s) s

/-- PACKET_START: the chosen packet is sent, its tickets spent (R299 to R301). -/
def execPacketStart (c : Chan) (p : Port) (s : State) : Host.Outcome State Fault Refusal :=
  .next (if !(s.chan c).sends p.val then s
    else
      let s := s.countStalls c p.val
      match ((s.chan c).link p.val).choose with
      | none => s
      | some (cls, k) =>
        match k.headOf cls with
        | none => s
        | some q =>
          let s := s.onLink c p.val (fun _ => { k with
            queue := k.queue.erase q,
            tickets := k.tickets.set cls (k.tickets.getD cls 0 - q.pkt.words) })
          (s.sendData c p 0 q.pkt.bytes).giveBack c q.source q.pkt)

/-- PACKET_FORWARD (R303). -/
def execPacketForward (c : Chan) (pkt : Packet) (s : State) : Host.Outcome State Fault Refusal :=
  .next (if !(s.chan c).linksRun || pkt.dest == s.address c then s
    else
      let src := ((s.chan c).net.inbox.find? (fun e => e.2 == pkt)).bind (·.1)
      let s := s.onNet c (fun n => { n with inbox := n.inbox.erase (src, pkt) })
      if pkt.hops = 0 then ((s.giveBack c src pkt).bump c (kLink c 0xD4)).sendUnreachable c pkt
      else s.sendPacket c { pkt with hops := pkt.hops - 1 } src)

/-- DATA_PACKET: checked and delivered within its segment (R302, R304, R306; log entry 24). -/
def execDataPacket (c : Chan) (pkt : Packet) (s : State) : Host.Outcome State Fault Refusal :=
  .next (if pkt.ptype = 0x01 then (s.receive c pkt false).1 else s)

/-- A packet or control message of reserved type: counted, with one event a second at most (R302, R373). -/
def State.unknownType (s : State) (c : Chan) (port : Nat) (k : Packet) : State :=
  let s := s.bump c (kLink c 0xD7)
  let now := (s.chan c).clock.timebase
  let quiet : Bool := match (s.chan c).net.unknownAt with
    | some t => decide ((now - t).toNat < 100000000)
    | none => false
  if quiet then s
  else (s.onNet c (fun n => { n with unknownAt := some now })).raise c 0x0058
    (leBytes 1 port ++ leBytes 1 k.ptype ++ leBytes 4 k.source)

/-- Message codes of Tables 12.12 and 13.7. -/
def knownMessage (code : Nat) : Bool :=
  decide (0x01 ≤ code ∧ code ≤ 0x07) || decide (0x10 ≤ code ∧ code ≤ 0x18) || decide (0x20 ≤ code ∧ code ≤ 0x22)
    || code == 0x30 || code == 0x31 || decide (0x40 ≤ code ∧ code ≤ 0x50)

/-- UNKNOWN_PACKET_TYPE (R302, R373). -/
def execUnknownPacketType (c : Chan) (p : Port) (pkt : Packet) (s : State) : Host.Outcome State Fault Refusal :=
  .next (if !s.receives c pkt then s
    else if pkt.ptype = 0 ∨ 0x07 < pkt.ptype then (s.takeInbox c pkt).unknownType c p.val pkt
    else if pkt.ptype = 0x05 ∧ !knownMessage (pkt.data.headD 0#8).toNat then
      let r := s.receive c pkt false
      if r.2 then r.1.unknownType c p.val pkt else r.1
    else s)

/-- SEG_ACK (R306, R307). -/
def execSegAck (c : Chan) (pkt : Packet) (s : State) : Host.Outcome State Fault Refusal :=
  .next (if pkt.ptype ≠ 0x06 || !s.receives c pkt then s
    else
      let r := (s.takeInbox c pkt).checkPacket c pkt false
      if !r.2 then r.1
      else
        let key : SegKey := ⟨s.address c, pkt.source, pkt.group, pkt.segment, pkt.step⟩
        let next := leNat (pkt.data.take 2)
        let done := (leNat ((pkt.data.drop 2).take 1)).testBit 0
        let sel := leNat ((pkt.data.drop 8).take 8)
        let gone := fun (u : Unacked) => done || decide (u.pkt.seq < next)
          || (decide (next < u.pkt.seq) && sel.testBit (u.pkt.seq - next - 1))
        let free := fun (t : TxSegment) =>
          if t.key = key then { t with unacked := t.unacked.filter (fun u => !gone u) } else t
        let closed := fun (t : TxSegment) => t.key == key && t.last && t.unacked.isEmpty
        let s := r.1.onNet c (fun n => { n with tx := (n.tx.map free).filter (fun t => !closed t) })
        s.pump c)

/-- SEG_ACK_TIMER (R306). -/
def execSegAckTimer (c : Chan) (seg : SegKey) (s : State) : Host.Outcome State Fault Refusal :=
  .next (if !(s.chan c).linksRun then s
    else match (s.chan c).net.rx.find? (fun r => r.key == seg) with
      | some r =>
        if r.fresh = 0 then s
        else
          let r := { r with fresh := 0 }
          let epoch := (((s.chan c).comm seg.group).map (fun g => g.epoch.setWidth 8)).getD 0#8
          (s.setRx c r).sendAck c r epoch
      | none => s)

/-! ### Training and discovery (R298, R309 to R315) -/

/-- What this end advertises on a port (R310). -/
def State.capability (s : State) (c : Chan) (p : Port) : ControlMsg :=
  .capability 3 0x000F s.moduleNumber c.val p.val Config.moduleSerial (replayDepth p.val) (grantedPools p.val)

/-- Step 6 of Table 10.6: the link comes UP with the peer's grants. -/
def State.linkUp (s : State) (c : Chan) (p : Nat) (k : Capability) : State :=
  (s.onLink c p (fun l => { Link.reset with
    state := 2, version := l.version, reason := l.reason, trained := true, peer := some k,
    features := l.features, tickets := (k.pools ++ [0, 0, 0, 0]).take 4, ser := l.ser, serAt := l.serAt,
    retrainedAt := l.retrainedAt })).uplinkChanged c p true

/-- The events of a peer that is not planned or does not match (Table 10.9). -/
def State.raiseUnplanned (s : State) (c : Chan) (p : Nat) (k : Capability) : State :=
  let s := s.raise c 0x0052 (leBytes 1 p ++ leBytes 4 k.peerWord)
  if planned (s.planOf c p) then s.raise c 0x0053 (leBytes 1 p ++ leBytes 4 (s.planOf c p)) else s

/-- A run of discovery on a port whose peer is known (R315, Table 10.9). -/
def State.discover (s : State) (c : Chan) (p : Nat) : State :=
  let l := (s.chan c).link p
  match l.peer with
  | none => s
  | some k =>
    if !l.trained || !(l.state == 1 || l.state == 2 || l.state == 3 || l.state == 7) then s
    else if s.matchesPlan c p k then
      (if l.state = 2 ∨ l.state = 7 then s else s.linkUp c p k)
    else
      let s' := if l.inService then (s.linkDown c p 3 8).raise c 0x0050 (leBytes 1 p ++ leBytes 1 8)
        else if l.state = 7 then s
        else s.onLink c p (fun l => { l with state := 3 })
      (s'.onLink c p (fun q => { q with trained := true, features := l.features })).raiseUnplanned c p k

/-- The link is taken to DOWN by a version or a round-trip time (R298, R311, Table 10.9). Log entry 56. -/
def State.linkRefused (s : State) (c : Chan) (p reason : Nat) : State :=
  (s.linkDown c p 0 reason).raise c 0x0051 (leBytes 1 p ++ leBytes 1 reason)

/-- SIGNAL_DETECTED (R309, R317). -/
def execSignalDetected (c : Chan) (p : Port) (s : State) : Host.Outcome State Fault Refusal :=
  .next (let k := (s.chan c).link p.val
    if (s.chan c).linksRun && s.portEnabled c p.val && [0, 1, 4, 5].contains k.state then
      s.onLink c p.val (fun k => { k with state := 1, trained := false, slowOffer := k.slowOffer && k.state == 1 })
    else s)

/-- TRAINING_RATE_SWITCH (R309). -/
def execTrainingRateSwitch (c : Chan) (p : Port) (s : State) : Host.Outcome State Fault Refusal :=
  .next (let k := (s.chan c).link p.val
    if (s.chan c).linksRun && k.state == 1 && !k.trained then
      s.onLink c p.val (fun k => { k with slowOffer := !k.slowOffer })
    else s)

/-- PMD_TRAINING_COMPLETE: with FEC lock the capability message goes out; without it the training failed and starts again
(R309, Table 10.10). -/
def execPmdTrainingComplete (c : Chan) (p : Port) (locked : Bool) (s : State) : Host.Outcome State Fault Refusal :=
  .next (let k := (s.chan c).link p.val
    if (s.chan c).linksRun && k.state == 1 && !k.trained then
      if locked then (s.onLink c p.val (fun k => { k with trained := true })).sendControl c p (s.capability c p)
      else s.onLink c p.val (fun k => { k with reason := 7 })
    else s)

/-- Longest round-trip time of a port, ns (R298). -/
def rttLimit (p : Nat) : Nat := if 34 ≤ p then 12000 else 3000

/-- CAPABILITY_MESSAGE (R298, R310, R311, R315). Log entry 56. -/
def execCapabilityMessage (c : Chan) (a : HeardControl) (cap : Capability) (s : State) : Host.Outcome State Fault Refusal :=
  .next (s.controlIn c a.port a.header (fun s =>
    if !((s.chan c).link a.port.val).trained then s
    else
      let t := s.onLink c a.port.val (fun l => { l with
        peer := some cap, version := min 3 cap.version, features := 0x000F#16 &&& cap.features })
      let t := if cap.version < 2 then t.linkRefused c a.port.val 5
        else if rttLimit a.port.val < cap.rttNs then t.linkRefused c a.port.val 6
        else t.discover c a.port.val
      t.watchDegraded s))

/-- DISCOVERY_TIMEOUT (Table 10.9). Log entry 100. -/
def execDiscoveryTimeout (c : Chan) (p : Port) (s : State) : Host.Outcome State Fault Refusal :=
  .next (let l := (s.chan c).link p.val
    if (s.chan c).linksRun && s.portEnabled c p.val && [0, 1, 5].contains l.state then
      if planned (s.planOf c p.val) then
        (s.onLink c p.val (fun l => { l with state := 4, trained := false })).raise c 0x0053
          (leBytes 1 p.val ++ leBytes 4 (s.planOf c p.val))
      else s.onLink c p.val (fun l => { l with state := 0, trained := false })
    else s)

/-- TRAINING_RETRY (R315). -/
def execTrainingRetry (c : Chan) (p : Port) (s : State) : Host.Outcome State Fault Refusal :=
  .next (let l := (s.chan c).link p.val
    if (s.chan c).linksRun && s.portEnabled c p.val && [0, 4, 5].contains l.state then
      s.onLink c p.val (fun l => { l with state := 1, trained := false, slowOffer := false })
    else s)

/-- LINK_FAILURE (R317, Table 10.10). -/
def execLinkFailure (c : Chan) (p : Port) (lossOfLock : Bool) (s : State) : Host.Outcome State Fault Refusal :=
  .next (let l := (s.chan c).link p.val
    if !(s.chan c).linksRun then s
    else if l.state = 1 then s.onLink c p.val (fun l => { l with trained := false })
    else if [2, 3, 7].contains l.state then s.linkFailed c p.val (if lossOfLock then 2 else 1)
    else s)

/-! ### GOODBYE (R319) -/

/-- Sends GOODBYE on a port that is UP (R319). -/
def State.sayGoodbye (s : State) (c : Chan) (p : Port) : State :=
  let l := (s.chan c).link p.val
  if l.inService && !l.goodbye then
    (s.onLink c p.val (fun l => { l with goodbye := true })).sendControl c p .goodbye
  else s

/-- Every port of a channel. -/
def allPorts : List Port := (List.range 42).map (fun i => Fin.ofNat 42 i)

/-- What comes before GOODBYE: the log goes to flash and a checkpoint is signed (R519, R520). -/
def State.beforeGoodbye (s : State) (c : Chan) : State :=
  (s.signChannel c).onChan c (fun h => { h with audit := h.audit.flush auditSize })

/-- Sends GOODBYE on every UP link. -/
def State.goodbyeAll (s : State) (c : Chan) : State :=
  if allPorts.any (fun p => ((s.chan c).link p.val).inService) then
    allPorts.foldl (fun s p => s.sayGoodbye c p) (s.beforeGoodbye c)
  else s

/-- The links of a channel leave service with its transmitters; LINK_DOWNS counts each that was UP (R317, R536). -/
def State.linksOff (s : State) (c : Chan) : State :=
  let s := allPorts.foldl (fun s p =>
    let l := (s.chan c).link p.val
    let s := if l.inService then s.bump c (kPort c p.val 0x0A) else s
    s.onLink c p.val (fun l => { Link.reset with state := if l.state = 6 then 6 else 0,
                                                 reason := if l.goodbye then 4 else l.reason, peer := l.peer })) s
  s.onNet c (fun n => { Transport.reset with links := n.links, unknownAt := n.unknownAt })

/-- The end of the wait after GOODBYE: the link is DOWN, or DISABLED, and its packets are re-forwarded (R319). -/
def State.goodbyeEnd (s : State) (c : Chan) (p : Nat) : State :=
  let l := (s.chan c).link p
  if l.goodbye then s.linkDown c p (if l.disable then 6 else 0) 4 else s

/-- GOODBYE_WAIT_END (R319): the U ports leave first, so that their notices still go out (R327). -/
def execGoodbyeWaitEnd (c : Chan) (s : State) : Host.Outcome State Fault Refusal :=
  .next (if !(s.chan c).linksRun then s
    else ((List.range 42).reverse.foldl (fun s p => s.goodbyeEnd c p) s).watchDegraded s)

/-- The rule of PORT_ENABLE (R319). -/
def State.setPortEnable (s : State) (c : Chan) (p : Port) (v : Nat) : State × Nat :=
  let l := (s.chan c).link p.val
  let t := s.storeEnt (0x5100 + 0x100 * c.val) (0x81 + p.val) v
  let t := if v = 0 then
      (if l.inService then
          ((t.beforeGoodbye c).onLink c p.val (fun l => { l with disable := true })).sayGoodbye c p
        else (t.linkDown c p.val 6 l.reason))
    else if l.state = 6 then t.onLink c p.val (fun l => { l with state := if (s.chan c).linksRun then 1 else 0 })
    else t.onLink c p.val (fun l => { l with disable := false })
  (t.watchDegraded s, 0)

/-- PORT_ENABLE_WRITE (R319). -/
def execPortEnableWrite (path : ReqPath) (c : Chan) (p : Port) (value : Byte) (s : State) : Host.Outcome State Fault Refusal :=
  .next (s.writeScalar path (0x5100 + 0x100 * c.val) (0x81 + p.val) 1 value.toNat (fun s => s.setPortEnable c p value.toNat))

/-- The rule of PLAN (R314, R315, R324). Log entry 65. -/
def State.setPlan (s : State) (c : Chan) (p : Port) (v : Nat) : State × Nat :=
  let v := Nat.land v 0x9FFFFFC0
  let peer := v / 2 ^ 14 % 32768
  let chan := v / 2 ^ 12 % 4
  let port := v / 2 ^ 6 % 64
  let k := p.val - 3
  let ok : Bool := !planned v ||
    (s.moduleNumber != 0xFFFF && decide (port < 42) &&
      (if p.val < 34 then
        decide (peer = s.block * 32 + (s.position + k + 1) % 32 ∧ chan = c.val ∧ port = 3 + (30 - k))
      else decide (peer / 32 ≠ s.block)))
  if !ok then (s, 0x03)
  else (((s.storeEnt (0x5100 + 0x100 * c.val) (1 + p.val) v).discover c p.val).watchDegraded s, 0)

/-- PLAN_WRITE (R324). -/
def execPlanWrite (path : ReqPath) (c : Chan) (p : Port) (value : Word) (s : State) : Host.Outcome State Fault Refusal :=
  .next (s.writeScalar path (0x5100 + 0x100 * c.val) (1 + p.val) 4 value.toNat (fun s => s.setPlan c p value.toNat))

/-- The rule of MODULE_NUMBER: discovery runs again on every port (R315). -/
def State.setModuleNumber (s : State) (v : Nat) : State × Nat :=
  let t := s.storeEnt 0x5000 0x01 v
  let t := [0, 1, 2, 3].foldl (fun (t : State) (c : Chan) =>
    if (t.chan c).linksRun then (List.range 42).foldl (fun t p => t.discover c p) t else t) t
  (t.watchDegraded s, 0)

/-- MODULE_NUMBER_WRITE (R315). -/
def execModuleNumberWrite (path : ReqPath) (value : Half) (s : State) : Host.Outcome State Fault Refusal :=
  .next (s.writeScalar path 0x5000 0x01 2 value.toNat (fun s => s.setModuleNumber value.toNat))

/-- UPLINK_NOTICE (R327): applied and relayed once. -/
def execUplinkNotice (c : Chan) (a : HeardControl) (notice : Notice) (s : State) : Host.Outcome State Fault Refusal :=
  .next (s.controlIn c a.port a.header (fun s =>
    let h := s.chan c
    let seen : Bool := match mget none (noticeKey notice) h.net.noticeSeen with
      | some q => !decide (0 < (notice.sequence - q).toNat ∧ (notice.sequence - q).toNat < 32768)
      | none => false
    if (h.link a.port.val).state != 2 || a.port.isU || seen then s
    else
      let s := s.onNet c (fun t => { (t.applyNotice notice) with
        noticeSeen := mset none (noticeKey notice) (some notice.sequence) t.noticeSeen })
      (s.bump c (odKey (0x5010 + c.val) 0x22)).spreadNotice c notice (if a.port.isM then bPorts else mPorts)))

/-! ### Recalibration (06 R188 to R191) -/

/-- 0.125 K units as a value. -/
def eighths (n : Nat) : Fp := .fin false n (-3)

/-- An eye measurement: LINK_EYE, and the event when it lies below a minimum (R191); whether it does. -/
def State.eye (s : State) (c : Chan) (p width height : Nat) : State × Bool :=
  let s := s.setEnt (kLinkCal c (1 + p)) (width % 65536 * 65536 + height % 65536)
  let low : Bool := decide (width < s.ent (kLinkCal c 0xF1)) || decide (height < s.ent (kLinkCal c 0xF2))
  (if low then s.raise c 0x0055 (leBytes 1 p ++ leBytes 2 width ++ leBytes 2 height) else s, low)

/-- PRE_FEC_SER with its event, at most one a minute (R322); the bound is 1 × 10⁻⁵. -/
def State.noteSer (s : State) (c : Chan) (p : Nat) (ser : Word) : State :=
  let s := s.onLink c p (fun l => { l with ser := ser })
  let now := (s.chan c).clock.timebase
  let high := Fp.gt (f32 ser.toNat) (Fp.divRound fp32 .nearest Fp.one (.fin false 100000 0))
  let quiet : Bool := match ((s.chan c).link p).serAt with
    | some t => decide ((now - t).toNat < 6000000000)
    | none => false
  if !high then s.onLink c p (fun l => { l with serAt := none })
  else if quiet then s
  else (s.onLink c p (fun l => { l with serAt := some now })).raise c 0x0056 (leBytes 1 p ++ leBytes 4 ser.toNat)

/-- Whether the last eye measurement of a link lies below a minimum (R188); a link never measured has LINK_EYE 0. -/
def State.eyeLow (s : State) (c : Chan) (p : Nat) : Bool :=
  let v := s.ent (kLinkCal c (1 + p))
  v != 0 && (decide (v / 65536 < s.ent (kLinkCal c 0xF1)) || decide (v % 65536 < s.ent (kLinkCal c 0xF2)))

/-- LINK_EYE_MEASURE (R188, R191, R322): the eye of a link that carries traffic is measured; that one is due whose temperature has
moved by more than LINK_CAL_THRESHOLD since its last calibration, or whose last measurement was low. A QUARANTINED link carries no
traffic, and takes part by its temperature and its last measurement (R315). Log entry 65. -/
def execLinkEyeMeasure (c : Chan) (p : Port) (width height : Nat) (islandTemp : Nat) (ser : Word) (s : State) :
    Host.Outcome State Fault Refusal :=
  .next (let up := ((s.chan c).link p.val).state == 2
    if !(s.chan c).linksRun || !(up || ((s.chan c).link p.val).state == 3) then s
    else
      let s := s.noteSer c p.val ser
      let r := if up then s.eye c p.val width height else (s, s.eyeLow c p.val)
      let l := (r.1.chan c).link p.val
      let base := l.calTemp.getD islandTemp
      let moved := Fp.gt (eighths (max base islandTemp - min base islandTemp)) (f32 (r.1.ent (kLinkCal c 0xF0)))
      let due := moved || r.2
      r.1.onLink c p.val (fun l => { l with calTemp := some base, islandTemp := some islandTemp, due := due, deferredAt := if due then l.deferredAt else none }))

/-- Links of a channel under recalibration (R189). -/
def Channel.recalibrating (h : Channel) : Nat := ((List.range 42).filter (fun p => (h.link p).state == 7)).length

/-- Packets that wait on a port move to the other routes (Table 6.5, step 2). -/
def State.moveTraffic (s : State) (c : Chan) (p : Nat) : State :=
  let q := ((s.chan c).link p).queue
  q.foldl (fun s e => s.sendPacket c e.pkt e.source) (s.onLink c p (fun l => { l with queue := [] }))

/-- Step 2 of Table 6.5 at either end: the link leaves service and its traffic moves to other links, with the uplink notice of a U
link (R327). With `keep` no other route exists: its packets wait on it (R190). Log entry 65. -/
def State.beginRecal (s : State) (c : Chan) (p : Nat) (keep : Bool) : State :=
  let up := ((s.chan c).link p).state == 2
  let now := (s.chan c).clock.timebase
  let s := s.onLink c p (fun l => { l with
    state := 7, recalUp := up, asking := false, deferredAt := if keep then l.deferredAt <|> some now else none })
  if keep then s else (if up then s.uplinkChanged c p false else s).moveTraffic c p

/-- Asks the peer for a recalibration; with its acknowledgement the link leaves service, and a version-2 peer gets its retrain
request for step 4 (R189, Table 10.7). -/
def State.askRecal (s : State) (c : Chan) (p : Port) (acked keep : Bool) (answer : Received) : State :=
  (s.sendControl c p .recalRequest).controlIn c p answer (fun t =>
    if !acked then t.onLink c p.val (fun l => { l with asking := true, deferredAt := if keep then l.deferredAt else none })
    else
      let u := t.beginRecal c p.val keep
      (if ((u.chan c).link p.val).version = 2 then u.sendControl c p .retrainRequest else u).watchDegraded s)

/-- The address at the far end of a link. -/
def Link.peerAddress (k : Link) : Nat :=
  match k.peer with
  | some q => q.moduleNumber % 32768 * 4 + q.channel % 4
  | none => 0

/-- Whether the traffic of a link has another route (R190). -/
def State.otherRoute (s : State) (c : Chan) (p : Nat) : Bool × State :=
  let l := (s.chan c).link p
  let r := (s.onLink c p (fun l => { l with state := 0 })).drawFree
  if 34 ≤ p then
    (decide (1 < ((s.chan c).exits (addrBlock l.peerAddress)).length), s)
  else ((r.2.routeAt false r.1 c (s.address c) l.peerAddress).isSome, { s with free := r.2.free })

/-- LINK_RECAL_START (R189, R190). -/
def execLinkRecalStart (c : Chan) (p : Port) (answer : RecalAnswer) (s : State) : Host.Outcome State Fault Refusal :=
  .next (let h := s.chan c
    let l := h.link p.val
    if !(h.linksRun && (l.state == 2 || l.state == 3) && l.due && !l.asking && !l.retraining && !l.goodbye
        && decide (h.recalibrating < 4) && !s.serviceWaits c) then s
    else
      let r := s.otherRoute c p.val
      if r.1 || l.state == 3 then r.2.askRecal c p answer.acked false answer.header
      else (r.2.onLink c p.val (fun l => { l with deferredAt := l.deferredAt <|> some h.clock.timebase })).bump c
        (kLinkCal c 0x6B))

/-- LINK_RECAL_RETRY: 1 ms after the peer refused, the request is sent again (R189). -/
def execLinkRecalRetry (c : Chan) (p : Port) (answer : RecalAnswer) (s : State) : Host.Outcome State Fault Refusal :=
  .next (let h := s.chan c
    let l := h.link p.val
    if h.linksRun && (l.state == 2 || l.state == 3) && l.asking && !l.retraining && !l.goodbye
        && decide (h.recalibrating < 4) then
      s.askRecal c p answer.acked l.deferredAt.isSome answer.header
    else s)

/-- Whether the interval of R190 runs: a step commit has ended at least LINK_CAL_DEFER_LIMIT after the deferral, and no packet of a
later step has been sent. -/
def State.recalInterval (s : State) (c : Chan) (l : Link) : Bool :=
  let k := (s.chan c).coll
  match l.deferredAt, k.committedAt with
  | some t, some done =>
    decide (t.toNat + s.ent (kLinkCal c 0xF3) * 100000000 ≤ done.toNat)
      && k.runs.all (fun r => !r.converted) && k.steps.all (fun q => !q.prepared && q.normSent.isEmpty)
  | _, _ => false

/-- LINK_RECAL_FORCED: a deferred recalibration that may wait no longer (R190). -/
def execLinkRecalForced (c : Chan) (p : Port) (answer : RecalAnswer) (s : State) : Host.Outcome State Fault Refusal :=
  .next (let h := s.chan c
    let l := h.link p.val
    if h.linksRun && l.state == 2 && l.due && s.recalInterval c l && !l.asking && !l.retraining && !l.goodbye
        && decide (h.recalibrating < 4) then
      s.askRecal c p answer.acked true answer.header
    else s)

/-- LINK_RECAL_REQUEST: acknowledged, or refused at the channel's limit (R189). An end without another route keeps its packets
(R190). -/
def execLinkRecalRequest (c : Chan) (a : HeardControl) (s : State) : Host.Outcome State Fault Refusal :=
  .next (s.controlIn c a.port a.header (fun s =>
    let h := s.chan c
    let l := h.link a.port.val
    if !(l.state == 2 || l.state == 3) then s
    else if decide (h.recalibrating < 4) && !l.goodbye then
      let q := s.otherRoute c a.port.val
      ((q.2.sendControl c a.port .recalAck).beginRecal c a.port.val (l.state == 2 && !q.1)).watchDegraded s
    else s.sendControl c a.port .recalRefuse))

/-- The link returns to service: UP, or QUARANTINED where it was so; discovery follows where its plan has changed (Table 6.5, step 6,
R315, R327). -/
def State.endRecal (s : State) (c : Chan) (p : Nat) (low : Bool) : State :=
  let l := (s.chan c).link p
  let t := s.onLink c p (fun l => { l with
    state := if l.recalUp then 2 else 3, recalUp := false, asking := false, due := low, deferredAt := none, calTemp := l.islandTemp })
  let t := if l.recalUp && l.deferredAt.isNone then t.uplinkChanged c p true else t
  let matched := (l.peer.map (fun k => s.matchesPlan c p k)).getD false
  if matched = l.recalUp then t else t.discover c p

/-- LINK_RECALIBRATION_COMPLETE (Table 6.5, steps 3 to 6). Log entry 65. -/
def execLinkRecalibrationComplete (c : Chan) (p : Port) (ok : Bool) (width height : Nat) (s : State) :
    Host.Outcome State Fault Refusal :=
  .next (let l := (s.chan c).link p.val
    if !(s.chan c).linksRun || l.state != 7 then s
    else if !ok then
      let r := s.drawFree
      r.2.linkFailed c p.val (Config.fresh r.1 % 256)
    else
      let t := (s.bump c (kLinkCal c (0x41 + p.val))).eye c p.val width height
      (t.1.endRecal c p.val t.2).watchDegraded s)

end Sys2Proof.Machine
end

