-- ==== Sys2Proof/Machine/Boot.lean ====
section
/-!
DEFINITION. Image sets, secure boot and rollback (15 R440, R441, R444; 18 R500 to R503), the authentication and the attach
of cartridges (18 R506; 04 R133; 05 R171; 19 R529), and the latches (01 R31).
-/

namespace Sys2Proof

/-- AUTH_RESULT of one authentication: its first failing check, or 1 (R506). -/
def AuthAnswer.result (a : AuthAnswer) : Nat :=
  if !a.chainOk then 2 else if !a.partOk then 3 else if !a.tagsOk then 5 else if !a.answered then 6
  else if !a.signatureOk then 4 else 1

end Sys2Proof

namespace Sys2Proof.Machine

/-! ### Image sets (R440, R441) -/

/-- A little-endian field of `n` bytes at byte `o`. -/
def fieldOf (b : List Byte) (o n : Nat) : Nat := leNat ((b.drop o).take n)

/-- SET_VERSION of a set (Table 15.4). -/
def setVersion (b : List Byte) : Nat := fieldOf b 4 4

/-- SECURITY_VERSION of a set. -/
def setSecurity (b : List Byte) : Nat := fieldOf b 8 4

/-- Bytes of the signature of a set (R440). -/
def setSignature : Nat := 29792

/-- The image directory of a set (R440). -/
def setImages (b : List Byte) : List (List Byte) :=
  (List.range (fieldOf b 2 2)).map (fun i => (b.drop (64 + 96 * i)).take 96)

/-- How often a directory holds a kind. -/
def kindCount (l : List (List Byte)) (k : Nat) : Nat := (l.filter (fun e => fieldOf e 0 1 == k)).length

/-- SET_TYPE, LENGTH and the kinds of a set for a die: 0 to 3 a channel, 4 the port complex (R441). -/
def setFormatOk (die : Nat) (b : List Byte) : Bool :=
  let len := fieldOf b 24 8
  let n := fieldOf b 2 2
  let dir := setImages b
  decide (64 ≤ b.length) && (fieldOf b 0 2 == if die = 4 then 0x00F2 else 0x00F1) && decide (1 ≤ n ∧ n ≤ 16)
    && decide (len ≤ b.length) && decide (len ≤ if die = 4 then 0x800000 else 0x1E00000)
    && decide (64 + 96 * n + setSignature ≤ len)
    && (if die = 4 then kindCount dir 0x10 == 1 else [1, 2, 3, 4, 5].all (fun k => kindCount dir k == 1))
    && dir.all (fun e => decide (fieldOf e 8 8 + fieldOf e 16 8 ≤ len))

/-- Every image of a set matches its digest (R441). -/
def setDigestsOk (b : List Byte) : Bool :=
  (setImages b).all (fun e => shake256 ((b.drop (fieldOf e 8 8)).take (fieldOf e 16 8)) 64 == (e.drop 32).take 64)

/-- The first unrevoked FW_KEY slot, ascending, under which a set's signature verifies (R503). -/
def setKey (die revoked : Nat) (b : List Byte) : Option Nat :=
  let len := fieldOf b 24 8
  let body := b.take (len - setSignature)
  let sig := (b.drop (len - setSignature)).take setSignature
  [0, 1, 2, 3].find? (fun k => !revoked.testBit k && Config.slhVerify (sized 64 (Config.fwKey die k)) body sig)

/-- Every range of a set has its lowest version at or below its highest (R441). -/
def setRangesOk (b : List Byte) : Bool :=
  [12, 16, 20].all (fun o => decide (fieldOf b o 2 ≤ fieldOf b (o + 2) 2))

/-- The check of R441, in the order of its list: FW_RESULT, 0 when the set is accepted, and the key slot. Log entry 66. -/
def checkSet (die revoked minimum : Nat) (b : List Byte) : Nat × Nat :=
  if !setFormatOk die b then (3, 0)
  else if !setDigestsOk b then (2, 0)
  else match setKey die revoked b with
    | none => (1, 0)
    | some k =>
      if setSecurity b < minimum || 63 < setSecurity b then (4, k)
      else if !setRangesOk b then (3, k)
      else (0, k)

/-! ### Banks -/

/-- Bank `i` of a die's flash. -/
def Firmware.bank (f : Firmware) (i : Nat) : Bank := if i = 0 then f.bank0 else f.bank1

/-- The firmware part with bank `i` replaced. -/
def Firmware.setBank (f : Firmware) (i : Nat) (b : Bank) : Firmware :=
  if i = 0 then { f with bank0 := b } else { f with bank1 := b }

/-- Bank `i` counts as not verified. -/
def Firmware.unverify (f : Firmware) (i : Nat) : Firmware := f.setBank i { f.bank i with verified := false }

/-- Whether a bank boots: a verified set whose key slot stands and whose SECURITY_VERSION is not below the minimum (R501,
R503). -/
def Firmware.bootable (f : Firmware) (i : Nat) : Bool :=
  (f.bank i).verified && !f.revoked.testBit (f.bank i).keySlot && decide (f.securityMin ≤ setSecurity (f.bank i).image)

/-- FW_RESULT of a bank that does not boot. -/
def Firmware.bankFault (f : Firmware) (i : Nat) : Nat :=
  if f.revoked.testBit (f.bank i).keySlot then 1 else if setSecurity (f.bank i).image < f.securityMin then 4 else 2

/-- A die by its number in keys and signatures: a channel, or 4 for the port complex. -/
def dieNumber (die : Option Chan) : Nat :=
  match die with
  | some c => c.val
  | none => 4

/-- The firmware part of a channel, or of the port complex. -/
def State.dieFw (s : State) (die : Option Chan) : Firmware :=
  match die with
  | some c => (s.chan c).fw
  | none => s.module.fw

/-- The firmware part of a die replaced. -/
def State.setDieFw (s : State) (die : Option Chan) (f : Firmware) : State :=
  match die with
  | some c => s.onChan c (fun h => { h with fw := f })
  | none => { s with module := { s.module with fw := f } }

/-- An event of a die. -/
def State.raiseDie (s : State) (die : Option Chan) (code : Nat) (data : List Byte) : State :=
  match die with
  | some c => s.raise c code data
  | none => s.raisePort 0 code data

/-- A counter that only a channel has. -/
def State.bumpDie (s : State) (die : Option Chan) (key : Chan → Nat) : State :=
  match die with
  | some c => s.bump c (key c)
  | none => s

/-- The end of a trial in rollback (R444): the failed bank is not verified, FAILED with its result, and the event. -/
def State.rollback (s : State) (die : Option Chan) (result : Nat) : State :=
  let f := s.dieFw die
  let failed := 1 - f.active
  let version := setVersion (f.bank failed).image
  let s := s.setDieFw die { (f.unverify failed) with state := 5, result := result, trial := 0, running := f.active }
  (s.bumpDie die (fun c => kFw c 0x21)).raiseDie die 0x00B4 (leBytes 4 version ++ leBytes 1 result)

/-! ### Secure boot (R500, R501) -/

/-- What a boot finds of an update: a trial that was not confirmed is rolled back (R444); a bank that was being written is not
verified and the update has failed (Table 15.6); any other progress is volatile (Table 19.1). -/
def State.settleUpdate (s : State) (die : Option Chan) : State :=
  let f := s.dieFw die
  if f.trial = 3 then s.rollback die 6
  else if f.state = 4 ∨ f.trial = 2 then s.rollback die 7
  else if f.state = 2 then
    s.setDieFw die { (f.unverify (1 - f.active)) with state := 5, result := 5, staged := [], incoming := [], trial := 0 }
  else s.setDieFw die { f with state := 0, result := 0, staged := [], incoming := [] }

/-- SECURE_BOOT_FAILED at step 3 for a bank, with BOOT_FAILURES. -/
def State.bootFailed (s : State) (die : Option Chan) (bank : Nat) : State :=
  let fault := (s.dieFw die).bankFault bank
  (s.raiseDie die 0x00C0 (leBytes 1 bank ++ leBytes 1 3 ++ leBytes 1 fault)).bumpDie die
    (fun c => odKey (0x1110 + c.val) 0x40)

/-- The audit record of a boot: INDEX holds the active SET_VERSION, which a trial does not change (Table 18.8). -/
def State.auditBoot (s : State) (die : Option Chan) : State :=
  let f := s.dieFw die
  s.auditRecord die ⟨5, 0, 2, 0, setVersion (f.bank f.active).image % 65536, 0, 0, 0, 0, [], []⟩

/-- A bank boots; `fallback` says that another one failed. Log entry 48. -/
def State.bootFrom (s : State) (die : Option Chan) (bank : Nat) (fallback trial : Bool) : State :=
  let f := s.dieFw die
  let s := s.setDieFw die { f with running := bank, bootState := if fallback then 1 else 0,
                                   trial := if trial then 2 else f.trial }
  let s := if fallback then s.raiseDie die 0x00C1 (leBytes 1 bank) else s
  s.auditBoot die

/-- Boots a die from its active bank, or from the other one (R501); whether a bank boots. -/
def State.bootActive (s : State) (die : Option Chan) (failed : Bool) : State × Bool :=
  let f := s.dieFw die
  if f.bootable f.active then (s.bootFrom die f.active failed false, true)
  else
    let s := s.bootFailed die f.active
    if f.bootable (1 - f.active) then (s.bootFrom die (1 - f.active) true false, true)
    else (s.setDieFw die { (s.dieFw die) with bootState := 2 }, false)

/-- Secure boot of a die (Table 18.4): its keys are derived (step 2) and a bank is checked (step 3); a trial boots the inactive bank, and rolls back when it does not (R444). The second
component says whether a bank boots, the third whether the first bank tried failed. -/
def State.secureBoot (s : State) (die : Option Chan) : State × Bool × Bool :=
  let s := s.settleUpdate die
  let s := s.setDieFw die { (s.dieFw die) with keys := some (deriveKeys (dieNumber die)) }
  let f := s.dieFw die
  if f.trial = 1 then
    if f.bootable (1 - f.active) then (s.bootFrom die (1 - f.active) false true, true, false)
    else
      let r := ((s.bootFailed die (1 - f.active)).rollback die 6).bootActive die true
      (r.1, r.2, true)
  else
    let r := s.bootActive die false
    (r.1, r.2, !f.bootable f.active)

/-! ### Losing power, and what a start initialises (Table 19.1, R529) -/

/-- The cartridge supply of a slot ends: SLOT_STATUS 1 with a cartridge, 0 without. -/
def SlotState.unpower (y : SlotState) : SlotState := { y with status := if y.present then 1 else 0, sweep := none }

/-- What the channel holds of a slot is lost; the cartridge's own stores stay (R133, R167). -/
def SlotState.detach (y : SlotState) : SlotState :=
  { y.unpower with attached := false, authResult := 0, certificate := [], serial := 0, ledgerDigest := [], temp := none,
                   triggerLost := false, lastSweepEnd := 0 }

/-- The volatile state of a channel is lost, with HBM or without it (Table 16.1, R198, R529). Log entry 7. -/
def Channel.darken (h : Channel) (keepHbm : Bool) : Channel :=
  { h with clock := Clock.reset, perf := Perf.reset, metro := Metro.reset,
           mem := if keepHbm then h.mem.filter (fun p => decide (p.1 < hbmSize)) else [],
           storeErr := [], slotA := h.slotA.detach, slotB := h.slotB.detach, arrays := Arrays.reset, jobs := [],
           lastStep := 0, training := Training.reset, net := Transport.reset, groups := [], refusals := [],
           coll := Collective.reset, safety := Safety.reset, host := HostPart.reset,
           attest := ⟨List.replicate 32 0, false, none⟩, selfTest := none }

/-- Whether a start of a channel keeps the value of an entry: another die's, a persistent one, and at a warm start the limit
registers and the last self-test result (Table 19.1, R464, R479, R540). -/
def keepsEntry (c : Chan) (cold : Bool) (key : Nat) : Bool :=
  let index := key / 256
  let sub := key % 256
  match servedBy index with
  | some (some d) =>
    d != c || (match odFind index sub with
      | some r => r.persistent
      | none => false)
      || (!cold && ((index == 0x2000 + 0x100 * c.val && (sub == 3 || sub == 4 || sub == 5))
        || (index == 0x7100 + 0x100 * c.val && (sub == 0x35 || sub == 0x36))))
  | _ => true

/-- The volatile entries of a channel take their defaults (Table 19.1). -/
def State.resetEntries (s : State) (c : Chan) (cold : Bool) : State :=
  { s with od := s.od.filter (fun p => keepsEntry c cold p.1) }

/-- The timebase of a channel at its start (R59): every field of TIMEBASE_STATUS but LOADED at its reset value (R61). -/
def startClock (s : State) : Clock :=
  { Clock.reset with timebase := s.module.clock.timebase,
                     status := { TbStatus.reset with loaded := s.module.clock.status.loaded } }

/-- A channel that has started and finds no reference acts as when it stops (R548, R58). Log entry 71. -/
def State.checkReference (s : State) (c : Chan) : State :=
  let k := (s.chan c).clock
  if s.module.refPresent then s else s.chanClock c k.lost (some (0x0012, leBytes 8 k.timebase.toNat))

/-- Raises TIMEBASE_LOADED when the value taken at the start lies before the last stored audit record (R59). Log entry 71. -/
def State.judgeClock (s : State) (c : Chan) : State :=
  let h := s.chan c
  match h.audit.storedTime with
  | some t =>
    if (h.clock.timebase - t).toInt < 0 then
      s.raise c 0x0010 (leBytes 8 t.toNat ++ leBytes 8 h.clock.timebase.toNat)
    else s
  | none => s

/-! ### The attach of a cartridge (R133, R171, R506, R529) -/

/-- An entry as R133 adjusts it at an attach, and at a start R529; PAIR_VALID is 0. -/
def DirEntry.rebuilt (d : DirEntry) (spare start : Bool) : DirEntry :=
  let d := { d with pairValid := false, pair := 0 }
  match d.state with
  | .loading => if spare then { d with state := .spare, relapse := false, wasSuspect := false } else d.toState .free
  | .calibrating =>
    if spare then { d with state := if d.wasSuspect then .suspect else .spare, wasSuspect := false }
    else if start then d.toState .free
    else { d with state := if d.wasSuspect then .suspect else .programmed, wasSuspect := false }
  | .programmed => if start && !spare then d.toState .free else d
  | .suspect => if start && !spare then d.toState .free else d
  | .frozen => if start && !spare then d.toState .free else d
  | _ => d

/-- A slot whose entries have been rebuilt from the cartridge (R133, R529). Log entry 68. -/
def SlotState.rebuild (y : SlotState) (start : Bool) : SlotState :=
  y.dir.foldl (fun y e => y.setEntry e.1 (e.2.rebuilt (e.1 % 16 == 15) start)) y

/-- The program of a spare entry's tile in the attach sequence (R133): its count, and frozen at the tile rating (R168). No
program starts on a tile whose count has reached the rating. Log entry 69. -/
def State.attachPark (s : State) (c : Chan) (sp : Nat) : State :=
  let side := sp / slotEntries
  let tile := (s.chan c).tileOf sp
  let s := if tileRating ≤ ((s.chan c).slot side).count tile then s
    else (s.countProgram c side tile).onChan c (fun h => h.writeHeader sp 0x3F80#16 0#8 true [])
  if tileRating ≤ ((s.chan c).slot side).count tile then s.onChan c (fun h => h.toState sp .frozen) else s

/-- Position of the tile that the spare entry of a group holds. -/
def SlotState.sparePos (y : SlotState) (g : Nat) : Nat := (mget (homeEntry (16 * g + 15)) (16 * g + 15) y.dir).pos

/-- The directory of a cartridge that was bound elsewhere (R171): every data entry free, every spare entry spare after its
tile has been parked; the tiles stay where they are. -/
def SlotState.rebind (y : SlotState) : SlotState :=
  let groups := List.range 16384
  let tile := fun (g : Nat) => 16 * g + y.sparePos g
  let full := groups.filter (fun g => decide (tileRating ≤ y.count (tile g)))
  let parks := 16384 - full.length
  let moved := groups.filter (fun g => y.sparePos g != 15)
  let add := fun (m : Map Int) (t : Nat) (n : Int) => mset 0 t (mget 0 t m + n) m
  let counts := moved.foldl (fun m g => add (add m (tile g) 1) (16 * g + 15) (-1)) y.counts
  let counts := full.foldl (fun m g => add m (tile g) (-1)) counts
  let fresh := y.dir.foldl (fun m e =>
    mset (homeEntry e.1) e.1 { (homeEntry e.1) with pos := e.2.pos } m) ([] : Map DirEntry)
  let z := { y with counts := counts, homeParks := y.homeParks + 1, dir := fresh, total := y.total + parks,
                    hourNow := y.hourNow + parks,
                    headers := y.headers.filter (fun p => decide (p.1 % 16 ≠ y.sparePos (p.1 / 16))),
                    cells := y.cells.filter (fun p => decide (p.1 % 16 ≠ y.sparePos (p.1 / 16))) }
  (groups.filter (fun g => decide (tileRating ≤ z.count (tile g)))).foldl (fun z g =>
    z.setEntry (16 * g + 15) { (homeEntry (16 * g + 15)) with state := .frozen, pos := z.sparePos g }) z

/-- Attaches an authenticated cartridge: its directory, its binding, and the attach sweep that begins (R133, R171, R186).
Log entry 68. -/
def State.attach (s : State) (c : Chan) (side : Nat) (start : Bool) : State :=
  let y := (s.chan c).slot side
  let s :=
    if y.bound ≠ some c.val then
      let z := y.rebind
      let s := s.onChan c (fun h => h.setSlot side { z with attached := true, bound := some c.val })
      (s.bumpBy c (kArr c 0x2D) (z.total - y.total)).wearCheck c side
    else if y.attached then s
    else
      let parks := (y.dir.filter (fun e => e.1 % 16 == 15 && e.2.state == .loading)).map (fun e => slotEntries * side + e.1)
      let s := s.onChan c (fun h => h.setSlot side { (y.rebuild start) with attached := true })
      parks.foldl (fun s sp => s.attachPark c sp) s
  s.onChan c (fun h => h.setSlot side { (h.slot side) with status := 5, sweep := some 0 })

/-- Whether another channel holds a group. -/
def State.othersHoldGroup (s : State) (c : Chan) : Bool :=
  [0, 1, 2, 3].any (fun (d : Chan) => d != c && !(s.chan d).groups.isEmpty)

/-- A slot left without an authenticated cartridge (R133): its entries are free, and what the cartridge records stays. -/
def State.leaveSlot (s : State) (c : Chan) (side status : Nat) : State :=
  s.onChan c (fun h => h.setSlot side { (h.slot side) with attached := false, sweep := none, status := status })

/-- A page of the wear ledger of a slot's cartridge (R167, R505). Log entry 129. -/
def SlotState.page (y : SlotState) (i : Nat) : List Byte :=
  sized 1024 (Config.ledgerPage i y.count y.ledgerTotal y.hours y.hourNow y.thresholds y.bound y.poweredHours)

/-- The tag of a page: 32 bytes under the ledger key. The base die rewrites it with every update of the page, so that it is at
every moment the tag of what the page holds (R505). -/
def SlotState.pageTag (y : SlotState) (i : Nat) : List Byte :=
  kmac256 false (ledgerKey y.cart) (leBytes 4 i ++ y.page i) 32 (ascii "KLN-LEDGER")

/-- The ledger digest: SHAKE256 of every page and its tag, in ascending page index (R505). -/
def SlotState.ledgerSum (y : SlotState) : List Byte :=
  shake256 ((List.range Config.ledgerPages).flatMap (fun i => y.page i ++ y.pageTag i)) 64

/-- The 128-byte statement that the base die of a slot signs (Table 18.5, step 3). -/
def SlotState.statement (y : SlotState) (c : Chan) (challenge : List Byte) : List Byte :=
  challenge ++ y.ledgerSum ++ leBytes 8 (Config.cartridgeSerial y.cart).toNat ++ leBytes 8 Config.moduleSerial.toNat
    ++ leBytes 1 c.val ++ List.replicate 15 0#8

/-- Step 3 of Table 18.5 (R506): the channel's challenge of 32 random bytes, and what the base die answers once every page tag has
verified: its statement, signed with the cartridge's identity key. -/
def State.challengeCart (s : State) (c : Chan) (side : Nat) : State :=
  let r := s.drawFree
  let y := (s.chan c).slot side
  let st := y.statement c (leBytes 32 (Config.fresh r.1))
  r.2.emit (.attachStatement (slotNumber c side) st (sized 49856 (Config.slhSign (identityKey (5 + y.cart)).2 st)))

/-- The supply of a slot returns (Table 19.3, step 5; R457): authentication and attach; whether it was tried and failed. -/
def State.powerSlot (s : State) (c : Chan) (side : Nat) (a : AuthAnswer) (start : Bool) : State × Bool :=
  let y := (s.chan c).slot side
  if !y.latchClosed || !y.present then (s.leaveSlot c side (if y.present then 1 else 0), false)
  else if s.ent (odKey 0x8000 0x02) = 0 ∧ y.bound ≠ some c.val ∧ s.othersHoldGroup c then (s.leaveSlot c side 1, false)
  else
    let s := s.onChan c (fun h => h.setSlot side { (h.slot side) with serial := Config.cartridgeSerial y.cart })
    let s := if a.chainOk && a.partOk && a.tagsOk && a.answered then s.challengeCart c side else s
    if a.result ≠ 1 then
      let s := (s.leaveSlot c side 4).onChan c (fun h => h.setSlot side { (h.slot side) with authResult := a.result })
      ((s.bump c (odKey (0x1110 + c.val) 0x41)).raise c 0x00C2 (leBytes 1 (slotNumber c side) ++ leBytes 1 a.result), true)
    else
    let s := s.onChan c (fun h => h.setSlot side { (h.slot side) with
      authResult := 1, certificate := cartridgeCert y.cart, ledgerDigest := y.ledgerSum })
    (s.attach c side start, false)

/-! ### The safe state (R466, R536, R539) -/

/-- Array executions with a read in flight end with status 0x03 when the cartridge supply goes (R31, R466). Log entry 61. -/
def State.endReads (s : State) (c : Chan) : State :=
  let ids := (s.chan c).arrays.reads.filterMap (fun r => match r.phase with
    | .active _ _ _ _ _ => some r.job
    | .waiting => none)
  let s := s.onArrays c (fun a => { a with reads := a.reads.filter (fun r => !ids.contains r.job),
                                           deferred := a.deferred.filter (fun d => !ids.contains d.job) })
  (s.chan c).jobs.foldl (fun s j => if ids.contains j.id then s.failJob c j 0x03 0 0 else s) s

/-- A region that a test has not restored (R539): what a store slice then holds is not stated (Table 19.5; log entry 32). -/
def Channel.spoilRegion (h : Channel) (region n : Nat) : Channel :=
  if 0x20 ≤ region ∧ region < 0x30 then
    h.write (storeBase + 0x1000000 * (region - 0x20)) (leBytes 0x1000000 (Config.fresh n))
  else h

/-- A self-test on demand is aborted with result 4 (R539). -/
def State.abortTest (s : State) (c : Chan) : State :=
  match (s.chan c).selfTest with
  | none => s
  | some t =>
    let r := s.drawFree
    let s := r.2.onChan c (fun h => { h.spoilRegion t.region r.1 with selfTest := none })
    let s := s.setEnt (kFw c 0x34) 0
    let s := s.setEnt (kFw c 0x35) (4 + t.region * 256 + (if t.compat then 65536 else 0))
    let s := s.setEnt (kFw c 0x37) (s.chan c).clock.timebase.toNat
    (s.bump c (kFw c 0x24)).raise c 0x00D2 (leBytes 1 t.region ++ leBytes 1 (if t.compat then 1 else 0) ++ leBytes 1 4
      ++ leBytes 4 (s.ent (kFw c 0x36)))

/-- Cartridge supply of both slots is removed without warning: work on tiles under way is lost. -/
def State.cutSupply (s : State) (c : Chan) : State :=
  let s := s.endReads c
  s.onChan c (fun h =>
    let cut := fun (y : SlotState) => if h.power.cartSupply then y.unpower else y
    { h with power := { h.power with cartSupply := false }, slotA := cut h.slotA, slotB := cut h.slotB,
             arrays := { h.arrays with progs := [], cals := [] } })

/-- The channel enters its safe state with a cause of Table 19.6 (R536); with one held already nothing changes. -/
def State.enterSafe (s : State) (c : Chan) (cause : Nat) : State :=
  let h := s.chan c
  if h.safe || !h.up then s
  else
    let s := if 4 ≤ cause ∧ cause ≤ 7 then s.goodbyeAll c else s
    let s := (s.linksOff c).cutSupply c
    let s := s.onChan c (fun h => { h with power := { h.power with
      safeCause := cause, inTransition := false, stepTo := h.power.state, booting := none, waiting := 0, ready := false,
      coreMillivolt := 600 } })
    let s := { s with module := { s.module with rampQueue := s.module.rampQueue.filter (fun d => d != c) } }
    s.raiseBoth c 0x0023 (leBytes 1 c.val ++ leBytes 2 cause)

/-! ### Latches (R30, R31, R560, R561) -/

/-- A cartridge that no slot of the module has held: its stores as delivered (R171, log entry 11). -/
def SlotState.fitted (y : SlotState) (cart : Nat) : SlotState :=
  { y with cart := cart, dir := [], headers := [], cells := [], cal := [], counts := [], homeParks := 0, total := 0, hours := [],
           hourNow := 0, thresholds := 0, bound := none, poweredHours := 0 }

/-- The slots of the module, as channel and side. -/
def allSlots : List (Chan × Nat) := [(0, 0), (0, 1), (1, 0), (1, 1), (2, 0), (2, 1), (3, 0), (3, 1)]

/-- Fits cartridge `cart` into a slot: its stores come along from the slot it was lifted out of. Log entry 11. -/
def State.fit (s : State) (c : Chan) (side cart : Nat) : State :=
  let y := (s.chan c).slot side
  if y.present && y.cart == cart then s
  else
    match allSlots.find? (fun q => q != (c, side) && ((s.chan q.1).slot q.2).present && ((s.chan q.1).slot q.2).cart == cart
        && !((s.chan q.1).slot q.2).latchClosed) with
    | some q =>
      let z := (s.chan q.1).slot q.2
      let s := s.onChan q.1 (fun h => h.setSlot q.2 { SlotState.reset with latchClosed := z.latchClosed })
      s.onChan c (fun h => h.setSlot side { y with
        cart := cart, dir := z.dir, headers := z.headers, cells := z.cells, cal := z.cal, counts := z.counts, homeParks := z.homeParks,
        total := z.total, hours := z.hours, hourNow := z.hourNow, thresholds := z.thresholds, bound := z.bound,
        poweredHours := z.poweredHours })
    | none => s.onChan c (fun h => h.setSlot side (y.fitted cart))

/-- LATCH_CLOSED: a cartridge is fully home in the socket; it stays unpowered until the channel next attaches (R457, R560,
R561). Log entry 11. -/
def execLatchClosed (slot : Slot) (s : State) : Host.Outcome State Fault Refusal :=
  .next (
    let c := slot.owner
    let side := slot.side.val
    if ((s.chan c).slot side).latchClosed then s
    else
      let r := s.drawFree
      (r.2.fit c side (Config.cartridge r.1 + 1)).onChan c (fun h =>
        h.setSlot side { (h.slot side) with latchClosed := true, present := true, status := 1 }))

/-- Work on a slot whose cartridge is no longer held: folds, covers, takeovers and first programs are lost (Table 5.5).
Log entry 61. -/
def State.loseWork (s : State) (c : Chan) (side : Nat) : State :=
  let mine := fun (e : Nat) => e / slotEntries == side
  let s := s.onArrays c (fun a => { a with
    folds := a.folds.filter (fun f => !mine f.entry), progQueue := a.progQueue.filter (fun p => !mine p.entry),
    progs := a.progs.filter (fun p => !mine p.entry), cals := a.cals.filter (fun k => k.side != side),
    calQueue := a.calQueue.filter (fun e => !mine e), retireWaits := a.retireWaits.filter (fun e => !mine e),
    releaseWaits := a.releaseWaits.filter (fun e => !mine e) })
  let s := (s.leaveSlot c side ((s.chan c).slot side).status).settleRelease c
  (s.chan c).arrays.layers.foldl (fun s l => s.settleLayer c (l.tiles.headD 0)) s

/-- LATCH_OPENED: with the cartridges powered, supply of both slots goes and the channel enters its safe state (R31); else the
cartridge is no longer held. Log entry 11. -/
def execLatchOpened (slot : Slot) (s : State) : Host.Outcome State Fault Refusal :=
  .next (
    let c := slot.owner
    let side := slot.side.val
    let y := (s.chan c).slot side
    if !y.latchClosed then s
    else
      let s := s.onChan c (fun h => h.setSlot side { y with latchClosed := false })
      if (s.chan c).power.cartSupply then
        ((((s.cutSupply c).raiseBoth c 0x0022 (leBytes 1 slot.val)).enterSafe c 3).loseWork c side).watchDegraded s
      else s.loseWork c side)

end Sys2Proof.Machine
end

