-- ==== Sys2Proof/Machine/Groups.lean ====
section
/-!
DEFINITION. Communication groups: descriptors and their checks, admission, release, heartbeats, takeovers and epochs
(11 R331 to R341; 15 R446, R447).
-/

namespace Sys2Proof.Machine

/-! ### Lists of a group (R331, R332) -/

/-- Bytes of the member list. -/
def memberBytes (l : List Nat) : List Byte := l.flatMap (leBytes 4)

/-- The 16 bytes of a ringmaster-list entry. -/
def RingEntry.bytes (e : RingEntry) : List Byte :=
  leBytes 2 e.block ++ [0#8, 0#8] ++ leBytes 4 e.master ++ leBytes 4 e.succ1 ++ leBytes 4 e.succ2

/-- A ringmaster-list entry of 16 bytes. -/
def ringEntry (b : List Byte) : RingEntry := ⟨fieldOf b 0 2, fieldOf b 4 4, fieldOf b 8 4, fieldOf b 12 4⟩

/-- The list digest (R334). -/
def Group.digest (g : Group) : List Byte :=
  (shake256 (memberBytes g.members ++ g.ring.flatMap RingEntry.bytes ++ g.desc) 64).take 8

/-- Where the member list and the ringmaster list lie. -/
def Group.memberList (g : Group) : Nat := fieldOf g.desc 16 8
/-- Where the ringmaster list lies. -/
def Group.ringList (g : Group) : Nat := fieldOf g.desc 24 8

/-- Writes one entry of the member list in the group and in memory (R332). -/
def State.putMember (s : State) (c : Chan) (g : Group) (r address : Nat) : State :=
  (s.onComm c g.id (fun g => { g with members := g.members.set r address })).onChan c
    (fun h => h.writeNat (g.memberList + 4 * r) 4 address)

/-- Writes the ringmaster-list entry of a block in the group and in memory (R332). -/
def State.putRing (s : State) (c : Chan) (g : Group) (e : RingEntry) : State :=
  match g.ring.findIdx? (fun q => q.block == e.block) with
  | some i => (s.onComm c g.id (fun g => { g with ring := g.ring.set i e })).onChan c
      (fun h => h.write (g.ringList + 16 * i) e.bytes)
  | none => s

/-! ### The group descriptor (R331, R333) -/

/-- What a group is refused for: the offset of the first offending field, and an offending channel address. -/
structure GroupFault where
  offset : Nat
  address : Nat
  deriving DecidableEq, Repr

/-- The first address that stands twice in a list. -/
def firstTwice : List Nat → Option Nat
  | [] => none
  | a :: l => if l.contains a then some a else firstTwice l

/-- Whether a rank is one of a block. -/
def Group.inBlock (g : Group) (r b : Nat) : Bool := decide (r < g.members.length) && g.blockOf r == b

/-- The fault of one ringmaster-list entry (R333). -/
def Group.ringFault (g : Group) (e : RingEntry) : Option Nat :=
  let sameModule := fun (a b : Nat) => a != noRank && b != noRank && g.address a / 4 == g.address b / 4
  let outside := fun (r : Nat) => r != noRank && !g.inBlock r e.block
  if (g.ranksIn e.block).isEmpty then some (e.block * 128)
  else if !g.inBlock e.master e.block then some (g.address e.master)
  else if outside e.succ1 then some (g.address e.succ1)
  else if outside e.succ2 then some (g.address e.succ2)
  else if sameModule e.succ1 e.master || sameModule e.succ1 e.succ2 then some (g.address e.succ1)
  else if sameModule e.succ2 e.master then some (g.address e.succ2)
  else none

/-- The group that a descriptor at an address names, as its fields stand. -/
def State.readGroup (s : State) (c : Chan) (a : Nat) : Group :=
  let h := s.chan c
  let members := (List.range (h.nat (a + 8) 4)).map (fun r => h.nat (h.nat (a + 16) 8 + 4 * r) 4)
  let ring := (List.range (h.nat (a + 14) 2)).map (fun i => ringEntry (h.bytes (h.nat (a + 24) 8 + 16 * i) 16))
  let set := (h.fw.bank h.fw.active).image
  let high := fieldOf set 18 2
  { id := h.nat (a + 4) 2, state := .forming, job := none, desc := h.bytes a 48, members := members, ring := ring,
    top := h.nat (a + 32) 4, topSucc1 := h.nat (a + 36) 4, topSucc2 := h.nat (a + 40) 4,
    epoch := BitVec.ofNat 32 (h.nat (a + 44) 4), features := 0,
    rank := (members.findIdx? (· == s.address c)).getD noRank, joins := [], readies := [], arrivals := [],
    heartbeat := s.ent (kGrp c 0x10), timeout := s.ent (kGrp c 0x11), beats := [], barriers := [], resets := [],
    asked := false, low := if s.ent (odKey 0x8000 0x01) = 0 then high else fieldOf set 16 2, high := high, version := 0,
    imaged := false, phases := [], owed := [] }

/-- The faults of a group descriptor without RELEASE (R12, R194, R333), the lowest offset first. Log entry 42. -/
def State.groupFault (s : State) (c : Chan) (a : Nat) : Option GroupFault :=
  let h := s.chan c
  let n := h.nat (a + 8) 4
  let b := h.nat (a + 14) 2
  let ml := h.nat (a + 16) 8
  let rl := h.nat (a + 24) 8
  let at' := fun (o : Nat) => some (⟨o, 0⟩ : GroupFault)
  if h.nat a 2 ≠ 0x80 then at' 0
  else if h.nat (a + 2) 2 ≠ 0 then at' 2
  else if 1023 < h.nat (a + 4) 2 then at' 4
  else if 15 < h.nat (a + 6) 2 then at' 6
  else if n = 0 || 131072 < n then at' 8
  else if 1024 < h.nat (a + 12) 2 then at' 12
  else if b = 0 || 1024 < b then at' 14
  else if ml % 64 ≠ 0 || !nameable ml (4 * n) then at' 16
  else
    let g := s.readGroup c a
    match g.members.find? (fun m => decide (131072 ≤ m)), firstTwice g.members with
    | some m, _ => some ⟨16, m % 131072⟩
    | none, some m => some ⟨16, m⟩
    | none, none =>
      if !g.members.contains (s.address c) then some ⟨16, s.address c⟩
      else if rl % 64 ≠ 0 || !nameable rl (16 * b) then at' 24
      else if (List.range b).any (fun i => h.nat (rl + 16 * i + 2) 2 != 0) then at' 24
      else match g.members.find? (fun m => (g.ringOf (addrBlock m)).isNone) with
        | some m => some ⟨24, m⟩
        | none => match g.ring.findSome? g.ringFault with
          | some m => some ⟨24, m⟩
          | none =>
            let bad := fun (r : Nat) => r != noRank && decide (n ≤ r)
            let close := fun (r q : Nat) => r != noRank && q != noRank && g.blockOf r == g.blockOf q
            if n ≤ g.top then at' 32
            else if g.single && g.top != g.master g.block then some ⟨32, g.address g.top⟩
            else if bad g.topSucc1 then at' 36
            else if (g.single && g.topSucc1 != noRank) || close g.topSucc1 g.top then some ⟨36, g.address g.topSucc1⟩
            else if bad g.topSucc2 then at' 40
            else if (g.single && g.topSucc2 != noRank) || close g.topSucc2 g.top || close g.topSucc2 g.topSucc1 then
              some ⟨40, g.address g.topSucc2⟩
            else if (h.bytes (a + 48) 80).any (· != 0#8) then at' 48
            else none

/-- A refused group on a channel: the counter, GROUP_REFUSAL and the event (R336). -/
def State.noteRefusal (s : State) (c : Chan) (gid reason address port : Nat) : State :=
  let s := s.onChan c (fun h => { h with refusals := mset 0 gid reason h.refusals })
  (s.bump c (kGrp c 0x21)).raise c 0x0060 (leBytes 2 gid ++ leBytes 1 reason ++ leBytes 4 address ++ leBytes 1 port)

/-- A group descriptor is refused at load, with a reason of Table 11.5 (R333, R421). Log entry 78. -/
def State.refuseGroup (s : State) (c : Chan) (j : Job) (reason : Nat) (f : GroupFault) : State :=
  let s := s.raiseRefused c ⟨0x80, j.addr, f.offset, reason⟩
  let s := s.noteRefusal c ((s.chan c).nat (j.addr + 4) 2) reason f.address 0
  s.failJob c j 0x01 (reason * 2 ^ 40) f.address

/-! ### Admission (R334, R335, R447) -/

/-- The peer that the plan names for a port: its address. -/
def planPeer (v : Nat) : Nat := v / 2 ^ 14 % 32768 * 4 + v / 2 ^ 12 % 4

/-- M and B ports whose planned peer is a member (R335). -/
def State.requiredPorts (s : State) (c : Chan) (g : Group) : List Nat :=
  (List.range 34).filter (fun p => planned (s.planOf c p) && g.members.contains (planPeer (s.planOf c p)))

/-- The AND of the channel's FEATURES with those of its UP links to members (R311, R335). Log entry 77. -/
def State.groupFeatures (s : State) (c : Chan) (g : Group) : Nat :=
  (List.range 42).foldl (fun f p =>
    let l := (s.chan c).link p
    let member : Bool := match l.peer with
      | some q => g.members.contains (q.moduleNumber % 32768 * 4 + q.channel % 4)
      | none => false
    if l.state = 2 ∧ member then f &&& l.features.toNat else f) 0x000F

/-- Sends JOIN to the block ringmaster (R334). -/
def State.sendJoin (s : State) (c : Chan) (g : Group) : State :=
  let missing := (s.requiredPorts c g).filter (fun p => ((s.chan c).link p).state != 2)
  s.sendUp c g 0x01 0 (g.digest ++ leBytes 2 (s.groupFeatures c g) ++ leBytes 1 (min 255 missing.length)
    ++ leBytes 1 (missing.headD 0) ++ leBytes 2 g.low ++ leBytes 2 g.high)

/-- GROUP_DESCRIPTOR (R331, R333, R334). -/
def execGroupDescriptor (c : Chan) (job : Nat) (s : State) : Host.Outcome State Fault Refusal :=
  .next (match s.ready c job 0x80 with
    | none => s
    | some j =>
      if (s.chan c).nat (j.addr + 2) 2 % 2 = 1 then s
      else match s.groupFault c j.addr with
        | some f => s.refuseGroup c j 0x01 f
        | none =>
          let g := s.readGroup c j.addr
          if ((s.chan c).comm g.id).isSome then s.refuseGroup c j 0x02 ⟨4, 0⟩
          else
            let g := { g with job := some j.id }
            let s := s.onChan c (fun h => { (h.setJob { j with phase := .group g.id }) with groups := h.groups ++ [g] })
            s.sendJoin c g)

/-- JOIN_REPEAT (R334). -/
def execJoinRepeat (c : Chan) (group : Nat) (s : State) : Host.Outcome State Fault Refusal :=
  .next (match (s.chan c).comm group with
    | some g => if g.state == .forming && (s.chan c).linksRun then s.sendJoin c g else s
    | none => s)

/-- UP uplinks between members of the channel's block and another block, by the block uplink table (R335). -/
def State.uplinkCount (s : State) (c : Chan) (g : Group) (b : Nat) : Nat :=
  ((s.chan c).net.uplinks.filter (fun u =>
    u.remote == b && g.members.contains (g.block * 128 + u.position * 4 + u.channel))).length

/-- REQUIRED_FEATURES of a group (Table 11.3). -/
def Group.required (g : Group) : Nat := fieldOf g.desc 6 2

/-- The first UP link of the channel to a member that lacks a required feature; 0 where none does (Table 11.4, step 4). -/
def State.lackingPort (s : State) (c : Chan) (g : Group) : Nat :=
  ((List.range 42).find? (fun p =>
    let l := (s.chan c).link p
    l.state == 2 && g.members.contains (((l.peer.map (fun q => q.moduleNumber % 32768 * 4 + q.channel % 4))).getD 131072)
      && g.required &&& l.features.toNat != g.required)).getD 0

/-- A member of the block on this module that returns channel unavailable (R335): its address. -/
def State.goneMember (s : State) (g : Group) : Option Nat :=
  ((g.ranksIn g.block).map g.address).find? (fun a => a / 4 == s.moduleNumber % 32768 && !s.available (Fin.ofNat 4 a))

/-- Why a block's members cannot be admitted, with port and address, in the order of R335; zeros when they can. -/
def State.blockFault (s : State) (c : Chan) (g : Group) : Nat × Nat × Nat :=
  match g.joins.find? (fun j => j.digest != g.digest), s.goneMember g, g.joins.find? (fun j => j.missing != 0),
      g.joins.find? (fun j => g.required &&& j.features != g.required) with
  | some j, _, _, _ => (0x04, 0, j.address)
  | none, some a, _, _ => (0x08, 0, a)
  | none, none, some j, _ => (0x05, j.port, j.address)
  | none, none, none, some j => (0x07, if j.rank = g.rank then s.lackingPort c g else 0, j.address)
  | none, none, none, none => (0, 0, 0)

/-- What a block ringmaster reports to the top once every member of its block has joined (R334, R335, R447). -/
def State.readyInfo (s : State) (c : Chan) (g : Group) : ReadyInfo :=
  let reason := s.blockFault c g
  let counts := (g.blocks.filter (· != g.block)).map (fun b => (s.uplinkCount c g b, b))
  let fewest := counts.foldl (fun (a : Option (Nat × Nat)) q => match a with
    | some m => if q.1 < m.1 then some q else a
    | none => some q) none
  { block := g.block, features := g.joins.foldl (fun f j => f &&& j.features) 0xFFFF, reason := reason.1,
    port := reason.2.1, address := reason.2.2, uplinks := (fewest.map (·.1)).getD 0, toBlock := (fewest.map (·.2)).getD 0,
    joined := g.joins.length, low := g.joins.foldl (fun v j => max v j.low) 0,
    high := g.joins.foldl (fun v j => min v j.high) 65535, digest := g.digest }

/-- The decision of the top over all blocks: a reason of Table 11.5 with port and address, or the usable features and the
message version, in the order of R335 (R335, R447). Log entry 77. -/
def Group.admission (g : Group) (l : List ReadyInfo) : Except (Nat × Nat × Nat) (Nat × Nat) :=
  let needed := max 1 (fieldOf g.desc 12 2)
  let features := l.foldl (fun f r => f &&& r.features) 0xFFFF
  let low := l.foldl (fun v r => max v r.low) 0
  let high := l.foldl (fun v r => min v r.high) 65535
  let reported := fun (code : Nat) => l.find? (fun r => r.reason == code)
  match l.find? (fun r => r.reason == 0x04 || r.digest != g.digest), reported 0x08, reported 0x05,
      l.find? (fun r => !g.single && decide (r.uplinks < needed)), reported 0x07 with
  | some r, _, _, _, _ =>
    if r.reason = 0x04 then .error (0x04, r.port, r.address) else .error (0x04, 0, g.address (g.master r.block))
  | none, some r, _, _, _ => .error (0x08, r.port, r.address)
  | none, none, some r, _, _ => .error (0x05, r.port, r.address)
  | none, none, none, some r, _ => .error (0x06, 0, r.block * 128)
  | none, none, none, none, some r => .error (0x07, r.port, r.address)
  | none, none, none, none, none => if high < low then .error (0x09, 0, 0) else .ok (features, high)

/-- BLOCK_READY reaches the top: with the last block's, ADMIT or REFUSE is broadcast (R334, R335). Log entry 77. -/
def State.blockJoined (s : State) (c : Chan) (g : Group) (r : ReadyInfo) : State :=
  let l := g.readies.filter (fun q => q.block != r.block) ++ [r]
  let got := g.blocks.filterMap (fun b => l.find? (fun q => q.block == b))
  if got.length < g.blocks.length then s.onComm c g.id (fun g => { g with readies := l })
  else
    let s := s.onComm c g.id (fun g => { g with readies := [] })
    match g.admission got with
    | .ok (f, v) => s.broadcast c g 0x03 0 (leBytes 2 f ++ leBytes 2 v)
    | .error (reason, port, address) =>
      s.broadcast c g 0x04 0 (leBytes 1 reason ++ leBytes 1 port ++ [0#8, 0#8] ++ leBytes 4 address)

/-- JOIN (R334): each arrival after the block is complete reports it again, so that a report that met no group is repeated.
Log entry 77. -/
def execJoin (c : Chan) (pkt : Packet) (s : State) : Host.Outcome State Fault Refusal :=
  .next (s.onMessage c pkt 0x01 false (fun s g =>
    match g.rankOf pkt.source with
    | none => s
    | some r =>
      if g.state != .forming || !g.isMaster || g.blockOf r != g.block then s
      else
        let j : JoinInfo := { rank := r, digest := (pkt.data.drop 16).take 8, features := pkt.field 24 2,
                              missing := pkt.field 26 1, port := pkt.field 27 1, address := pkt.source,
                              low := pkt.field 28 2, high := pkt.field 30 2 }
        let g := { g with joins := g.joins.filter (fun q => q.rank != r) ++ [j] }
        let s := s.onComm c g.id (fun _ => g)
        if g.joins.length < (g.ranksIn g.block).length then s
        else
          let i := s.readyInfo c g
          if g.isTop then s.blockJoined c g i
          else s.tell c g g.top 0x02 0 (leBytes 2 i.features ++ leBytes 1 i.reason ++ leBytes 1 i.port ++ leBytes 4 i.address
            ++ leBytes 2 i.uplinks ++ leBytes 2 i.toBlock ++ leBytes 4 i.joined ++ leBytes 2 i.low ++ leBytes 2 i.high
            ++ i.digest)))

/-- BLOCK_READY (R335). -/
def execBlockReady (c : Chan) (pkt : Packet) (s : State) : Host.Outcome State Fault Refusal :=
  .next (s.onMessage c pkt 0x02 false (fun s g =>
    if g.state != .forming || !g.isTop then s
    else s.blockJoined c g
      { block := addrBlock pkt.source, features := pkt.field 16 2, reason := pkt.field 18 1, port := pkt.field 19 1,
        address := pkt.field 20 4, uplinks := pkt.field 24 2, toBlock := pkt.field 26 2, joined := pkt.field 28 4,
        low := pkt.field 32 2, high := pkt.field 34 2, digest := (pkt.data.drop 36).take 8 }))

/-- Starts the watch of every rank that the channel may have to miss (R338, R382). -/
def Group.watchFrom (g : Group) (now : DWord) : Group :=
  let ranks := g.ranksIn g.block ++ [g.top, g.topSucc1, g.topSucc2]
  { g with beats := ranks.foldl (fun m r => mset none r (some now) m) g.beats }

/-- ADMIT (R334, R447). -/
def execAdmitMsg (c : Chan) (pkt : Packet) (s : State) : Host.Outcome State Fault Refusal :=
  .next (s.onMessage c pkt 0x03 false (fun s g =>
    if g.state != .forming then s
    else
      let g' := { g with state := .active, features := pkt.field 16 2, version := pkt.field 18 2, job := none,
                         joins := [], readies := [] }
      let s := s.onComm c g.id (fun _ => g'.watchFrom (s.chan c).clock.timebase)
      let s := s.relay c g' pkt
      match g.job.bind (s.chan c).job with
      | some j => s.completeJob c j 0 0
      | none => s))

/-- A FORMING group is refused on a channel: it leaves no entry (R336, R421). -/
def State.dropForming (s : State) (c : Chan) (g : Group) (reason address port : Nat) : State :=
  let s := s.onChan c (fun h => { h with groups := h.groups.filter (fun q => q.id != g.id) })
  let s := s.noteRefusal c g.id reason address port
  match g.job.bind (s.chan c).job with
  | some j => s.failJob c j 0x01 (reason * 2 ^ 40) (address + port * 2 ^ 24)
  | none => s

/-- REFUSE (R336). -/
def execRefuse (c : Chan) (pkt : Packet) (s : State) : Host.Outcome State Fault Refusal :=
  .next (s.onMessage c pkt 0x04 false (fun s g =>
    if g.state != .forming then s
    else (s.relay c g pkt).dropForming c g (pkt.field 16 1) (pkt.field 20 4) (pkt.field 17 1)))

/-- GROUP_FORM_TIMEOUT (R334). -/
def execGroupFormTimeout (c : Chan) (group : Nat) (s : State) : Host.Outcome State Fault Refusal :=
  .next (match (s.chan c).comm group with
    | some g => if g.state == .forming then s.dropForming c g 0x03 0 0 else s
    | none => s)

/-! ### Release (R336) -/

/-- GROUP_RELEASE: a group descriptor with RELEASE (R336). -/
def execGroupRelease (c : Chan) (job : Nat) (s : State) : Host.Outcome State Fault Refusal :=
  .next (match s.ready c job 0x80 with
    | none => s
    | some j =>
      let h := s.chan c
      let flags := h.nat (j.addr + 2) 2
      if flags % 2 = 0 then s
      else if flags ≠ 1 then s.refuseGroup c j 0x01 ⟨2, 0⟩
      else if 1023 < h.nat (j.addr + 4) 2 then s.refuseGroup c j 0x01 ⟨4, 0⟩
      else match h.comm (h.nat (j.addr + 4) 2) with
        | none => s.finishJob c j 0 0
        | some g =>
          let s := match g.job.bind h.job with
            | some i => s.failJob c i 0x03 0 0
            | none => s
          let s := s.onChan c (fun h => h.setJob { j with phase := .group g.id })
          s.onComm c g.id (fun g => { g with state := .releasing, job := some j.id }))

/-- Whether a segment of a group is open on the channel (R305, R336). -/
def Channel.segmentsOpen (h : Channel) (g : Nat) : Bool :=
  h.net.tx.any (fun t => t.key.group == g) || h.net.outbox.any (fun k => k.group == g)
    || h.net.rx.any (fun r => r.key.group == g && !r.complete)

/-- A group leaves the channel (R336): the descriptors that waited for it end. Log entry 78. -/
def State.freeGroup (s : State) (c : Chan) (g : Group) : State :=
  let s := s.onChan c (fun h => { h with
    groups := h.groups.filter (fun q => q.id != g.id),
    net := { h.net with rx := h.net.rx.filter (fun r => r.key.group != g.id) },
    safety := if g.id = s.ent (kUpd c 1) then
        { h.safety with reported := [], filling := [], requested := [], replaced := 0, filled := none, owedParams := [] }
      else h.safety })
  let s := (g.barriers.map (fun (b : Nat × Nat) => b.2) ++ g.resets).foldl (fun s i => match (s.chan c).job i with
    | some j => s.failJob c j 0x03 0 0
    | none => s) s
  match g.job.bind (s.chan c).job with
  | some j => s.finishJob c j 0 0
  | none => s

/-- GROUP_FREE (R336). -/
def execGroupFree (c : Chan) (group : Nat) (s : State) : Host.Outcome State Fault Refusal :=
  .next (match (s.chan c).comm group with
    | some g => if g.state == .releasing && !(s.chan c).segmentsOpen group then s.freeGroup c g else s
    | none => s)

/-! ### Heartbeats (R338, R382) -/

/-- Ranks to which the channel sends HEARTBEAT: its successors as a ringmaster, successor 2 as successor 1, and its block
ringmaster as a member of COMMIT_GROUP. -/
def Group.beatTargets (g : Group) (commit : Bool) : List Nat :=
  let down := fun (master : Nat) (l : List Nat) =>
    if master = g.rank then l else if l.head? = some g.rank then l.drop 1 else []
  let all := down (g.master g.block) (g.succs g.block) ++ down g.top g.topSuccs
    ++ (if commit then [g.master g.block] else [])
  (all.foldl (fun l r => if l.contains r then l else l ++ [r]) []).filter (· != g.rank)

/-- HEARTBEAT_SEND (R338, R382). -/
def execHeartbeatSend (c : Chan) (group : Nat) (s : State) : Host.Outcome State Fault Refusal :=
  .next (match (s.chan c).comm group with
    | some g =>
      if g.live && (s.chan c).linksRun then
        s.tellAll c g (g.beatTargets (group == s.ent (kUpd c 1))) 0x05 0 []
      else s
    | none => s)

/-- HEARTBEAT (R338, R382). -/
def execHeartbeat (c : Chan) (pkt : Packet) (s : State) : Host.Outcome State Fault Refusal :=
  .next (s.onMessage c pkt 0x05 false (fun s g => match g.rankOf pkt.source with
    | some r => s.onComm c g.id (fun g => { g with beats := mset none r (some (s.chan c).clock.timebase) g.beats })
    | none => s))

/-- No HEARTBEAT from a rank for RINGMASTER_TIMEOUT (R338). -/
def Group.silent (g : Group) (now : DWord) (r : Nat) : Bool :=
  match mget none r g.beats with
  | some t => decide (100 * g.timeout ≤ (now - t).toNat)
  | none => true

/-! ### Takeover and epochs (R338 to R341, R371) -/

/-- The body of NEW_EPOCH (Table 12.12). -/
def Group.epochBody (g : Group) (e : Option RingEntry) : List Byte :=
  leBytes 4 g.top ++ leBytes 4 g.topSucc1 ++ leBytes 4 g.topSucc2 ++ (match e with
    | some e => leBytes 2 e.block ++ [0#8, 0#8] ++ leBytes 4 e.master ++ leBytes 4 e.succ1 ++ leBytes 4 e.succ2
    | none => leBytes 2 0xFFFF)

/-- A ringmaster entry after its first successors up to `r` have moved up (R338). -/
def RingEntry.takenBy (e : RingEntry) (r : Nat) : RingEntry :=
  if e.succ1 = r then ⟨e.block, r, e.succ2, noRank⟩ else ⟨e.block, r, noRank, noRank⟩

/-- The event and the counter of a takeover (R338). Log entry 76. -/
def State.noteTakeover (s : State) (c : Chan) (g : Group) (old : Nat) : State :=
  (s.bump c (kGrp c 0x20)).raise c 0x0061 (leBytes 2 g.id ++ leBytes 4 old ++ leBytes 4 g.rank)

/-- After a takeover of COMMIT_GROUP's top during a commit, the new top asks for the phases (R371). Log entry 76. -/
def State.resumeCommit (s : State) (c : Chan) (g : Group) (dead : Option Nat) : State :=
  let k := (s.chan c).coll
  let during := k.phase == 1 || k.phase == 2 || k.phase == 3 || (k.phase == 4 && s.ent (kSafe c 2) != k.phaseStep)
    || (k.phase == 5 && k.abortCause.isSome && !k.steps.any (fun q => q.step == k.phaseStep))
  if g.id = s.ent (kUpd c 1) ∧ during then
    let s := s.onComm c g.id (fun g => { g with phases := [(g.rank, k.phase)] })
    (s.bump c (kUpd c 0x2B)).broadcastOthers c g dead 0x17 k.phaseStep []
  else s

/-- The top grants a block's role to one of its successors and broadcasts the new epoch (R339). -/
def State.grantBlock (s : State) (c : Chan) (g : Group) (r : Nat) : State :=
  match g.ringOf (g.blockOf r) with
  | none => s
  | some e =>
    if !(g.succs e.block).contains r then s
    else
      let e' := e.takenBy r
      let s := s.putRing c g e'
      let s := s.onComm c g.id (fun g => { g with epoch := g.epoch + 1 })
      match (s.chan c).comm g.id with
      | some q => s.broadcastOthers c q none 0x06 0 (q.epochBody (some e'))
      | none => s

/-- What a channel sends again to a new top (R341, Table 13.6): its request for a block role, the losses that it has reported,
on a spare in fill FILL_REQUEST, and on one that has filled and not been told of REBUILT its FILLED. The new top sends them to
itself. Log entries 76, 94. -/
def State.resendTo (s : State) (c : Chan) (g : Group) : State :=
  let s := if g.asked then s.tell c g g.top 0x07 0 (leBytes 4 g.rank) else s
  if g.id ≠ s.ent (kUpd c 1) then s
  else
    let f := (s.chan c).safety
    let s := if g.isMaster then
        f.reported.foldl (fun s (q : Nat × Nat × Nat) =>
          s.tell c g g.top 0x40 0 (leBytes 4 q.1 ++ leBytes 4 q.2.1 ++ leBytes 1 q.2.2)) s
      else s
    match f.fill, f.filled with
    | some q, _ => s.tell c g g.top 0x49 q.restore (leBytes 4 g.rank)
    | none, some r => s.tell c g g.top 0x4B r (leBytes 4 g.rank ++ leBytes 1 0)
    | none, none => s

/-- This channel takes over as the top; a block role that it has asked the old top for is then granted (R338, R339, Table 11.6). -/
def State.takeTop (s : State) (c : Chan) (g : Group) : State :=
  let old := g.top
  let now := (s.chan c).clock.timebase
  let after := (g.topSuccs.dropWhile (· != g.rank)).drop 1
  let entry := if g.single then (g.ringOf g.block).map (fun e => e.takenBy g.rank) else none
  let s := match entry with
    | some e => s.putRing c g e
    | none => s
  let s := s.onComm c g.id (fun q => { q with
    top := q.rank, topSucc1 := if g.single then noRank else after.headD noRank, topSucc2 := noRank, epoch := q.epoch + 1 })
  let s := s.onComm c g.id (fun q => q.watchFrom now)
  match (s.chan c).comm g.id with
  | none => s
  | some q =>
    let s := s.noteTakeover c q old
    let s := s.broadcastOthers c q (some old) 0x06 0 (q.epochBody entry)
    let s := if q.asked then (s.onComm c q.id (fun q => { q with asked := false })).grantBlock c q q.rank else s
    let q := ((s.chan c).comm g.id).getD q
    (s.resendTo c q).resumeCommit c q (some old)

/-- This channel asks the top for its block's ringmaster role (R339). Log entry 76. -/
def State.askBlock (s : State) (c : Chan) (g : Group) : State :=
  (s.onComm c g.id (fun g => { g with asked := true })).tell c g g.top 0x07 0 (leBytes 4 g.rank)

/-- Gives up everything but acknowledgements that a channel still sends for a group, and what it has received of segments that are
not complete. -/
def State.silenceGroup (s : State) (c : Chan) (id : Nat) : State :=
  let mine := fun (q : Queued) => q.source.isNone && q.pkt.group == id && decide (q.pkt.ptype < 6)
  s.onNet c (fun n => { n with
    tx := n.tx.filter (fun t => t.key.group != id), outbox := n.outbox.filter (fun k => k.group != id),
    rx := n.rx.filter (fun r => r.key.group != id || r.complete),
    links := n.links.map (fun e => (e.1, { e.2 with queue := e.2.queue.filter (fun q => !mine q) })) })

/-- The group fails on this channel, and carries no traffic from then on (R340). -/
def State.failGroup (s : State) (c : Chan) (g : Group) : State :=
  if g.state == .failed then s
  else ((s.silenceGroup c g.id).onComm c g.id (fun g => { g with state := .failed })).raise c 0x0062 (leBytes 2 g.id)

/-- A ringmaster of the group is gone, its successors `gone` with it (R338, R340): this channel takes over where it is the
first successor left, and a role without a successor fails the group. Log entry 77. -/
def State.ringmasterGone (s : State) (c : Chan) (gid : Nat) (gone : Nat → Bool) : State :=
  match (s.chan c).comm gid with
  | none => s
  | some g =>
    if !(g.state == .active || g.state == .rebuilding) then s
    else
      let left := fun (l : List Nat) => l.filter (fun r => !gone r)
      let s := if gone g.top && g.top != g.rank then
          (match left g.topSuccs with
            | [] => if g.topSuccs.isEmpty then s.failGroup c g else s
            | r :: _ => if r = g.rank then s.takeTop c g else s)
        else s
      match (s.chan c).comm gid with
      | none => s
      | some g =>
        let m := g.master g.block
        if g.single || !gone m || m == g.rank || g.asked || g.state == .failed then s
        else match left (g.succs g.block) with
          | [] => if (g.succs g.block).isEmpty then s.failGroup c g else s
          | r :: _ =>
            if r ≠ g.rank then s
            else
              let s := s.noteTakeover c g m
              if g.isTop then s.grantBlock c g g.rank else s.askBlock c g

/-- TAKEOVER_REQUEST (R339, Table 11.6): granted in order of arrival. Log entry 75. -/
def execTakeoverRequest (c : Chan) (pkt : Packet) (s : State) : Host.Outcome State Fault Refusal :=
  .next (s.onMessage c pkt 0x07 ((s.chan c).comm pkt.group).isSome (fun s g =>
    if g.live && g.isTop && g.rankOf pkt.source == some (pkt.field 16 4) then s.grantBlock c g (pkt.field 16 4) else s))

/-- Whether a message carries a later epoch than the channel's own (R16, R339). Log entry 75. -/
def State.laterEpoch (s : State) (c : Chan) (k : Packet) : Bool :=
  match (s.chan c).comm k.group with
  | some g => later32 k.fullEpoch g.epoch
  | none => false

/-- Applies the roles that NEW_EPOCH gives (R339). -/
def State.applyEpoch (s : State) (c : Chan) (g : Group) (k : Packet) : State :=
  let block := k.field 28 2
  let s := if block = 0xFFFF then s
    else s.putRing c g ⟨block, k.field 32 4, k.field 36 4, k.field 40 4⟩
  let now := (s.chan c).clock.timebase
  s.onComm c g.id (fun q =>
    let q := { q with epoch := k.fullEpoch, top := k.field 16 4, topSucc1 := k.field 20 4, topSucc2 := k.field 24 4 }
    let q := { q with owed := if block = 0xFFFF ∧ q.top = g.top then q.owed.drop 1 else q.owed }
    let q := { q with asked := q.asked && !q.isMaster, arrivals := q.arrivals.filter (fun a => !a.atTop || q.isTop) }
    q.watchFrom now)

/-- NEW_EPOCH (R339, R341). -/
def execNewEpoch (c : Chan) (pkt : Packet) (s : State) : Host.Outcome State Fault Refusal :=
  .next (s.onMessage c pkt 0x06 (s.laterEpoch c pkt) (fun s g =>
    if !later32 pkt.fullEpoch g.epoch then s
    else
      let s := s.applyEpoch c g pkt
      match (s.chan c).comm g.id with
      | none => s
      | some q =>
        let s := s.relay c q pkt
        if q.top ≠ g.top then s.resendTo c q else s))

/-! ### Group entries (R343) -/

/-- GROUP_STATE of a group (Table 11.8). -/
def Group.stateWord (g : Group) : Nat :=
  let code := match g.state with
    | .forming => 1
    | .active => 2
    | .rebuilding => 3
    | .failed => 4
    | .releasing => 5
  let bit := fun (n : Nat) (b : Bool) => if b then 2 ^ n else 0
  let s := g.succs g.block
  code + bit 8 g.isMaster + bit 9 (s[0]? == some g.rank) + bit 10 (s[1]? == some g.rank) + bit 11 g.isTop
    + bit 12 (g.topSuccs[0]? == some g.rank) + bit 13 (g.topSuccs[1]? == some g.rank)

end Sys2Proof.Machine
end

