-- ==== Sys2Proof/Machine/Plans.lean ====
section
/-!
DEFINITION. Update plans and replica declarations: their descriptors, the checks at load, and where slots and replica banks lie
(12 R344 to R348, R362, R374; 13 R376 to R378).
-/

namespace Sys2Proof.Machine

/-! ### Where the parts of a plan lie (R345, R362, R378) -/

/-- ORDERED. -/
def Plan.ordered (p : Plan) : Bool := p.flags.testBit 1
/-- CLIP. -/
def Plan.clip (p : Plan) : Bool := p.flags.testBit 2
/-- NESTEROV. -/
def Plan.nesterov (p : Plan) : Bool := p.flags.testBit 3

/-- State words of an optimizer (Table 12.6). -/
def Plan.words (p : Plan) : Nat := if p.optimizer = 2 then 2 else 1

/-- Length of a bucket's master slot, S_b (R345). -/
def slotBytes (count : Nat) : Nat := 64 * ceilDiv count 16

/-- Bucket `b` of a plan. -/
def Plan.bucket (p : Plan) (b : Nat) : Bucket := p.buckets.getD b ⟨0, 0, 0, 0⟩

/-- Buckets that a rank owns, ascending. -/
def Plan.ownedBy (p : Plan) (rank : Nat) : List Nat :=
  (List.range p.buckets.length).filter (fun b => (p.bucket b).owner == rank)

/-- Address of master slot `j` of an owned bucket. -/
def Plan.master (p : Plan) (b j : Nat) : Nat :=
  ((mget none b p.shards).getD (0, 0)).1 + j * slotBytes (p.bucket b).count

/-- Address of state slot `j` of an owned bucket. -/
def Plan.stateSlot (p : Plan) (b j : Nat) : Nat :=
  ((mget none b p.shards).getD (0, 0)).2 + j * p.words * slotBytes (p.bucket b).count

/-- Plans of a channel in ascending GROUP. -/
def Collective.sorted (k : Collective) : List Plan :=
  (k.plans.foldl (fun l p => insertNat p.group l) []).filterMap (fun g => k.plans.find? (fun p => p.group == g))

/-- The plan of a group. -/
def Collective.plan (k : Collective) (g : Nat) : Option Plan := k.plans.find? (fun p => p.group == g)

/-- Rank in a group of the channel that holds a rank of COMMIT_GROUP: both list one address. -/
def Channel.rankIn (h : Channel) (address gid : Nat) : Nat := ((h.comm gid).bind (fun g => g.rankOf address)).getD noRank

/-- The parts of one owner's share in a replica bank, in order: plan group, bucket (none for a header), bytes (R378). -/
def Channel.shareParts (h : Channel) (plans : List Plan) (address : Nat) : List (Nat × Option Nat × Nat) :=
  plans.flatMap (fun p =>
    (p.group, none, 64) :: (p.ownedBy (h.rankIn address p.group)).map (fun b =>
      (p.group, some b, (1 + p.words) * slotBytes (p.bucket b).count)))

/-- Bytes of one owner's share in a replica bank (R378). -/
def Channel.shareBytes (h : Channel) (plans : List Plan) (address : Nat) : Nat :=
  256 + ((h.shareParts plans address).map (fun q => q.2.2)).foldl (· + ·) 0

/-- The served owners of a channel, ascending (R378). -/
def Replica.served (r : Replica) (rank : Nat) : List Nat :=
  (List.range r.buddies.length).filter (fun o => r.buddies.getD o noRank == rank)

/-- The need of a replica area (R378). -/
def Channel.replicaNeed (h : Channel) (plans : List Plan) (r : Replica) : Nat :=
  match h.comm r.group with
  | none => 0
  | some g => 2 * ((r.served g.rank).map (fun o => h.shareBytes plans (g.address o))).foldl (· + ·) 0

/-! ### The plan descriptor (R344, R346) -/

/-- Whether two ranges of bytes overlap. -/
def overlapRange (a b : Nat × Nat) : Bool := decide (a.1 < b.1 + b.2) && decide (b.1 < a.1 + a.2)

/-- Whether any two ranges of a list overlap. -/
def anyOverlap : List (Nat × Nat) → Bool
  | [] => false
  | a :: l => l.any (overlapRange a) || anyOverlap l

/-- Bytes of the slots of a plan's owned buckets. -/
def Plan.slotRanges (p : Plan) : List (Nat × Nat) :=
  p.shards.flatMap (fun q =>
    let n := slotBytes (p.bucket q.1).count
    match q.2 with
    | some (m, t) => [(m, 2 * n), (t, 2 * p.words * n)]
    | none => [])

/-- Bytes of every bank and buffer of the registered weights. -/
def Training.bankRanges (t : Training) : List (Nat × Nat) :=
  t.weights.flatMap (fun w => w.tensors.map (fun d => (d.data, d.extent)))

/-- Entry `b` of the bucket map at an address (Table 12.2). -/
def Channel.readBucket (h : Channel) (a : Nat) : Bucket := ⟨h.nat a 2, h.nat (a + 4) 4, h.nat (a + 8) 6, h.nat (a + 16) 4⟩

/-- Whether an FP32 word is finite and greater than zero. -/
def finitePositive (w : Nat) : Bool := (f32 w).isFinite && Fp.gt (f32 w) Fp.zero

/-- Whether an FP32 word lies from 0 to below 1. -/
def unitInterval (w : Nat) : Bool := Fp.le Fp.zero (f32 w) && Fp.gt Fp.one (f32 w)

/-- Whether the hyperparameter record at an address is sound (R346). Log entry 42. -/
def Channel.hyperOk (h : Channel) (a optimizer : Nat) (clip : Bool) : Bool :=
  !(h.bytes (a + 24) 40).any (· != 0#8) && finitePositive (h.nat a 4) && unitInterval (h.nat (a + 4) 4)
    && (optimizer == 1 || unitInterval (h.nat (a + 8) 4)) && (optimizer != 2 || finitePositive (h.nat (a + 12) 4))
    && (f32 (h.nat (a + 16) 4)).isFinite && Fp.le Fp.zero (f32 (h.nat (a + 16) 4))
    && (!clip || finitePositive (h.nat (a + 20) 4))

/-- The fault of the bucket map against the registered weights (R346): the ranges of Table 12.2, weights not
registered or named by another plan, overlaps and lengths, formats. -/
def Channel.mapFault (h : Channel) (buckets : List Bucket) (format : Nat) : Bool :=
  buckets.zipIdx.any (fun (q : Bucket × Nat) =>
    q.1.count == 0 || decide (32768 < q.1.count)
      || (match h.training.weights.find? (fun w => w.id == q.1.weight) with
        | none => true
        | some w => (h.coll.planOf q.1.weight).isSome || decide (w.param0.rows * w.param0.cols < q.1.start + q.1.count)
            || w.param0.format != format || w.param1.format != format))
    || (buckets.zipIdx.any (fun (q : Bucket × Nat) => (buckets.drop (q.2 + 1)).any (fun r =>
      r.weight == q.1.weight && overlapRange (q.1.start, q.1.count) (r.start, r.count))))

/-- Loads a plan descriptor without RELEASE: the plan, or the offset of the first offending field (R12, R194, R346, R378). -/
def State.loadPlan (s : State) (c : Chan) (a : Nat) : Except Nat Plan := do
  let h := s.chan c
  if h.nat a 2 ≠ 0x90 || h.training.program.isSome || s.ent (kUpd c 3) = 0 then throw 0
  let flags := h.nat (a + 2) 2
  match h.comm (h.nat (a + 4) 2) with
  | none => throw 4
  | some g =>
    if g.state != .active || (h.coll.plan g.id).isSome || 64 ≤ h.coll.plans.length then throw 4
    let optimizer := h.nat (a + 6) 1
    let format := h.nat (a + 7) 1
    let n := h.nat (a + 8) 2
    let window := h.nat (a + 10) 2
    if flags.testBit 1 && !g.features.testBit 2 then throw 2
    if optimizer = 0 || 3 < optimizer then throw 6
    if format ≠ 0x10 && format ≠ 0x11 then throw 7
    if n = 0 || 16384 < n then throw 8
    if window = 0 || 256 < window || 256 < window + (h.coll.plans.map (·.window)).foldl (· + ·) 0 then throw 10
    let map := h.nat (a + 16) 8
    if map % 64 ≠ 0 || !nameable map (32 * n) then throw 16
    let buckets := (List.range n).map (fun b => h.readBucket (map + 32 * b))
    if h.mapFault buckets format then throw 16
    if buckets.any (fun b => decide (g.members.length ≤ b.owner)) then throw 16
    if !g.features.testBit 0 && buckets.any (fun b => decide (31744 < b.count)) then throw 16
    let owned := (List.range n).filter (fun b => (buckets.getD b ⟨0, 0, 0, 0⟩).owner == g.rank)
    let shard := h.nat (a + 24) 8
    if owned.isEmpty != (shard == 0) then throw 24
    if !owned.isEmpty && !nameable shard (64 + 32 * owned.length) then throw 24
    let entry := fun (e : Nat) => shard + 64 + 32 * e
    if owned.zipIdx.any (fun (q : Nat × Nat) => h.nat (entry q.2) 2 != q.1) then throw 24
    let shards := owned.zipIdx.foldl (fun (m : Map (Option (Nat × Nat))) (q : Nat × Nat) =>
      mset none q.1 (some (h.nat (entry q.2 + 8) 8, h.nat (entry q.2 + 16) 8)) m) []
    let hyper := h.nat (a + 32) 8
    if !nameable hyper 64 || !h.hyperOk hyper optimizer (flags.testBit 2) then throw 32
    let lr := h.nat (a + 40) 8
    let count := h.nat (a + 48) 4
    if count = 0 || 1048576 < count then throw 48
    if !nameable lr (4 * count) then throw 40
    let status := h.nat (a + 64) 8
    if status ≠ 0 && (status % 64 != 0 || !nameable status 128) then throw 64
    let area := h.nat (a + 72) 8
    let bytes := h.nat (a + 80) 8
    let ordered := flags.testBit 1
    if (!ordered && area != 0) || area % 65536 != 0 || !hbmFree area bytes then throw 72
    let u := ceilDiv (buckets.foldl (fun m b => max m b.count) 0) 32
    let most := g.blocks.foldl (fun m b => max m (g.ranksIn b).length) 0
    if ordered && decide (bytes < 128 * window * u * (most + g.blocks.length)) then throw 80
    let p : Plan := { group := g.id, flags := flags, optimizer := optimizer, format := format, window := window,
                      buckets := buckets, shard := shard, shards := shards, gradScale := h.nat hyper 4,
                      beta1 := h.nat (hyper + 4) 4, beta2 := h.nat (hyper + 8) 4, epsilon := h.nat (hyper + 12) 4,
                      decay := h.nat (hyper + 16) 4, clipNorm := h.nat (hyper + 20) 4, lrTable := lr, lrCount := count,
                      firstStep := h.nat (a + 56) 8, status := status, area := area, areaBytes := h.nat (a + 80) 8 }
    let mine := p.slotRanges
    let others := h.coll.plans.flatMap Plan.slotRanges ++ h.training.bankRanges
    if mine.any (fun r => !hbmFree r.1 r.2) || anyOverlap mine || mine.any (fun r => others.any (overlapRange r)) then throw 24
    let small : Bool := match h.safety.replica with
      | some r => decide (r.bytes < h.replicaNeed ((p :: h.coll.plans)) r)
      | none => false
    if small then throw 4
    pure p

/-- PLAN_DESCRIPTOR (R344, R346). -/
def execPlanDescriptor (c : Chan) (job : Nat) (s : State) : Host.Outcome State Fault Refusal :=
  .next (s.withJob c job 0x90 (fun j =>
    if (s.chan c).releases j.addr then s
    else match s.loadPlan c j.addr with
      | .error off => s.refuseJob c j ⟨0x90, j.addr, off, 0⟩
      | .ok p =>
        (s.onChan c (fun h => { h with coll := { h.coll with plans := h.coll.plans ++ [p] } })).finishJob c j 0 0))

/-- PLAN_RELEASE: a plan descriptor with RELEASE (R346). -/
def execPlanRelease (c : Chan) (job : Nat) (s : State) : Host.Outcome State Fault Refusal :=
  .next (s.withJob c job 0x90 (fun j =>
    let h := s.chan c
    let bad := fun (off : Nat) => (⟨0x90, j.addr, off, 0⟩ : Refused)
    if !h.releases j.addr then s
    else if h.training.program.isSome then s.refuseJob c j (bad 0)
    else if 1023 < h.nat (j.addr + 4) 2 then s.refuseJob c j (bad 4)
    else
      let g := h.nat (j.addr + 4) 2
      (s.onChan c (fun h => { h with coll := { h.coll with plans := h.coll.plans.filter (fun p => p.group != g) } })).finishJob
        c j 0 0))

/-! ### The replica descriptor (R376, R377) -/

/-- The areas that a replica area must not overlap: slots, banks and buffers, the slot and commit areas, the reduction areas
and the stash region (R377). -/
def State.areaRanges (s : State) (c : Chan) : List (Nat × Nat) :=
  let h := s.chan c
  h.coll.plans.flatMap Plan.slotRanges ++ h.training.bankRanges
    ++ (h.coll.plans.filter Plan.ordered).map (fun p => (p.area, p.areaBytes))
    ++ (if s.ent (kUpd c 3) = 0 then [] else [(s.ent (kUpd c 3), 0x2000000)])
    ++ (if s.ent (kUpd c 2) = 0 then [] else [(s.ent (kUpd c 2), 512)])
    ++ (if s.ent (kEng c 0x41) = 0 then [] else [(s.ent (kEng c 0x40), s.ent (kEng c 0x41))])

/-- Loads a replica descriptor without RELEASE (R12, R194, R377, R378): the declaration, or the offset of the first offending
field. -/
def State.loadReplica (s : State) (c : Chan) (a : Nat) : Except Nat Replica := do
  let h := s.chan c
  if h.nat a 2 ≠ 0x92 || h.training.program.isSome then throw 0
  match h.comm (h.nat (a + 4) 2) with
  | none => throw 4
  | some g =>
    if g.id ≠ s.ent (kUpd c 1) || g.state != .active then throw 4
    let n := g.members.length
    let bl := h.nat (a + 8) 8
    if bl % 64 ≠ 0 || !nameable bl (4 * n) then throw 8
    let buddies := (List.range n).map (fun r => h.nat (bl + 4 * r) 4)
    let oneModule := (List.range n).all (fun r => g.address r / 4 == g.address 0 / 4)
    let bad := fun (q : Nat × Nat) =>
      if q.1 = noRank then !oneModule
      else decide (n ≤ q.1) || q.1 == q.2 || (!g.single && g.blockOf q.1 == g.blockOf q.2)
        || (!oneModule && g.address q.1 / 4 == g.address q.2 / 4)
    if buddies.zipIdx.any bad then throw 8
    let spares := h.nat (a + 24) 4
    let sl := h.nat (a + 16) 8
    if 4096 < spares then throw 24
    if spares ≠ 0 && (sl % 64 != 0 || !nameable sl (4 * spares)) then throw 16
    let list := (List.range spares).map (fun i => h.nat (sl + 4 * i) 4 % 131072)
    if list.any (fun x => g.members.contains x) then throw 16
    let area := h.nat (a + 32) 8
    let bytes := h.nat (a + 40) 8
    if area % 65536 ≠ 0 || !hbmFree area bytes then throw 32
    if (s.areaRanges c).any (overlapRange (area, bytes)) then throw 32
    let r : Replica := ⟨g.id, buddies, list.map (fun x => (x, false)), area, bytes⟩
    if bytes % 131072 ≠ 0 || bytes < h.replicaNeed h.coll.plans r then throw 40
    pure r

/-- REPLICA_DESCRIPTOR (R376, R377). -/
def execReplicaDescriptor (c : Chan) (job : Nat) (s : State) : Host.Outcome State Fault Refusal :=
  .next (s.withJob c job 0x92 (fun j =>
    if (s.chan c).releases j.addr then s
    else match s.loadReplica c j.addr with
      | .error off => s.refuseJob c j ⟨0x92, j.addr, off, 0⟩
      | .ok r => (s.onChan c (fun h => { h with safety := { h.safety with replica := some r } })).finishJob c j 0 0))

/-- REPLICA_RELEASE: a replica descriptor with RELEASE (R377). -/
def execReplicaRelease (c : Chan) (job : Nat) (s : State) : Host.Outcome State Fault Refusal :=
  .next (s.withJob c job 0x92 (fun j =>
    let h := s.chan c
    if !h.releases j.addr then s
    else if h.nat (j.addr + 4) 2 ≠ s.ent (kUpd c 1) || 1023 < h.nat (j.addr + 4) 2 then s.refuseJob c j ⟨0x92, j.addr, 4, 0⟩
    else
      (s.onChan c (fun h => { h with safety := { h.safety with
        replica := match h.safety.replica with
          | some r => if r.group = h.nat (j.addr + 4) 2 then none else some r
          | none => none } })).finishJob c j 0 0))

/-! ### The barrier descriptor (R374) -/

/-- BARRIER_DESCRIPTOR (R374). -/
def execBarrierDescriptor (c : Chan) (job : Nat) (s : State) : Host.Outcome State Fault Refusal :=
  .next (s.withJob c job 0x91 (fun j =>
    let h := s.chan c
    let bad := fun (off : Nat) => s.refuseJob c j ⟨0x91, j.addr, off, 0⟩
    if h.nat j.addr 2 ≠ 0x91 then bad 0
    else match h.comm (h.nat (j.addr + 2) 2) with
      | none => bad 2
      | some g =>
        if g.state != .active then bad 2
        else
          let id := h.nat (j.addr + 4) 4
          let s := s.onChan c (fun h => h.setJob { j with phase := .group g.id })
          let s := s.onComm c g.id (fun g => { g with barriers := g.barriers ++ [(id, j.id)] })
          s.sendUp c g 0x30 0 (leBytes 4 1 ++ leBytes 4 id)))

/-- BARRIER_ARRIVE (R374). -/
def execBarrierArrive (c : Chan) (pkt : Packet) (s : State) : Host.Outcome State Fault Refusal :=
  .next (s.onMessage c pkt 0x30 false (fun s g =>
    let id := pkt.field 20 4
    match g.arrivalOf pkt id with
    | none => s
    | some a => s.climb c g a (fun _ => leBytes 4 id) (fun s _ =>
        s.broadcast c g 0x31 0 ([0#8, 0#8, 0#8, 0#8] ++ leBytes 4 id))))

/-- BARRIER_RELEASE (R374). -/
def execBarrierRelease (c : Chan) (pkt : Packet) (s : State) : Host.Outcome State Fault Refusal :=
  .next (s.onMessage c pkt 0x31 false (fun s g =>
    let id := pkt.field 20 4
    let s := s.relay c g pkt
    let s := s.onComm c g.id (fun g => { g with barriers := g.barriers.filter (fun b => b.1 != id) })
    (g.barriers.filter (fun b => b.1 == id)).foldl (fun s b => match (s.chan c).job b.2 with
      | some j => s.completeJob c j 0 0
      | none => s) s))

end Sys2Proof.Machine
end

