-- ==== Sys2Proof/Machine/Reduction.lean ====
section
/-!
DEFINITION. Reduction and update: conversion to KP32, addition at combiners and owners, the norm pass, the optimizers, the
parameter broadcast and the window gates (12 R348 to R364).
-/

namespace Sys2Proof.Machine

/-! ### Buckets, units and who combines them (R345, R348, R357) -/

/-- Values of a unit: 32 in KP32, 31 in F32 units (R345, R357). -/
def Group.perUnit (g : Group) : Nat := if g.features.testBit 0 then 32 else 31

/-- Units of a bucket. -/
def Group.units (g : Group) (k : Bucket) : Nat := ceilDiv k.count g.perUnit

/-- Positions of unit `u` of a bucket, within its weight (R345). -/
def Group.positions (g : Group) (k : Bucket) (u : Nat) : List Nat :=
  ((List.range g.perUnit).filter (fun i => decide (g.perUnit * u + i < k.count))).map (fun i => k.start + g.perUnit * u + i)

/-- The combiner of a bucket in a block (R348). -/
def Group.combiner (g : Group) (b : Nat) (k : Bucket) (block : Nat) : Nat :=
  if g.blockOf k.owner = block then k.owner
  else
    let l := g.ranksIn block
    l.getD (b % l.length) noRank

/-- Arrivals that this channel expects for each unit of a bucket; 0 where it is neither combiner nor owner (R348). -/
def Group.expected (g : Group) (b : Nat) (k : Bucket) : Nat :=
  if k.owner = g.rank then (g.ranksIn g.block).length + g.blocks.length - 1
  else if g.combiner b k g.block = g.rank then (g.ranksIn g.block).length
  else 0

/-- The child from which a contribution comes: a rank of the own block, or MEMBERS plus another block (R348, R358). -/
def Group.childOf (g : Group) (address : Nat) : Option Nat :=
  if addrBlock address = g.block then g.rankOf address
  else if g.blocks.contains (addrBlock address) then some (g.members.length + addrBlock address)
  else none

/-- The children of a bucket at this channel, in the order of R358, the own block's members first. -/
def Group.childList (g : Group) (k : Bucket) : List Nat :=
  g.ranksIn g.block ++ (if k.owner = g.rank then (g.blocks.filter (· != g.block)).map (fun b => g.members.length + b) else [])

/-- Bucket tag (Table 12.5). -/
def bucketTag (b u : Nat) : Nat := b * 1024 + u

/-! ### Units as bytes (R96, R357) -/

/-- The 128 bytes of a KP32 unit. -/
def Kp32.bytes (k : Kp32) (tag : Nat) : List Byte := leBytes 124 k.packed ++ leBytes 1 k.x ++ leBytes 3 tag

/-- A KP32 unit read from bytes. -/
def kp32Bytes (b : List Byte) : Kp32 := kp32Of (leNat (b.take 124)) (leNat ((b.drop 124).take 1))

/-- The 128 bytes of an F32 unit (Table 10.7). -/
def f32Bytes (vs : List Fp) (tag : Nat) : List Byte :=
  (vs.flatMap (fun v => leBytes 4 (w32 v)) ++ List.replicate 124 0#8).take 124 ++ leBytes 3 tag ++ [0#8]

/-- The values of an F32 unit. -/
def f32Values (b : List Byte) : List Fp := (List.range 31).map (fun i => f32 (leNat ((b.drop (4 * i)).take 4)))

/-- The tag in a unit's bytes. -/
def Group.unitTag (g : Group) (b : List Byte) : Nat :=
  leNat ((b.drop (if g.features.testBit 0 then 125 else 124)).take 3)

/-- What one addition comes to (R353). -/
inductive AddResult where
  | sum (unit : Kp32) (renormalised overflow : Bool)
  | residueFault
  deriving DecidableEq, Repr

/-- The addition of two KP32 units (R353). -/
def kpAdd (a b : Kp32) : AddResult :=
  if a.x = 255 ∨ b.x = 255 then .sum Kp32.poisonedUnit false false
  else if !a.residuesOk || !b.residuesOk then .residueFault
  else
    let ea := max a.x 1
    let eb := max b.x 1
    let e := max ea eb
    let s := (List.range 32).map (fun i =>
      roundHalfEven (a.entries.getD i (0, 0)).1 (2 ^ (e - ea)) + roundHalfEven (b.entries.getD i (0, 0)).1 (2 ^ (e - eb)))
    let wide := s.any (fun v => decide (v < -134217728) || decide (134217727 < v))
    let t := if wide then s.map (fun v => roundHalfEven v 2) else s
    let e' := if wide then e + 1 else e
    if e' = 255 then .sum Kp32.poisonedUnit wide true
    else .sum ⟨e', t.map (fun v => (v, residue7 v))⟩ wide false

/-- The decoded values of a unit, rounded once to FP32 (R356, R357). -/
def Group.decodeUnit (g : Group) (b : List Byte) : List Fp :=
  if g.features.testBit 0 then
    let k := kp32Bytes b
    (List.range 32).map (fun i => (k.entry i).round fp32 .nearest)
  else f32Values b

/-! ### Packets of a segment (R349, R363) -/

/-- Sends one packet of a segment of KIND 0, 1 or 3 with a TAG. -/
def State.sendUnits (s : State) (c : Chan) (g : Group) (dest ptype cls segment step tag : Nat) (last : Bool)
    (data : List Byte) : State :=
  s.post c { ptype := ptype, cls := cls, last := last, dest := dest, source := s.address c, group := g.id,
             segment := segment, seq := 0, hops := 8, epoch := g.epoch.setWidth 8, step := BitVec.ofNat 32 step,
             tag := BitVec.ofNat 32 tag, e2e := 0, data := data }

/-- The step that a packet's 32 bits mean, nearest to a known step. -/
def liftStep (near : Nat) (w : Word) : Nat := ((near : Int) + (w - BitVec.ofNat 32 near).toInt).toNat

/-- The latest step that the channel knows: of a loaded or uncommitted program, or of the last record. -/
def Channel.nearStep (h : Channel) : Nat := h.coll.steps.foldl (fun m q => max m q.step) h.lastStep

/-! ### Runs of buckets and steps -/

/-- The run of a bucket in a step. -/
def Collective.run (k : Collective) (g step b : Nat) : BucketRun :=
  (k.runs.find? (fun r => r.group == g && r.step == step && r.bucket == b)).getD ⟨g, step, b, false, false, [], [], []⟩

/-- The collective part of a channel changed by a function. -/
def State.onColl (s : State) (c : Chan) (f : Collective → Collective) : State :=
  s.onChan c (fun h => { h with coll := f h.coll })

/-- The run of a bucket changed by a function. -/
def State.onRun (s : State) (c : Chan) (g step b : Nat) (f : BucketRun → BucketRun) : State :=
  s.onColl c (fun k =>
    let others := k.runs.filter (fun r => !(r.group == g && r.step == step && r.bucket == b))
    { k with runs := others ++ [f (k.run g step b)] })

/-- The record of a step changed by a function. -/
def State.onStep (s : State) (c : Chan) (step : Nat) (f : StepRun → StepRun) : State :=
  s.onColl c (fun k => { k with steps := k.steps.map (fun q => if q.step = step then f q else q) })

/-- The record of a step, if its program has been loaded here and it is neither committed nor aborted. -/
def Collective.stepRun (k : Collective) (step : Nat) : Option StepRun := k.steps.find? (fun q => q.step == step)

/-- No member applies the optimizer in a step before the step that precedes it is committed and secured (R381). -/
def State.unsecured (s : State) (c : Chan) (step : Nat) : Bool :=
  let h := s.chan c
  h.coll.steps.any (fun q => decide (q.step < step)) || (h.training.recordSinceSeed && decide (h.lastStep < step) && s.ent (kSafe c 2) != h.lastStep)

/-- Every weight of a plan, with its description. -/
def Channel.weight (h : Channel) (id : Nat) : Option Weight := h.training.weights.find? (fun w => w.id == id)

/-- Address of position `q` in stored order of a wide tensor (R345). -/
def TensorDesc.posAddr (t : TensorDesc) (q : Nat) : Nat := t.wideAddr (q / t.rowLen) (q % t.rowLen)

/-! ### Parameters (R363, R364) -/

/-- Writes the PARAM values of one unit into a parameter bank, `vs` in the order of the unit's positions. -/
def Channel.writeUnit (h : Channel) (g : Group) (k : Bucket) (bank u : Nat) (vs : List Fp) : Channel :=
  match (h.weight k.weight).bind (fun w => w.bank 0 bank) with
  | none => h
  | some t => ((g.positions k u).zip vs).foldl (fun h q => h.writeNat (t.posAddr q.1) t.wideBytes (Fp.encode t.wide q.2)) h

/-- Bytes of a PARAM unit: 32 values of PARAM_FORMAT (R363). -/
def Plan.unitBytes (p : Plan) (vs : List Fp) : List Byte :=
  let n := if p.format = 0x10 then 2 else 4
  let f := if p.format = 0x10 then bf16 else fp32
  (vs.flatMap (fun v => leBytes n (Fp.encode f (v.round f .nearest))) ++ List.replicate (32 * n) 0#8).take (32 * n)

/-- The values of unit `i` of a PARAM packet. -/
def Plan.paramValues (p : Plan) (data : List Byte) (i : Nat) : List Fp :=
  let n := if p.format = 0x10 then 2 else 4
  let f := if p.format = 0x10 then bf16 else fp32
  (List.range 32).map (fun e => Fp.decode f (leNat ((data.drop (32 * n * i + n * e)).take n)))

/-- Units that a PARAM packet carries. -/
def Plan.paramUnits (p : Plan) (data : List Byte) : Nat := data.length / (if p.format = 0x10 then 64 else 128)

/-- The bank write of a PARAM packet's units (R364). -/
def State.bankWrite (s : State) (c : Chan) (g : Group) (p : Plan) (step b first : Nat) (data : List Byte) : State :=
  (List.range (p.paramUnits data)).foldl (fun s i =>
    let u := first + i
    let s := s.onChan c (fun h => h.writeUnit g (p.bucket b) (step % 2) u (p.paramValues data i))
    s.onRun c g.id step b (fun r => { r with written := if r.written.contains u then r.written else u :: r.written })) s

/-- The bank write, or its wait while tag s − 2 is live (R364). -/
def State.takeParam (s : State) (c : Chan) (g : Group) (p : Plan) (step b first : Nat) (k : Packet) : State :=
  if (s.chan c).live (BitVec.ofNat 16 (step + 65536 - 2)) then
    (s.onColl c (fun q => { q with waitParam := q.waitParam ++ [(none, k)] })).bump c (kUpd c 0x25)
  else s.bankWrite c g p step b first k.data

/-- Ranks to which a channel sends the PARAM units and the REDUCED message of a bucket: an owner to its block and to the other
combiners, a combiner to its block (R363). -/
def Group.downTree (g : Group) (b : Nat) (k : Bucket) : List Nat :=
  let mine := (g.ranksIn g.block).filter (· != g.rank)
  if k.owner = g.rank then mine ++ (g.blocks.filter (· != g.block)).map (g.combiner b k)
  else if g.combiner b k g.block = g.rank then mine
  else []

/-- Broadcasts the new values of one unit; the owner's own bank is written in the same way (R363). Log entry 80. -/
def State.sendParam (s : State) (c : Chan) (g : Group) (p : Plan) (step b u : Nat) (last : Bool) (vs : List Fp) : State :=
  let data := p.unitBytes vs
  let own : Packet := { ptype := 0x03, cls := 2, last := last, dest := s.address c, source := s.address c, group := g.id,
                        segment := 2 ^ 14 + b, seq := 0, hops := 8, epoch := g.epoch.setWidth 8,
                        step := BitVec.ofNat 32 step, tag := BitVec.ofNat 32 (bucketTag b u), e2e := 0, data := data }
  let s := s.takeParam c g p step b u own
  (g.downTree b (p.bucket b)).foldl (fun s r =>
    s.sendUnits c g (g.address r) 0x03 2 (2 ^ 14 + b) step (bucketTag b u) last data) s

/-! ### The optimizer (R347, R359, R361) -/

/-- A tensor that names a plan's status record, with the columns of a weight. -/
def Plan.record (p : Plan) (w : Weight) : TensorDesc := { w.grad with status := p.status }

/-- Records work in the status record of a plan (R355, R359). -/
def State.planStats (s : State) (c : Chan) (p : Plan) (b : Nat) (w : Stats) : State :=
  match (s.chan c).weight (p.bucket b).weight with
  | some q => s.mergeStats c (p.record q) w
  | none => s

/-- The coordinates of a position of a bucket's weight. -/
def Channel.coords (h : Channel) (k : Bucket) (q : Nat) : Nat × Nat :=
  match h.weight k.weight with
  | some w => w.grad.logical (q / w.grad.rowLen) (q % w.grad.rowLen)
  | none => (0, 0)

/-- The plan skips the step on this channel (R347, R360). -/
def State.skipStep (s : State) (c : Chan) (g step : Nat) : State :=
  match (s.chan c).coll.stepRun step with
  | some q =>
    if q.skipped.contains g then s
    else (s.onStep c step (fun q => { q with skipped := g :: q.skipped })).bump c (kUpd c 0x29)
  | none => s

/-- Reads the learning rate of a step when the owner first applies the optimizer in it; a bad one is recorded as kind 0x0D and
skips the step (R347, R355). -/
def State.readRate (s : State) (c : Chan) (p : Plan) (step : Nat) : State :=
  match (s.chan c).coll.stepRun step with
  | none => s
  | some q =>
    if (mget none p.group q.rates).isSome then s
    else
      let t := step - p.firstStep + 1
      let w := (s.chan c).nat (p.lrTable + 4 * (min t p.lrCount - 1)) 4
      let s := s.onStep c step (fun q => { q with rates := mset none p.group (some w) q.rates })
      if (f32 w).isFinite && !Fp.gt Fp.zero (f32 w) then s
      else
        let b := (p.ownedBy ((((s.chan c).comm p.group).map (·.rank)).getD noRank)).headD 0
        let k := p.bucket b
        let at' := (s.chan c).coords k k.start
        (s.planStats c p b (Stats.ofInvalid ⟨0x0D, at'.1, at'.2, b⟩)).skipStep c p.group step

/-- What the optimizer computes for one element: w′, m′ and v′. -/
structure OptOut where
  w : Fp
  m : Fp
  v : Fp
  deriving DecidableEq, Repr

/-- The optimizer on one element (R361). -/
def Plan.optimize (p : Plan) (lr bc1 bc2 w m v g : Fp) : OptOut :=
  let b1 := f32 p.beta1
  let b2 := f32 p.beta2
  let wd := f32 p.decay
  let close := fun (d : Fp) => sub32 w (mul32 lr (add32 d (mul32 wd w)))
  if p.optimizer = 1 then
    let m' := add32 (mul32 b1 m) g
    let d := if p.nesterov then add32 g (mul32 b1 m') else m'
    ⟨close d, m', v⟩
  else if p.optimizer = 2 then
    let m' := add32 (mul32 b1 m) (mul32 (sub32 Fp.one b1) g)
    let v' := add32 (mul32 b2 v) (mul32 (sub32 Fp.one b2) (mul32 g g))
    let d := div32 (div32 m' bc1) (add32 (sqrt32 (div32 v' bc2)) (f32 p.epsilon))
    ⟨close d, m', v'⟩
  else
    let e := add32 (mul32 b1 m) (mul32 (sub32 Fp.one b1) g)
    let d := if Fp.gt e Fp.zero then Fp.one else if Fp.gt Fp.zero e then Fp.one.neg else Fp.zero
    ⟨close d, add32 (mul32 b2 m) (mul32 (sub32 Fp.one b2) g), v⟩

/-- Writes header slot s mod 2 of a plan's shard table (R361): advanced, or copied in a skipped step. -/
def Channel.advanceHeader (h : Channel) (p : Plan) (step : Nat) (skip : Bool) : Channel :=
  let src := p.shard + 8 * ((step + 1) % 2)
  let dst := p.shard + 8 * (step % 2)
  let p1 := h.nat src 4
  let p2 := h.nat (src + 4) 4
  if skip then (h.writeNat dst 4 p1).writeNat (dst + 4) 4 p2
  else (h.writeNat dst 4 (w32 (mul32 (f32 p1) (f32 p.beta1)))).writeNat (dst + 4) 4 (w32 (mul32 (f32 p2) (f32 p.beta2)))

/-- The clip factor from the norm of a step (R360). -/
def Plan.clipFactor (p : Plan) (norm : Fp) : Fp := if Fp.gt norm (f32 p.clipNorm) then div32 (f32 p.clipNorm) norm else Fp.one

/-- Applies the optimizer to the elements of one unit of an owned bucket, with the reduced gradients `gs` (R361): the new master
values, and the channel after the writes with what is recorded. -/
def Channel.optimizeUnit (h : Channel) (g : Group) (p : Plan) (step b u : Nat) (skip : Bool) (lr factor : Fp)
    (gs : List Fp) : List Fp × Channel × Stats × Nat :=
  let k := p.bucket b
  let h := h.advanceHeader p step skip
  let head := p.shard + 8 * (step % 2)
  let bc1 := sub32 Fp.one (f32 (h.nat head 4))
  let bc2 := sub32 Fp.one (f32 (h.nat (head + 4) 4))
  let n := slotBytes k.count
  let old := (step + 1) % 2
  let new := step % 2
  ((g.positions k u).zip gs).foldl (fun (acc : List Fp × Channel × Stats × Nat) q =>
    let h := acc.2.1
    let e := q.1 - k.start
    let w := h.nat (p.master b old + 4 * e) 4
    let m := h.nat (p.stateSlot b old + 4 * e) 4
    let v := h.nat (p.stateSlot b old + n + 4 * e) 4
    let x := if p.clip then mul32 q.2 factor else q.2
    let bad := !x.isFinite
    let o := if skip || bad then (w, m, v)
      else
        let r := p.optimize lr bc1 bc2 (f32 w) (f32 m) (f32 v) x
        (w32 r.w, w32 r.m, w32 r.v)
    let h := (h.writeNat (p.master b new + 4 * e) 4 o.1).writeNat (p.stateSlot b new + 4 * e) 4 o.2.1
    let h := if p.words = 2 then h.writeNat (p.stateSlot b new + n + 4 * e) 4 o.2.2 else h
    let place := h.coords k q.1
    let st := if bad then acc.2.2.1.merge (((h.weight k.weight).map (fun y => y.grad.cols)).getD 1)
        (Stats.ofInvalid ⟨0x0B, place.1, place.2, b⟩) else acc.2.2.1
    (acc.1 ++ [f32 o.1], h, st, if bad then acc.2.2.2 + 1 else acc.2.2.2)) ([], h, Stats.none, 0)

/-- One unit of an owned bucket passes R361, and its parameters go out (R361, R363). Log entry 81. -/
def State.applyUnit (s : State) (c : Chan) (g : Group) (p : Plan) (step b u : Nat) (gs : List Fp) : State :=
  let s := s.readRate c p step
  match (s.chan c).coll.stepRun step with
  | none => s
  | some q =>
    let skip := q.skipped.contains p.group
    let lr := f32 ((mget none p.group q.rates).getD 0)
    let factor := match mget none p.group q.norms with
      | some n => p.clipFactor (f32 n.toNat)
      | none => Fp.one
    let r := (s.chan c).optimizeUnit g p step b u skip lr factor gs
    let s := ((s.setChan c r.2.1).planStats c p b r.2.2.1).bumpBy c (kUpd c 0x2A) r.2.2.2
    let s := s.onRun c g.id step b (fun x => { x with updated := if x.updated.contains u then x.updated else u :: x.updated })
    let last := decide (g.units (p.bucket b) ≤ ((s.chan c).coll.run g.id step b).updated.length)
    s.sendParam c g p step b u last r.1

/-! ### Bucket slots (R351, R353, R356, R358) -/

/-- The slot of a bucket in a step. -/
def Collective.slot (k : Collective) (g step b : Nat) : Option SlotUse :=
  k.slots.find? (fun q => q.group == g && q.step == step && q.bucket == b)

/-- The lowest free slot. -/
def Collective.freeSlot (k : Collective) : Option Nat := (List.range 256).find? (fun i => !k.slots.any (fun q => q.index == i))

/-- Claims a slot for a bucket where it has none (R351); none when all are in use. -/
def State.claimSlot (s : State) (c : Chan) (g step b : Nat) : Option State :=
  let k := (s.chan c).coll
  if (k.slot g step b).isSome then some s
  else match k.freeSlot with
    | some i => some (s.onColl c (fun k => { k with slots := k.slots ++ [⟨i, g, step, b, [], [], 0⟩] }))
    | none => none

/-- A slot changed by a function. -/
def State.onSlot (s : State) (c : Chan) (g step b : Nat) (f : SlotUse → SlotUse) : State :=
  s.onColl c (fun k => { k with slots := k.slots.map (fun q =>
    if q.group = g ∧ q.step = step ∧ q.bucket = b then f q else q) })

/-- Frees the slot of a bucket. -/
def State.freeSlot (s : State) (c : Chan) (g step b : Nat) : State :=
  s.onColl c (fun k => { k with slots := k.slots.filter (fun q => !(q.group == g && q.step == step && q.bucket == b)) })

/-- Address of the accumulator unit `u` of a slot (R351). Log entry 99. -/
def State.slotAddr (s : State) (c : Chan) (index u : Nat) : Nat := s.ent (kUpd c 3) + 131072 * index + 128 * u

/-- Address of a child's unit in the reduction area (R358): fixed by the bucket's place in the window, the child and the unit.
Log entry 79. -/
def Group.orderedAddr (g : Group) (p : Plan) (step b child u : Nat) : Nat :=
  let most := g.blocks.foldl (fun m x => max m (g.ranksIn x).length) 0
  let units := ceilDiv (p.buckets.foldl (fun m x => max m x.count) 0) 32
  let k := p.bucket b
  let i := ((g.childList k).findIdx? (· == child)).getD 0
  p.area + 128 * ((((step * p.buckets.length + b) % p.window) * (most + g.blocks.length) + i) * units + u)

/-- RESIDUE_FAULT (R354): counted, raised, and the step aborted; the unit is discarded. -/
def State.residueFault (s : State) (c : Chan) (g step b u : Nat) : State :=
  ((s.bump c (kUpd c 0x23)).raise c 0x0070 (leBytes 2 g ++ leBytes 8 step ++ leBytes 2 b ++ leBytes 2 u)).sendAbort c step 0x03

/-- Counts one addition (R353, Table 14.5); an exponent overflow is recorded as kind 0x0C at the unit's entry 0 (R355). -/
def State.countAdd (s : State) (c : Chan) (g : Group) (p : Plan) (b u : Nat) (renormalised overflow : Bool) : State :=
  let s := (s.bump c (kUpd c 0x21)).perfAdd c 75 32
  let s := if renormalised then s.bump c (kUpd c 0x22) else s
  if overflow then
    let k := p.bucket b
    let at' := (s.chan c).coords k (k.start + g.perUnit * u)
    s.planStats c p b (Stats.ofInvalid ⟨0x0C, at'.1, at'.2, b⟩)
  else s

/-- Adds a unit into another (R353, R357): the sum's bytes, or none at a residue fault. -/
def State.addBytes (s : State) (c : Chan) (g : Group) (p : Plan) (b u : Nat) (x y : List Byte) : State × Option (List Byte) :=
  if g.features.testBit 0 then
    match kpAdd (kp32Bytes x) (kp32Bytes y) with
    | .residueFault => (s, none)
    | .sum k ren ov => (s.countAdd c g p b u ren ov, some (k.bytes (bucketTag b u)))
  else
    (s.countAdd c g p b u false false, some (f32Bytes (((f32Values x).zip (f32Values y)).map (fun q => add32 q.1 q.2)) (bucketTag b u)))

/-- Whether the residues of a unit's bytes hold; F32 units have none (R353, R357). -/
def Group.unitSound (g : Group) (x : List Byte) : Bool := !g.features.testBit 0 || (kp32Bytes x).residuesOk

/-- Sums a list of units in its order (R358); one that stands alone is only checked. -/
def State.sumUnits (s : State) (c : Chan) (g : Group) (p : Plan) (b u : Nat) : List (List Byte) → State × Option (List Byte)
  | [] => (s, none)
  | [x] => (s, if g.unitSound x then some x else none)
  | x :: l => l.foldl (fun (a : State × Option (List Byte)) y => match a.2 with
      | some v => a.1.addBytes c g p b u v y
      | none => a) (s, some x)

/-- The sum of a complete unit in ordered mode: a combiner its block in ascending rank; the owner its own block's sum at its
block's place among the others (R358). Log entry 79. -/
def State.orderedSum (s : State) (c : Chan) (g : Group) (p : Plan) (step b u : Nat) : State × Option (List Byte) :=
  let k := p.bucket b
  let read := fun (child : Nat) => (s.chan c).bytes (g.orderedAddr p step b child u) 128
  let own := s.sumUnits c g p b u ((g.ranksIn g.block).map read)
  if k.owner ≠ g.rank then own
  else match own.2 with
    | none => own
    | some v => own.1.sumUnits c g p b u (g.blocks.map (fun x => if x = g.block then v else read (g.members.length + x)))

/-- One more arrival of a unit at its combiner or owner: in ordered mode it is written to its place; else the first is stored after
its residues are checked, and a later one is added (R353, R354, R358). -/
def State.arriveUnit (s : State) (c : Chan) (g : Group) (p : Plan) (step b u child : Nat) (x : List Byte) : State :=
  match (s.chan c).coll.slot g.id step b with
  | none => s
  | some q =>
    let n := mget 0 u q.counts
    let had := mget [] u q.children
    if had.contains child then s
    else
      let note := fun (s : State) => s.onSlot c g.id step b (fun q => { q with
        counts := mset 0 u (n + 1) q.counts, children := mset [] u (child :: had) q.children })
      if p.ordered then note (s.memWrite c (g.orderedAddr p step b child u) x)
      else
        let a := s.slotAddr c q.index u
        if n = 0 then (if g.unitSound x then note (s.memWrite c a x) else s.residueFault c g.id step b u)
        else
          let r := s.addBytes c g p b u ((s.chan c).bytes a 128) x
          match r.2 with
          | some v => note (r.1.memWrite c a v)
          | none => r.1.residueFault c g.id step b u

/-- The complete value of a unit whose arrivals are all in (R356, R358). -/
def State.unitValue (s : State) (c : Chan) (g : Group) (p : Plan) (step b u : Nat) : State × Option (List Byte) :=
  if p.ordered then s.orderedSum c g p step b u
  else match (s.chan c).coll.slot g.id step b with
    | some q => (s, some ((s.chan c).bytes (s.slotAddr c q.index u) 128))
    | none => (s, none)

/-- A complete unit whose sum has a residue fault is discarded: it does not come again (R354). -/
def State.discardUnit (s : State) (c : Chan) (g : Group) (step b u : Nat) : State :=
  (s.onSlot c g.id step b (fun q => { q with counts := mset 0 u 0 q.counts })).residueFault c g.id step b u

/-- The reduced gradients of a complete unit (R356, R359), with the unit's ABSMAX. -/
def Group.reducedGradients (g : Group) (p : Plan) (x : List Byte) : List Fp :=
  (g.decodeUnit x).map (fun v => mul32 v (f32 p.gradScale))

/-- A complete unit leaves a combiner for the owner (R356). Log entry 80. -/
def State.forwardUnit (s : State) (c : Chan) (g : Group) (p : Plan) (step b u : Nat) : State :=
  let r := s.unitValue c g p step b u
  match r.2 with
  | none => r.1.discardUnit c g step b u
  | some x =>
    let k := p.bucket b
    let done := (((r.1.chan c).coll.slot g.id step b).map (·.finished)).getD 0 + 1
    let last := decide (g.units k ≤ done)
    let s := r.1.sendUnits c g (g.address k.owner) 0x02 1 b step (bucketTag b u) last x
    let s := s.onSlot c g.id step b (fun q => { q with finished := done, counts := mset 0 u 0 q.counts })
    if last then s.freeSlot c g.id step b else s

/-- Marks a unit as done at the owner; the slot is freed after the last one (R351), and the owner's own gate opens (R350). Under
CLIP the members are told by REDUCED (R360). -/
def State.unitDone (s : State) (c : Chan) (g : Group) (p : Plan) (step b u : Nat) : State :=
  let k := p.bucket b
  let done := (((s.chan c).coll.slot g.id step b).map (·.finished)).getD 0 + 1
  let s := s.onSlot c g.id step b (fun q => { q with finished := done, counts := mset 0 u 0 q.counts })
  if done < g.units k then s
  else
    let s := (s.freeSlot c g.id step b).onRun c g.id step b (fun r => { r with gate := true })
    if p.clip then s.tellAll c g (g.downTree b k) 0x22 step (leBytes 2 b) else s

/-- A complete unit at its owner: updated, or under CLIP written as reduced gradients into master slot s mod 2 (R356 to R361). -/
def State.ownUnit (s : State) (c : Chan) (g : Group) (p : Plan) (step b u : Nat) : State :=
  let r := s.unitValue c g p step b u
  match r.2 with
  | none => r.1.discardUnit c g step b u
  | some x =>
    let k := p.bucket b
    let gs := (g.reducedGradients p x).take (g.positions k u).length
    let s := r.1.planStats c p b (gs.foldl (fun st v => st.merge 1 (Stats.ofValue v)) Stats.none)
    let s := if p.clip then
        (((g.positions k u).zip gs).foldl (fun s q =>
          s.memWrite c (p.master b (step % 2) + 4 * (q.1 - k.start)) (leBytes 4 (w32 q.2))) s).onRun c g.id step b
            (fun y => { y with reduced := u :: y.reduced })
      else s.applyUnit c g p step b u gs
    s.unitDone c g p step b u

/-- Units of a slot whose arrivals are all in and that have not left it, ascending. -/
def Group.complete (g : Group) (p : Plan) (q : SlotUse) : List Nat :=
  (List.range (g.units (p.bucket q.bucket))).filter (fun u =>
    mget 0 u q.counts != 0 && mget 0 u q.counts == g.expected q.bucket (p.bucket q.bucket))

/-- Moves on every complete unit of a slot that may go. -/
def State.advanceSlot (s : State) (c : Chan) (q : SlotUse) : State :=
  match (s.chan c).comm q.group, (s.chan c).coll.plan q.group with
  | some g, some p =>
    if (p.bucket q.bucket).owner = g.rank then
      if s.unsecured c q.step then s
      else (g.complete p q).foldl (fun s u => s.ownUnit c g p q.step q.bucket u) s
    else (g.complete p q).foldl (fun s u => s.forwardUnit c g p q.step q.bucket u) s
  | _, _ => s

/-! ### The norm pass (R360) -/

/-- The sum of the squares of a bucket's reduced gradients, in ascending position. -/
def Channel.squareSum (h : Channel) (p : Plan) (step b : Nat) : Fp :=
  (List.range (p.bucket b).count).foldl (fun a i =>
    let v := f32 (h.nat (p.master b (step % 2) + 4 * i) 4)
    add32 a (mul32 v v)) Fp.zero

/-- Sends NORM_PART for a clipping plan that takes part in the step once every owned bucket of the step is complete; 0 when none is
owned (R347, R360).
Log entry 81. -/
def State.checkNorm (s : State) (c : Chan) (p : Plan) (step : Nat) : State :=
  let h := s.chan c
  match h.comm p.group, h.coll.stepRun step with
  | some g, some q =>
    let owned := p.ownedBy g.rank
    let whole := fun (b : Nat) => decide (g.units (p.bucket b) ≤ (h.coll.run g.id step b).reduced.length)
    if !p.clip || step < p.firstStep || q.normSent.contains g.id || !owned.all whole then s
    else
      let sum := owned.foldl (fun a b => add32 a (h.squareSum p step b)) Fp.zero
      (s.onStep c step (fun q => { q with normSent := g.id :: q.normSent })).sendUp c g 0x20 step
        (leBytes 4 1 ++ leBytes 4 (w32 sum))
  | _, _ => s

/-- Moves on everything of the collective engine that waits for nothing more: complete units, and the norm parts. -/
def State.advance (s : State) (c : Chan) : State :=
  let s := (s.chan c).coll.slots.foldl (fun s q => s.advanceSlot c q) s
  (s.chan c).coll.steps.foldl (fun s q => (s.chan c).coll.sorted.foldl (fun s p => s.checkNorm c p q.step) s) s

/-- The FP32 value that an arrival's body carries first. -/
def Arrival.value (a : Arrival) : Fp := f32 (leNat (a.body.take 4))

/-- The sum of the arrivals' values in their order. -/
def sumArrivals : List Arrival → Fp
  | [] => Fp.zero
  | a :: l => l.foldl (fun x b => add32 x b.value) a.value

/-- NORM_PART (R360). -/
def execNormPart (c : Chan) (pkt : Packet) (s : State) : Host.Outcome State Fault Refusal :=
  .next (s.onMessage c pkt 0x20 false (fun s g => match g.arrivalOf pkt 0 with
    | none => s
    | some a => s.climb c g a (fun l => leBytes 4 (w32 (sumArrivals l))) (fun s l =>
        s.broadcast c g 0x21 pkt.fullStep (leBytes 4 (w32 (sqrt32 (sumArrivals l)))))))

/-- The reduced gradients of a unit, read back from master slot s mod 2 (R360). -/
def Channel.storedGradients (h : Channel) (g : Group) (p : Plan) (step b u : Nat) : List Fp :=
  (g.positions (p.bucket b) u).map (fun q => f32 (h.nat (p.master b (step % 2) + 4 * (q - (p.bucket b).start)) 4))

/-- NORM (R360): every owner applies the clip factor, or the step is skipped. -/
def execNorm (c : Chan) (pkt : Packet) (s : State) : Host.Outcome State Fault Refusal :=
  .next (s.onMessage c pkt 0x21 false (fun s g =>
    let s := s.relay c g pkt
    let step := pkt.fullStep
    match (s.chan c).coll.plan g.id, (s.chan c).coll.stepRun step with
    | some p, some q =>
      if !p.clip || (mget none g.id q.norms).isSome then s
      else
        let n := BitVec.ofNat 32 (pkt.field 16 4)
        let s := s.onStep c step (fun q => { q with norms := mset none g.id (some n) q.norms })
        let s := if (f32 n.toNat).isFinite then s else s.skipStep c g.id step
        (p.ownedBy g.rank).foldl (fun s b =>
          (List.range (g.units (p.bucket b))).foldl (fun s u =>
            s.applyUnit c g p step b u ((s.chan c).storedGradients g p step b u)) s) s
    | _, _ => s))

/-- REDUCED (R350, R360): the gate of the bucket, and the message on to the combiner's block. -/
def execReduced (c : Chan) (pkt : Packet) (s : State) : Host.Outcome State Fault Refusal :=
  .next (s.onMessage c pkt 0x22 false (fun s g =>
    let b := pkt.field 16 2
    match (s.chan c).coll.plan g.id with
    | none => s
    | some p =>
      let s := s.onRun c g.id pkt.fullStep b (fun r => { r with gate := true })
      if addrBlock pkt.source = g.block then s
      else s.tellAll c g (g.downTree b (p.bucket b)) 0x22 pkt.fullStep (leBytes 2 b)))

/-! ### Conversion (R350, R352) -/

/-- The gate of every bucket whose position is WINDOW or more before that of bucket `b` of a step has been seen (R350). Buckets
of committed steps have been seen. -/
def Channel.gateOpen (h : Channel) (p : Plan) (step b : Nat) : Bool :=
  let n := p.buckets.length
  h.coll.steps.all (fun q => decide (step < q.step) || decide (q.step < p.firstStep) || (List.range n).all (fun i =>
    decide (step * n + b < q.step * n + i + p.window) || (h.coll.run p.group q.step i).gate))

/-- The value of the gradient buffer at a position: kept from an earlier read, or in memory (R352). -/
def Channel.gradAt (h : Channel) (w : Weight) (q : Nat) : Nat :=
  match mget none (w.grad.posAddr q) h.coll.kept with
  | some v => v
  | none => h.nat (w.grad.posAddr q) 6

/-- READ_CLEAR of every group that holds a position of a bucket: the values of other positions are kept for later buckets, and
each value becomes +0 (R352, Table 8.6). -/
def Channel.readBuffer (h : Channel) (w : Weight) (p : Plan) (k : Bucket) : Channel :=
  let mine := (List.range k.count).map (fun i => k.start + i)
  let n := w.grad.rowLen
  let groupOf := fun (q : Nat) => (q / n, q % n / 10)
  let later := fun (q : Nat) => p.buckets.any (fun x => x.weight == k.weight && x.start != k.start
    && decide (x.start ≤ q) && decide (q < x.start + x.count))
  let h := mine.foldl (fun (h : Channel) q => { h with coll := { h.coll with kept := mset none (w.grad.posAddr q) none h.coll.kept } }) h
  let groups := mine.foldl (fun l q => if l.head? = some (groupOf q) then l else groupOf q :: l) []
  groups.foldl (fun (h : Channel) gq =>
    (List.range 10).foldl (fun (h : Channel) i =>
      let e := 10 * gq.2 + i
      if n ≤ e then h
      else
        let q := gq.1 * n + e
        let a := w.grad.posAddr q
        let v := h.nat a 6
        let keep := later q && v != 0 && !(decide (k.start ≤ q) && decide (q < k.start + k.count))
        let h := if keep then { h with coll := { h.coll with kept := mset none a (some v) h.coll.kept } } else h
        h.writeNat a 6 0) h) h

/-- The bytes of unit `u` of a bucket converted from gradient values (R98, R261, R352, R357). -/
def State.convertUnit (s : State) (c : Chan) (g : Group) (w : Weight) (step b u : Nat) (vals : List (Nat × Nat)) : List Byte :=
  let keys : DrawKeys := ⟨s.ent (kEng c 0x11), step, w.grad.tensorId, 4096⟩
  let vs := vals.map (fun q => Fp.decode ka48 q.2)
  if g.features.testBit 0 then
    let draws := vals.map (fun q => keys.at (w.grad.index (q.1 / w.grad.rowLen) (q.1 % w.grad.rowLen)))
    (toKp32 (.stochastic draws) vs).bytes (bucketTag b u)
  else f32Bytes (vs.map (fun v => v.round fp32 .nearest)) (bucketTag b u)

/-- Groups of up to `n` of a list. -/
def chunks {α : Type} (n : Nat) : Nat → List α → List (List α)
  | 0, _ => []
  | k + 1, l => if l.isEmpty then [] else l.take n :: chunks n k (l.drop n)

/-- Sends the units of the channel's own contribution to the combiner, up to four a packet (R352). -/
def State.sendPartials (s : State) (c : Chan) (g : Group) (dest step b : Nat) (units : List (List Byte)) : State :=
  let l := chunks 4 (units.length + 1) units
  l.zipIdx.foldl (fun s q =>
    s.sendUnits c g dest 0x02 1 b step (bucketTag b (4 * q.2)) (decide (q.2 + 1 = l.length)) (q.1.flatMap id)) s

/-- The buffer of a weight is wholly read once every bucket that names it has been converted; values that no bucket covers are
discarded (R250, R352). -/
def State.settleWeight (s : State) (c : Chan) (p : Plan) (step weight : Nat) : State :=
  let h := s.chan c
  let left := (List.range p.buckets.length).any (fun b =>
    (p.bucket b).weight == weight && !(h.coll.run p.group step b).converted)
  if left then s
  else match h.weight weight with
    | none => s
    | some w =>
      let s := s.onChan c (fun h => h.clearBuffer w.grad)
      let inside := fun (a : Nat) => decide (w.grad.data ≤ a) && decide (a < w.grad.data + w.grad.extent)
      let s := s.onColl c (fun k => { k with kept := k.kept.filter (fun e => !inside e.1) })
      s.onWeight c weight (fun w => { w with handed := none })

/-- The conversion of one bucket and its contribution (R352). -/
def State.convertBucket (s : State) (c : Chan) (g : Group) (p : Plan) (w : Weight) (step b : Nat) : State :=
  let k := p.bucket b
  let h := s.chan c
  let units := (List.range (g.units k)).map (fun u =>
    s.convertUnit c g w step b u ((g.positions k u).map (fun q => (q, h.gradAt w q))))
  let s := s.onChan c (fun h => h.readBuffer w p k)
  let s := s.bumpBy c (kUpd c 0x20) units.length
  let s := s.onRun c g.id step b (fun r => { r with converted := true })
  let dest := g.combiner b k g.block
  let s := if dest = g.rank then
      units.zipIdx.foldl (fun s q => s.arriveUnit c g p step b q.2 g.rank q.1) s
    else s.sendPartials c g (g.address dest) step b units
  (s.settleWeight c p step k.weight).advance c

/-- BUCKET_CONVERT (R350 to R352). -/
def execBucketConvert (c : Chan) (group bucket : Nat) (s : State) : Host.Outcome State Fault Refusal :=
  .next (let h := s.chan c
    match h.comm group, h.coll.plan group with
    | some g, some p =>
      (match h.weight (p.bucket bucket).weight with
        | none => s
        | some w => (match w.handed with
          | none => s
          | some step =>
            let before := (List.range bucket).any (fun i =>
              (p.bucket i).weight == w.id && !(h.coll.run group step i).converted)
            if !h.issues || p.buckets.length ≤ bucket || g.state != .active || before
                || (h.coll.run group step bucket).converted || !h.gateOpen p step bucket then s
            else if g.combiner bucket (p.bucket bucket) g.block = g.rank then
              (match s.claimSlot c group step bucket with
                | some s => s.convertBucket c g p w step bucket
                | none => s)
            else s.convertBucket c g p w step bucket))
    | _, _ => s)

/-! ### PARTIAL and PARAM packets (R349, R351, R364, R372) -/

/-- Traffic of a step that the channel no longer takes: its commit is sealed or made (Table 12.11). Log entry 82. -/
def Channel.lateStep (h : Channel) (step : Nat) : Bool :=
  (h.coll.phaseStep == step && decide (2 ≤ h.coll.phase) && decide (h.coll.phase ≤ 4))
    || (h.training.recordSinceSeed && decide (step ≤ h.lastStep))

/-- Whether every unit of a PARTIAL names itself as the packet's TAG does (R349). -/
def Group.tagsAgree (g : Group) (k : Packet) : Bool :=
  (List.range (k.data.length / 128)).all (fun i =>
    g.unitTag ((k.data.drop (128 * i)).take 128) == k.tag.toNat % 2 ^ 24 + i)

/-- A PARTIAL that finds no free slot waits in its receive buffer, its tickets withheld (R351). Log entry 82. -/
def State.holdPartial (s : State) (c : Chan) (k : Packet) : State :=
  let src := ((s.chan c).net.inbox.find? (fun e => e.2 == k)).bind (·.1)
  let s := s.onNet c (fun n => { n with inbox := n.inbox.erase (src, k) })
  if (s.chan c).coll.waitPartial.any (fun e => e.2 == k) then s.giveBack c src k
  else (s.onColl c (fun q => { q with waitPartial := q.waitPartial ++ [(src, k)] })).bump c (kUpd c 0x24)

/-- A PARTIAL packet arrives (R349, R351, R353). -/
def State.partialArrives (s : State) (c : Chan) (k : Packet) : State :=
  let h := s.chan c
  match h.comm k.group, h.coll.plan k.group with
  | some g, some p =>
    let step := liftStep h.nearStep k.step
    let b := k.segment % 16384
    let late := h.lateStep step
    if k.e2e == k.crc && !g.tagsAgree k then (s.takeInbox c k).bump c (kLink c 0xD2)
    else if !late && k.e2e == k.crc && (s.claimSlot c g.id step b).isNone then s.holdPartial c k
    else
      let r := s.receive c k false
      if !r.2 then r.1
      else if late then r.1.bump c (kUpd c 0x26)
      else match r.1.claimSlot c g.id step b, g.childOf k.source with
        | some s, some child =>
          let first := k.tag.toNat % 1024
          let s := (List.range (k.data.length / 128)).foldl (fun s i =>
            s.arriveUnit c g p step b (first + i) child ((k.data.drop (128 * i)).take 128)) s
          s.advance c
        | _, _ => r.1
  | _, _ => (s.receive c k false).1

/-- PARTIAL (R353). -/
def execPartialPkt (c : Chan) (pkt : Packet) (s : State) : Host.Outcome State Fault Refusal :=
  .next (if pkt.ptype ≠ 0x02 || !s.receives c pkt then s else s.partialArrives c pkt)

/-- SLOT_WAIT_RESUME: the oldest PARTIAL that waits for a slot proceeds once one is free (R351). -/
def execSlotWaitResume (c : Chan) (s : State) : Host.Outcome State Fault Refusal :=
  .next (match (s.chan c).coll.waitPartial with
    | [] => s
    | e :: l =>
      let k := (s.chan c).coll
      let step := liftStep (s.chan c).nearStep e.2.step
      if !(s.chan c).linksRun || ((k.slot e.2.group step (e.2.segment % 16384)).isNone && k.freeSlot.isNone) then s
      else
        let s := (s.onColl c (fun q => { q with waitPartial := l })).onNet c (fun n => { n with inbox := e :: n.inbox })
        if s.receives c e.2 then s.partialArrives c e.2 else s)

/-- A whole PARAM segment has been received (R350). -/
def Channel.segmentDone (h : Channel) (k : Packet) : Bool := h.net.rx.any (fun r => r.key == k.key && r.complete)

/-- BANK_WRITE_RESUME: bank writes and copies that waited for a live tag proceed (R364, R568). Log entries 84, 102. -/
def State.resumeBanks (s : State) (c : Chan) : State :=
  let waiting := (s.chan c).coll.waitParam
  let s := s.onColl c (fun q => { q with waitParam := [] })
  waiting.foldl (fun s e =>
    let h := s.chan c
    let step := liftStep h.nearStep e.2.step
    match h.comm e.2.group, h.coll.plan e.2.group with
    | some g, some p =>
      if h.live (BitVec.ofNat 16 (step + 65536 - 2)) then s.onColl c (fun q => { q with waitParam := q.waitParam ++ [e] })
      else s.bankWrite c g p step (e.2.segment % 16384) (e.2.tag.toNat % 1024) e.2.data
    | _, _ => s) s

end Sys2Proof.Machine
end

