-- ==== Sys2Proof/Machine/Commit.lean ====
section
/-!
DEFINITION. The step commit: what lets a member send PREPARED, the digests, the commit record, COMMIT with the parameters carried
forward and the buddy stream that follows, ABORT, and a commit after a takeover of the top (12 R363 to R373, R568; 13 R379, R381,
R384).
-/

namespace Sys2Proof.Machine

/-! ### PARAM (R350, R363, R364, R391) -/

/-- Weights that the buckets of a plan name. -/
def Plan.weightIds (p : Plan) : List Nat :=
  p.buckets.foldl (fun l b => if l.contains b.weight then l else b.weight :: l) []

/-- On a spare in fill: a parameter bank of the restore step whose every position has been written holds the step's tag and is
built (R391, R233). -/
def State.settleFillBanks (s : State) (c : Chan) (p : Plan) (step : Nat) : State :=
  let tag := BitVec.ofNat 16 step
  p.weightIds.foldl (fun s w =>
    let h := s.chan c
    let left : Bool := match h.safety.fill with
      | some f => f.paramsLeft.any (fun q => q.1 == p.group && (p.bucket q.2).weight == w)
      | none => true
    let held : Bool := match h.weight w with
      | some x => x.held (step % 2) == some tag
      | none => true
    if left || held then s
    else ((s.onWeight c w (fun x => x.setHeld (step % 2) (some tag))).buildWeight c w tag).recheckBanks c) s

/-- On a spare in fill: the units of a bucket have been written, and once all of them are, the bucket is no longer awaited. -/
def State.fillBucket (s : State) (c : Chan) (g : Group) (p : Plan) (step b : Nat) : State :=
  if ((s.chan c).coll.run g.id step b).written.length < g.units (p.bucket b) then s
  else
    let s := s.onChan c (fun h => { h with safety := { h.safety with
      fill := h.safety.fill.map (fun f => { f with paramsLeft := f.paramsLeft.filter (fun q => q != (g.id, b)) }) } })
    s.settleFillBanks c p step

/-- A PARAM packet arrives (R350, R363, R364, Table 12.11). -/
def State.paramArrives (s : State) (c : Chan) (k : Packet) : State :=
  let h := s.chan c
  let r := s.receive c k false
  match h.comm k.group, h.coll.plan k.group with
  | some g, some p =>
    let step := liftStep h.nearStep k.step
    let b := k.segment % 16384
    let first := k.tag.toNat % 1024
    let filling : Bool := match h.safety.fill with
      | some f => f.restore == step
      | none => false
    if !r.2 then r.1
    else if filling then (r.1.bankWrite c g p step b first k.data).fillBucket c g p step b
    else if h.lateStep step then r.1.bump c (kUpd c 0x26)
    else
      let own := (p.bucket b).owner == g.rank
      let s := if own then r.1
        else (g.downTree b (p.bucket b)).foldl (fun s q =>
          s.sendUnits c g (g.address q) 0x03 2 (2 ^ 14 + b) step k.tag.toNat k.last k.data) r.1
      let s := s.takeParam c g p step b first k
      if (s.chan c).segmentDone k && !p.clip then s.onRun c g.id step b (fun x => { x with gate := true }) else s
  | _, _ => r.1

/-- PARAM (R364). -/
def execParam (c : Chan) (pkt : Packet) (s : State) : Host.Outcome State Fault Refusal :=
  .next (if pkt.ptype ≠ 0x03 || !s.receives c pkt then s else s.paramArrives c pkt)

/-! ### Parameters carried forward (R568) -/

/-- Copies parameter bank (s − 1) mod 2 of a weight into bank s mod 2, records the tag there, and the build follows.
Log entry 90. -/
def State.carryWeight (s : State) (c : Chan) (step id : Nat) : State :=
  match (s.chan c).weight id with
  | none => s
  | some w =>
    let tag := BitVec.ofNat 16 step
    let s := match w.bank 0 ((step + 1) % 2), w.bank 0 (step % 2) with
      | some a, some d =>
        if a.format = d.format ∧ a.layout = d.layout then
          s.onChan c (fun h => (List.range a.storedRows).foldl (fun (h : Channel) r =>
            h.write (d.data + r * d.stride) (h.bytes (a.data + r * a.stride) a.padded)) h)
        else s.buildOne c a d
      | _, _ => s
    s.onWeight c id (fun x => x.setHeld (step % 2) (some tag))

/-- Copies the weights left of a step and puts their builds in line; a waiting descriptor whose bank has gone past its tag is refused
(R235). Log entry 90. -/
def State.carryAll (s : State) (c : Chan) (step : Nat) (ids : List Nat) : State :=
  if ids.isEmpty then s
  else ((ids.foldl (fun s i => s.carryWeight c step i) s).onTraining c
    (fun t => { t with builds := t.builds ++ [(BitVec.ofNat 16 step, ids)] })).recheckBanks c

/-- BANK_WRITE_RESUME: bank writes and copies that waited while tag s − 2 was live proceed (R364, R568). -/
def execBankWriteResume (c : Chan) (s : State) : Host.Outcome State Fault Refusal :=
  .next (
    let s := s.resumeBanks c
    let waiting := (s.chan c).coll.copies
    let s := s.onColl c (fun q => { q with copies := [] })
    waiting.foldl (fun s q =>
      if (s.chan c).live (BitVec.ofNat 16 (q.1 + 65536 - 2)) then s.onColl c (fun k => { k with copies := k.copies ++ [q] })
      else s.carryAll c q.1 q.2) s)

/-! ### Digests and the commit record (R367, R369, Table 12.8) -/

/-- Plans that take part in a step, in ascending GROUP (R347). Log entry 83. -/
def Channel.plansOf (h : Channel) (step : Nat) : List Plan := h.coll.sorted.filter (fun p => decide (p.firstStep ≤ step))

/-- Buckets that the channel owns in a plan. -/
def Channel.owned (h : Channel) (p : Plan) : List Nat :=
  match h.comm p.group with
  | some g => p.ownedBy g.rank
  | none => []

/-- The digest of a bucket's master slot and state slot `j` (R367). -/
def Channel.bucketDigest (h : Channel) (p : Plan) (b j : Nat) : List Byte :=
  let n := slotBytes (p.bucket b).count
  shake256 (h.bytes (p.master b j) n ++ h.bytes (p.stateSlot b j) (p.words * n)) 64

/-- The channel's shard digest of a step (R367). Log entry 83. -/
def Channel.shardDigest (h : Channel) (step : Nat) : List Byte :=
  shake256 ((h.plansOf step).flatMap (fun p => (h.owned p).flatMap (fun b => h.bucketDigest p b (step % 2)))) 64

/-- RECORD_DIGEST over bytes 0 to 191 with STATE and COMMIT_TIME taken as zero (Table 12.8). -/
def recordDigest (r : List Byte) : List Byte :=
  shake256 (r.take 3 ++ [0#8] ++ (r.drop 4).take 44 ++ List.replicate 8 0#8 ++ (r.drop 56).take 136) 64

/-- Whether a record is a committed one whose digest verifies (R369, R380). -/
def recordValid (r : List Byte) : Bool :=
  fieldOf r 0 2 == 0xC0 && fieldOf r 3 1 == 2 && (r.drop 192).take 64 == recordDigest r

/-- Where the record of a step lies (R369). -/
def State.recordAddr (s : State) (c : Chan) (step : Nat) : Nat := s.ent (kUpd c 2) + 256 * (step % 2)

/-- LAST_COMMIT: the committed record with the higher STEP whose digest verifies (R369); zeros where there is none. -/
def State.lastCommit (s : State) (c : Chan) : List Byte :=
  let h := s.chan c
  let r0 := h.bytes (s.recordAddr c 0) 256
  let r1 := h.bytes (s.recordAddr c 1) 256
  match recordValid r0, recordValid r1 with
  | true, true => if fieldOf r0 8 8 < fieldOf r1 8 8 then r1 else r0
  | true, false => r0
  | false, true => r1
  | false, false => List.replicate 256 0#8

/-- GLOBAL_NORM: the largest norm among the clipping plans, as an FP32 word, a NaN before every number; 0 when none clips (Table
12.8). -/
def StepRun.globalNorm (q : StepRun) : Nat :=
  q.norms.foldl (fun m e => match e.2 with
    | some n => if (f32 n.toNat).isNan || (!(f32 m).isNan && Fp.gt (f32 n.toNat) (f32 m)) then n.toNat else m
    | none => m) 0

/-- Whether the clip factor of some plan is below 1 in a step (R360). -/
def Channel.clipped (h : Channel) (q : StepRun) : Bool :=
  (h.plansOf q.step).any (fun p => p.clip && (match mget none p.group q.norms with
    | some n => Fp.gt (f32 n.toNat) (f32 p.clipNorm)
    | none => false))

/-- The record of a step as it is written pending (Table 12.8). -/
def State.pendingRecord (s : State) (c : Chan) (g : Group) (q : StepRun) (digest : List Byte) : List Byte :=
  let h := s.chan c
  let plans := h.plansOf q.step
  let bit := fun (n : Nat) (b : Bool) => if b then 2 ^ n else 0
  let flags := bit 0 (!q.skipped.isEmpty) + bit 1 (h.clipped q) + bit 2 (!plans.isEmpty && plans.all Plan.ordered)
    + bit 3 (s.mirror c) + bit 4 (s.k2 c) + bit 5 q.lag
  let body := leBytes 2 0xC0 ++ leBytes 1 flags ++ leBytes 1 1 ++ leBytes 2 g.id ++ leBytes 2 q.step ++ leBytes 8 q.step
    ++ leBytes 8 (s.ent (kEng c 0x11)) ++ leBytes 4 g.epoch.toNat ++ leBytes 2 q.trainedTag.toNat ++ leBytes 2 plans.length
    ++ leBytes 4 g.members.length ++ leBytes 4 g.rank ++ leBytes 8 h.clock.timebase.toNat ++ leBytes 8 0
    ++ leBytes 4 q.globalNorm ++ leBytes 4 ((plans.map (fun p => (h.owned p).length)).foldl (· + ·) 0)
    ++ (h.shardDigest q.step).take 64 ++ (digest ++ List.replicate 64 0#8).take 64
  body ++ recordDigest body

/-! ### PREPARED to RECORDED (R366, R367, Table 12.7) -/

/-- The lowest step that is neither committed nor aborted here. Log entry 84. -/
def Collective.lowestStep (k : Collective) : Option StepRun :=
  k.steps.foldl (fun a q => match a with
    | some m => if q.step < m.step then some q else a
    | none => some q) none

/-- Whether a segment of a step with a KIND of 0 or 1 is still open as sender (R366). -/
def Channel.stepSending (h : Channel) (step : Nat) : Bool :=
  let w := BitVec.ofNat 32 step
  h.net.tx.any (fun t => t.key.step == w && decide (t.key.segment < 2 ^ 15))
    || h.net.outbox.any (fun k => k.step == w && decide (k.segment < 2 ^ 15))

/-- Whether one bucket's work of a step is done here: converted and sent, updated where owned, and every PARAM unit written
(R366). -/
def Channel.bucketDone (h : Channel) (g : Group) (p : Plan) (step b : Nat) : Bool :=
  let r := h.coll.run p.group step b
  let n := g.units (p.bucket b)
  r.converted && (decide ((p.bucket b).owner ≠ g.rank) || decide (n ≤ r.updated.length)) && decide (n ≤ r.written.length)

/-- Whether a member may send PREPARED for a step (R366). Log entry 84. -/
def Channel.prepared (h : Channel) (q : StepRun) : Bool :=
  q.programDone && !q.prepared && !h.stepSending q.step && (h.plansOf q.step).all (fun p => match h.comm p.group with
    | some g => (List.range p.buckets.length).all (h.bucketDone g p q.step)
    | none => false)

/-- COMMIT_PHASE of a step. -/
def State.setPhase (s : State) (c : Chan) (step phase : Nat) : State :=
  s.onColl c (fun k => { k with phase := phase, phaseStep := step })

/-- PREPARED_SEND (R366). -/
def execPreparedSend (c : Chan) (s : State) : Host.Outcome State Fault Refusal :=
  .next (match (s.chan c).coll.lowestStep, s.commitGroup c with
    | some q, some g =>
      if !g.live || !(s.chan c).linksRun || !(s.chan c).prepared q then s
      else
        let s := s.onStep c q.step (fun q => { q with prepared := true })
        (s.setPhase c q.step 1).sendUp c g 0x10 q.step (leBytes 4 1)
    | _, _ => s)

/-- Whether the channel has aborted a step and not begun it anew (R370, Table 12.11). -/
def Collective.hasAborted (k : Collective) (step : Nat) : Bool := k.phase == 5 && k.phaseStep == step

/-- PREPARED (R366, R372). -/
def execPrepared (c : Chan) (pkt : Packet) (s : State) : Host.Outcome State Fault Refusal :=
  .next (s.onMessage c pkt 0x10 false (fun s g =>
    if (s.chan c).coll.hasAborted pkt.fullStep then s
    else match g.arrivalOf pkt 0 with
      | none => s
      | some a => s.climb c g a (fun _ => []) (fun s _ => s.broadcast c g 0x11 pkt.fullStep [])))

/-- SEALED (R366, R371): the member seals its step; one that has sealed it already sends DIGEST_UP again. -/
def execSealed (c : Chan) (pkt : Packet) (s : State) : Host.Outcome State Fault Refusal :=
  .next (s.onMessage c pkt 0x11 false (fun s g =>
    let s := s.relay c g pkt
    let step := pkt.fullStep
    let k := (s.chan c).coll
    if k.phaseStep ≠ step || k.phase = 0 || 3 < k.phase then s
    else
      let s := if k.phase = 1 then s.setPhase c step 2 else s
      s.sendUp c g 0x12 step (leBytes 4 1 ++ List.replicate 12 0#8 ++ (s.chan c).shardDigest step)))

/-- The 64 bytes of digest in an arrival of DIGEST_UP. -/
def Arrival.digest (a : Arrival) : List Byte := (a.body.drop 12).take 64

/-- The SHAKE256 digest of arrivals' digests in their order (R367). -/
def joinDigests (l : List Arrival) : List Byte := shake256 (l.flatMap Arrival.digest) 64

/-- DIGEST_UP (R367). -/
def execDigestUp (c : Chan) (pkt : Packet) (s : State) : Host.Outcome State Fault Refusal :=
  .next (s.onMessage c pkt 0x12 false (fun s g => match g.arrivalOf pkt 0 with
    | none => s
    | some a => s.climb c g a (fun l => List.replicate 12 0#8 ++ joinDigests l) (fun s l =>
        s.broadcast c g 0x13 pkt.fullStep (List.replicate 16 0#8 ++ joinDigests l))))

/-- DIGEST_DOWN (R366): the record is written pending, and RECORDED goes up. -/
def execDigestDown (c : Chan) (pkt : Packet) (s : State) : Host.Outcome State Fault Refusal :=
  .next (s.onMessage c pkt 0x13 false (fun s g =>
    let s := s.relay c g pkt
    let step := pkt.fullStep
    let k := (s.chan c).coll
    match k.stepRun step with
    | none => s
    | some q =>
      if k.phaseStep ≠ step then s
      else if k.phase = 3 then s.sendUp c g 0x14 step (leBytes 4 1)
      else if k.phase ≠ 2 then s
      else
        let s := s.memWrite c (s.recordAddr c step) (s.pendingRecord c g q ((pkt.data.drop 32).take 64))
        (s.setPhase c step 3).sendUp c g 0x14 step (leBytes 4 1)))

/-- The top broadcasts COMMIT (R366, R371). -/
def State.broadcastCommit (s : State) (c : Chan) (g : Group) (step : Nat) : State :=
  (s.onColl c (fun k => { k with committedAtTop := step })).broadcast c g 0x15 step []

/-- RECORDED (R366). -/
def execRecorded (c : Chan) (pkt : Packet) (s : State) : Host.Outcome State Fault Refusal :=
  .next (s.onMessage c pkt 0x14 false (fun s g => match g.arrivalOf pkt 0 with
    | none => s
    | some a => s.climb c g a (fun _ => []) (fun s _ => s.broadcastCommit c g pkt.fullStep)))

/-! ### The buddy stream (R379, R381) -/

/-- REPLICA data of up to 512 bytes each: offset and bytes. -/
def pieces (b : List Byte) : List (Nat × List Byte) :=
  (List.range (ceilDiv b.length 512)).map (fun i => (512 * i, (b.drop (512 * i)).take 512))

/-- Sends one part of a share in REPLICA packets (R379, Table 13.2). -/
def State.sendPart (s : State) (c : Chan) (g : Group) (dest segment step part : Nat) (last : Bool) (b : List Byte) : State :=
  let l := pieces b
  l.zipIdx.foldl (fun s q =>
    s.sendUnits c g dest 0x04 3 (3 * 2 ^ 14 + segment) step (part * 2 ^ 29 + q.1.1 / 16)
      (last && decide (q.2 + 1 = l.length)) q.1.2) s

/-- The parts of a share as they are sent: for each plan its header in the segment of its lowest owned bucket, then each bucket's
master slot and state words; `header` and `slot` read them (R379). -/
def State.sendShare (s : State) (c : Chan) (dest step : Nat) (buckets : Plan → List Nat) (header : Plan → List Byte)
    (slot : Plan → Nat → Nat → List Byte) : State :=
  ((s.chan c).plansOf step).foldl (fun s p => match (s.chan c).comm p.group with
    | none => s
    | some g => match buckets p with
      | [] => s
      | first :: rest =>
        let s := s.sendPart c g dest first step 3 false (header p ++ List.replicate 8 0#8)
        (first :: rest).foldl (fun s b =>
          (List.range (1 + p.words)).foldl (fun s part =>
            s.sendPart c g dest b step part (decide (part = p.words)) (slot p b part)) s) s) s

/-- The channel's own share, from slot s mod 2 (R379). -/
def State.sendOwnShare (s : State) (c : Chan) (dest step : Nat) : State :=
  let h := s.chan c
  let j := step % 2
  s.sendShare c dest step h.owned (fun p => h.bytes (p.shard + 8 * j) 8) (fun p b part =>
    let n := slotBytes (p.bucket b).count
    if part = 0 then h.bytes (p.master b j) n else h.bytes (p.stateSlot b j + (part - 1) * n) n)

/-- REPLICA_END with a record (Table 13.7). -/
def State.sendReplicaEnd (s : State) (c : Chan) (g : Group) (rank step buckets : Nat) (record : List Byte) : State :=
  s.tell c g rank 0x41 step (leBytes 4 buckets ++ List.replicate 12 0#8 ++ (record ++ List.replicate 256 0#8).take 256)

/-- The rank of the channel's buddy, if it has declared one (R376). -/
def Channel.buddy (h : Channel) (g : Group) : Option Nat :=
  match h.safety.replica with
  | some r => let b := r.buddies.getD g.rank noRank
    if b = noRank then none else some b
  | none => none

/-- Number of buckets that the channel owns in the plans of a step. -/
def Channel.ownedCount (h : Channel) (step : Nat) : Nat := ((h.plansOf step).map (fun p => (h.owned p).length)).foldl (· + ·) 0

/-- The safety net of a channel changed by a function. -/
def State.onSafety (s : State) (c : Chan) (f : Safety → Safety) : State :=
  s.onChan c (fun h => { h with safety := f h.safety })

/-- Streams the channel's share of a step to its buddy (R379); a member without one has nothing to verify. -/
def State.streamOwn (s : State) (c : Chan) (g : Group) (step : Nat) : State :=
  match (s.chan c).buddy g with
  | none => s.onSafety c (fun f => { f with streamStep := step, streamOk := true, streams := 0 })
  | some b =>
    let n := if (s.chan c).safety.streamStep = step then (s.chan c).safety.streams + 1 else 1
    let s := s.onSafety c (fun f => { f with streamStep := step, streamOk := false, streams := n })
    let s := s.sendOwnShare c (g.address b) step
    let s := s.sendReplicaEnd c g b step ((s.chan c).ownedCount step) ((s.chan c).bytes (s.recordAddr c step) 256)
    s.bump c (kSafe c 0x20)

/-- Owners that the channel serves (R378). -/
def Channel.servedOwners (h : Channel) (g : Group) : List Nat :=
  match h.safety.replica with
  | some r => r.served g.rank
  | none => []

/-- Sends SECURE once the own stream and every served owner's bank are verified, or a served owner's second stream has failed
(R380, R381). -/
def State.trySecure (s : State) (c : Chan) (g : Group) : State :=
  let h := s.chan c
  let f := h.safety
  let step := f.streamStep
  let whole := f.streamOk && (h.servedOwners g).all (fun o => f.verified.contains ⟨o, step⟩)
  if step ≤ f.secureSent || !(whole || f.badStream) then s
  else
    (s.onSafety c (fun f => { f with secureSent := step })).sendUp c g 0x43 step
      (leBytes 4 1 ++ leBytes 1 (if f.badStream then 1 else 0))

/-! ### COMMIT (R368) -/

/-- What the channel remembers of completed segments of COMMIT_GROUP and the plans' groups ends with the commit, but for the
segment that brought it (R306). Log entry 85. -/
def State.forgetSegments (s : State) (c : Chan) (g : Group) (keep : SegKey) : State :=
  let groups := g.id :: (s.chan c).coll.plans.map (fun p => p.group)
  s.onNet c (fun n => { n with rx := n.rx.filter (fun r => !r.complete || !groups.contains r.key.group || r.key == keep) })

/-- Registered layers that are refreshed after a commit, ascending (R152). -/
def Arrays.toRefresh (a : Arrays) : List Nat :=
  (a.layers.filter (fun l => decide (0 < l.rank) && !l.frozen)).foldl (fun l q => insertNat q.id l) []

/-- Drops arrivals of messages of a commit up to a step (R366). Log entry 82. -/
def Group.dropArrivals (g : Group) (step : Nat) : Group :=
  { g with arrivals := g.arrivals.filter (fun a => !(decide (0x10 ≤ a.msg) && decide (a.msg ≤ 0x22) && decide (a.step ≤ step))) }

/-- The member commits a step (R368, R568, R152, R233, R273, R379). Log entry 85. -/
def State.commitStep (s : State) (c : Chan) (g : Group) (q : StepRun) (keep : SegKey) : State :=
  let h := s.chan c
  let step := q.step
  let tag := BitVec.ofNat 16 step
  let a := s.recordAddr c step
  let s := s.onChan c (fun h => (h.writeNat (a + 3) 1 2).writeNat (a + 48) 8 h.clock.timebase.toNat)
  let named := (h.plansOf step).flatMap Plan.weightIds
  let mine := h.training.ids.filter (fun i => named.contains i)
  let others := h.training.ids.filter (fun i => !named.contains i)
  let s := s.onTraining c (fun t => { t with
    weights := t.weights.map (fun w => if named.contains w.id then w.setHeld (step % 2) (some tag) else w),
    builds := t.builds ++ [(tag, mine)],
    recordSinceSeed := true })
  let s := if h.live (tag - 2) then s.onColl c (fun k => if others.isEmpty then k else { k with copies := k.copies ++ [(step, others)] })
    else s.carryAll c step others
  let s := (s.recheckBanks c).bump c (kUpd c 0x27)
  let s := s.onChan c (fun h => { h with
    lastStep := step,
    arrays := { h.arrays with refreshLeft := h.arrays.toRefresh, refreshVersion := tag, refreshStep := step },
    groups := h.groups.map (fun g => g.dropArrivals step),
    safety := { h.safety with noLag := h.safety.noLag && q.lag, faults := [], badStream := false,
                              secureSent := min h.safety.secureSent (step - 1) } })
  let s := s.evaluateWatches c step
  let s := s.onColl c (fun k => { k with
    committedAt := some h.clock.timebase,
    runs := k.runs.filter (fun r => decide (step < r.step)), steps := k.steps.filter (fun x => decide (step < x.step)),
    slots := k.slots.filter (fun x => decide (step < x.step)) })
  let s := ((s.setPhase c step 4).forgetSegments c g keep).streamOwn c g step
  s.trySecure c g

/-- COMMIT (R368). -/
def execCommit (c : Chan) (pkt : Packet) (s : State) : Host.Outcome State Fault Refusal :=
  .next (s.onMessage c pkt 0x15 false (fun s g =>
    let s := s.relay c g pkt
    let step := pkt.fullStep
    let k := (s.chan c).coll
    match k.stepRun step with
    | none => s
    | some q => if k.phaseStep = step ∧ k.phase = 3 then s.commitStep c g q pkt.key else s))

/-! ### ABORT (R370, R384) -/

/-- Drops everything that belongs to a step (R370): its bucket slots, its open segments of reduction, parameters and replicas,
its waits, its progress, its silence counts, and what ringmasters have gathered of it. Log entry 85. -/
def State.dropStep (s : State) (c : Chan) (step : Nat) : State :=
  let w := BitVec.ofNat 32 step
  let h := s.chan c
  let kept := fun (kind : Nat) (st : Word) => st != w || kind == 2
  let s := (h.coll.waitPartial.filter (fun e => e.2.step == w)).foldl (fun s e => s.giveBack c e.1 e.2) s
  let s := s.onNet c (fun n => { n with
    tx := n.tx.filter (fun t => kept (t.key.segment / 2 ^ 14) t.key.step),
    outbox := n.outbox.filter (fun k => kept (k.segment / 2 ^ 14) k.step),
    rx := n.rx.filter (fun r => kept (r.key.segment / 2 ^ 14) r.key.step) })
  let s := s.onColl c (fun k => { k with
    slots := k.slots.filter (fun x => x.step != step), runs := k.runs.filter (fun r => r.step != step),
    steps := k.steps.filter (fun q => q.step != step), copies := k.copies.filter (fun q => q.1 != step),
    waitPartial := k.waitPartial.filter (fun e => e.2.step != w), waitParam := k.waitParam.filter (fun e => e.2.step != w) })
  s.onChan c (fun h => { h with
    training := { h.training with silence := h.training.silence.filter (fun q => q.step != step) },
    groups := h.groups.map (fun g => { g with arrivals := g.arrivals.filter (fun a => a.step != step || decide (a.msg < 0x10)
      || decide (0x30 ≤ a.msg)) }) })

/-- Clears the gradient buffers of every weight of a step's plans (R370). -/
def State.clearGradients (s : State) (c : Chan) (step : Nat) : State :=
  let named := ((s.chan c).plansOf step).flatMap Plan.weightIds
  let ws := (s.chan c).training.weights.filter (fun w => named.contains w.id)
  let s := ws.foldl (fun s w => s.onChan c (fun h => h.clearBuffer w.grad)) s
  let inside := fun (a : Nat) => ws.any (fun w => decide (w.grad.data ≤ a) && decide (a < w.grad.data + w.grad.extent))
  let s := s.onColl c (fun k => { k with kept := k.kept.filter (fun e => !inside e.1) })
  s.onTraining c (fun t => { t with weights := t.weights.map (fun w => if named.contains w.id then { w with handed := none } else w) })

/-- Records every parameter bank s mod 2 as empty (R370, R568); the images built from them hold no tag when `images` (Table
13.4). Log entry 86. -/
def State.emptyBanks (s : State) (c : Chan) (step : Nat) (images : Bool) : State :=
  s.onTraining c (fun t => { t with weights := t.weights.map (fun w =>
    let w := w.setHeld (step % 2) none
    if images then w.setBuilt (step % 2) none else w) })

/-- A record of a step in a given STATE is set to discarded (R370, R385). -/
def State.discardRecord (s : State) (c : Chan) (step state : Nat) : State :=
  let a := s.recordAddr c step
  let r := (s.chan c).bytes a 256
  if fieldOf r 0 2 = 0xC0 ∧ fieldOf r 3 1 = state ∧ fieldOf r 8 8 = step then s.onChan c (fun h => h.writeNat (a + 3) 1 3) else s

/-- Abandons the loaded program with status 0x03 on an order of the safety net (R241, R384). -/
def State.orderAbandon (s : State) (c : Chan) : State :=
  match (s.chan c).training.program with
  | some p => s.abandonProgram c 3 p.slot 0 none
  | none => s

/-- The member aborts a step (R370, R384). Log entry 86. -/
def State.abortStep (s : State) (c : Chan) (step reason address : Nat) : State :=
  let s := s.clearGradients c step
  let s := ((((s.dropStep c step).emptyBanks c step false).discardRecord c step 1).setPhase c step 5).onColl c
    (fun k => { k with abortCause := some (reason, address) })
  let s := s.onSafety c (fun f => { f with noLag := true })
  let s := (s.bump c (kUpd c 0x28)).raise c 0x0071 (leBytes 8 step ++ leBytes 1 reason ++ leBytes 4 address)
  if reason = 4 then (s.orderAbandon c).setEnt (kSafe c 1) 1 else s

/-- ABORT (R370, R372): a request at the top, and elsewhere and from the top itself the order. -/
def execAbort (c : Chan) (pkt : Packet) (s : State) : Host.Outcome State Fault Refusal :=
  .next (s.onMessage c pkt 0x16 false (fun s g =>
    let step := pkt.fullStep
    let reason := pkt.field 16 1
    let address := pkt.field 20 4
    if g.isTop && pkt.source != s.address c then s.topAbort c g step reason address
    else
      let s := s.relay c g pkt
      let h := s.chan c
      if (h.training.recordSinceSeed && decide (step ≤ h.lastStep)) || h.coll.abortedFor step reason then s else s.abortStep c step reason address))

/-- STEP_TIMEOUT: PREPARED is missing at the top (R370). Log entry 87. -/
def execStepTimeout (c : Chan) (s : State) : Host.Outcome State Fault Refusal :=
  .next (match s.commitGroup c with
    | none => s
    | some g =>
      if !g.isTop || !g.live then s
      else match g.arrivals.find? (fun a => a.msg == 0x10) with
        | some a => s.topAbort c g a.step 0x05 (s.address c)
        | none => s)

/-! ### After a takeover of the top (R371) -/

/-- COMMIT_PHASE of a channel with regard to a step: a later commit leaves it committed, an earlier one idle.
Log entry 87. -/
def Collective.phaseOf (k : Collective) (step : Nat) : Nat :=
  if k.phaseStep = step then k.phase else if step < k.phaseStep then 4 else 0

/-- STATUS_QUERY (R371). -/
def execStatusQuery (c : Chan) (pkt : Packet) (s : State) : Host.Outcome State Fault Refusal :=
  .next (s.onMessage c pkt 0x17 false (fun s g =>
    let s := s.relay c g pkt
    s.tell c g g.top 0x18 pkt.fullStep (leBytes 1 ((s.chan c).coll.phaseOf pkt.fullStep))))

/-- STATUS (R371). -/
def execStatus (c : Chan) (pkt : Packet) (s : State) : Host.Outcome State Fault Refusal :=
  .next (s.onMessage c pkt 0x18 false (fun s g => match g.rankOf pkt.source with
    | none => s
    | some r =>
      if !g.isTop || g.phases.isEmpty then s
      else s.onComm c g.id (fun g => { g with phases := g.phases.filter (fun q => q.1 != r) ++ [(r, pkt.field 16 1)] })))

/-- What the new top sends on the phases reported (Table 12.10); a reason reaches it only by an ABORT that it has applied itself, since
STATUS carries none. -/
def State.actOnPhases (s : State) (c : Chan) (g : Group) : State :=
  let step := (s.chan c).coll.phaseStep
  let all := (List.range g.members.length).map (fun r => (g.phases.find? (fun q => q.1 == r)).map (fun q => q.2))
  let every := fun (n : Nat) => all.all (fun q => match q with
    | some v => decide (n ≤ v)
    | none => false)
  if all.contains (some 4) || every 3 && !all.contains (some 5) then s.broadcastCommit c g step
  else if all.contains none || all.contains (some 5) then
    (match (s.chan c).coll.abortCause with
      | some (reason, address) => s.broadcast c g 0x16 step (abortBody reason address)
      | none => s.topAbort c g step 0x04 (s.address c))
  else if every 1 then s.broadcast c g 0x11 step []
  else s

/-- STATUS_QUERY_TIMEOUT (R371). Log entry 87. -/
def execStatusQueryTimeout (c : Chan) (s : State) : Host.Outcome State Fault Refusal :=
  .next (match s.commitGroup c with
    | none => s
    | some g =>
      if !g.isTop || g.phases.isEmpty || !(s.chan c).linksRun then s
      else (s.actOnPhases c g).onComm c g.id (fun g => { g with phases := [] }))

end Sys2Proof.Machine
end

