-- ==== Sys2Proof/Machine/SafetyNet.lean ====
section
/-!
DEFINITION. The safety net: replica banks and their verification, SECURE and SECURED, UNWIND, the loss and the replacement of a
member, group images, the fill of a spare, lost shards, withdrawal and the reset of a group (13 R376 to R399; 15 R448).
-/

namespace Sys2Proof.Machine

/-! ### Replica banks (R378 to R380) -/

/-- Start of replica bank `j` (R378). -/
def Replica.bank (r : Replica) (j : Nat) : Nat := r.area + j * (r.bytes / 2)

/-- Start of a served owner's share in bank `j`: the shares lie in ascending rank (R378). -/
def Channel.shareBase (h : Channel) (r : Replica) (g : Group) (owner j : Nat) : Nat :=
  let before := (r.served g.rank).filter (fun o => decide (o < owner))
  r.bank j + (before.map (fun o => h.shareBytes h.coll.sorted (g.address o))).foldl (· + ·) 0

/-- Place of a part in a share: a plan's header, or a bucket's master slot with its state words behind it (R378). -/
def Channel.partPlace (h : Channel) (address gid : Nat) (bucket : Option Nat) : Option Nat :=
  let parts := h.shareParts h.coll.sorted address
  (parts.findIdx? (fun q => q.1 == gid && q.2.1 == bucket)).map (fun i =>
    256 + ((parts.take i).map (fun q => q.2.2)).foldl (· + ·) 0)

/-- The declaration in force, with its group. -/
def Channel.declared (h : Channel) : Option (Replica × Group) :=
  match h.safety.replica with
  | some r => (h.comm r.group).map (fun g => (r, g))
  | none => none

/-- Where a part of a bucket owned by a served owner lies in a replica bank; none where it is not served (R379). -/
def Channel.replicaPlace (h : Channel) (q : Group) (p : Plan) (step b part : Nat) : Option Nat :=
  match h.declared with
  | none => none
  | some (r, g) =>
    let address := q.address (p.bucket b).owner
    match g.rankOf address with
    | none => none
    | some o =>
      if !(r.served g.rank).contains o then none
      else (h.partPlace address q.id (if part = 3 then none else some b)).map (fun x =>
        h.shareBase r g o (step % 2) + x + (if part = 3 then 0 else part * slotBytes (p.bucket b).count))

/-- Where a part of the channel's own bucket lies: slot s mod 2, or the header slot (R391). -/
def Plan.ownPlace (p : Plan) (step b part : Nat) : Nat :=
  let j := step % 2
  if part = 3 then p.shard + 8 * j
  else if part = 0 then p.master b j
  else p.stateSlot b j + (part - 1) * slotBytes (p.bucket b).count

/-- Writes a REPLICA packet's part (R379, R391). A bank that receives a stream is no longer verified. -/
def State.takeReplica (s : State) (c : Chan) (q : Group) (p : Plan) (k : Packet) : State :=
  let h := s.chan c
  let step := liftStep h.nearStep k.step
  let b := k.segment % 16384
  let part := k.tag.toNat / 2 ^ 29
  let off := k.tag.toNat % 2 ^ 29 * 16
  let filling : Bool := match h.safety.fill with
    | some f => f.restore == step
    | none => false
  if (p.bucket b).owner = q.rank then
    (if filling then s.memWrite c (p.ownPlace step b part + off) (if part = 3 then k.data.take 8 else k.data) else s)
  else match h.replicaPlace q p step b part with
    | none => s
    | some a =>
      let owner := (h.declared.bind (fun d => d.2.rankOf (q.address (p.bucket b).owner))).getD noRank
      let s := s.onSafety c (fun f => { f with
        verified := f.verified.filter (fun v => !(v.owner == owner && v.step % 2 == step % 2 && v.step != step)) })
      s.memWrite c (a + off) k.data

/-! ### Group images (R388) -/

/-- Bytes kept for one group image (R388). -/
def imageStride : Nat := 655360

/-- Offset of the ringmaster list in an image: the next 64-byte boundary after the member list. -/
def imageRing (members : Nat) : Nat := 64 + 64 * ceilDiv (4 * members) 64

/-- The bytes of a group's image: its descriptor as it now stands, and its two lists (R388). -/
def Group.image (g : Group) : List Byte :=
  let desc := g.desc.take 32 ++ leBytes 4 g.top ++ leBytes 4 g.topSucc1 ++ leBytes 4 g.topSucc2 ++ leBytes 4 g.epoch.toNat
  let members := memberBytes g.members
  desc ++ List.replicate 16 0#8 ++ members ++ List.replicate (imageRing g.members.length - 64 - members.length) 0#8
    ++ g.ring.flatMap RingEntry.bytes

/-- The acting top of a group sends its image to a spare (R388). -/
def State.sendImage (s : State) (c : Chan) (g : Group) (spare serial step : Nat) : State :=
  s.sendPart c g spare (serial % 16384) step 4 true g.image

/-- The group that an image in the rebuild area describes: ACTIVE at its epoch without admission, its lists the spare's own
(R388). Its usable features and message version are not in the image: free values that hold what REQUIRED asks for.
Log entry 92. -/
def State.imagedGroup (s : State) (c : Chan) (base features version : Nat) : Group :=
  let h := s.chan c
  let n := h.nat (base + 8) 4
  let rings := base + imageRing n
  let members := (List.range n).map (fun r => h.nat (base + 64 + 4 * r) 4)
  let desc := h.bytes base 16 ++ leBytes 8 (base + 64) ++ leBytes 8 rings ++ h.bytes (base + 32) 16
  let g := s.readGroup c base
  { g with
    state := .active, desc := desc, members := members, features := features % 65536 ||| fieldOf desc 6 2,
    ring := (List.range (h.nat (base + 14) 2)).map (fun i => ringEntry (h.bytes (rings + 16 * i) 16)),
    rank := (members.findIdx? (· == s.address c)).getD noRank, version := version % 65536, imaged := true }

/-- A packet of a group image: written into the rebuild area, and the group registered when its segment is complete (R388). -/
def State.takeImage (s : State) (c : Chan) (k : Packet) : State :=
  let base := s.ent (kSafe c 9) + imageStride * k.group
  let s := s.memWrite c (base + k.tag.toNat % 2 ^ 29 * 16) k.data
  if !(s.chan c).segmentDone k || ((s.chan c).comm k.group).isSome then s
  else
    let a := s.drawFree
    let b := a.2.drawFree
    let s := b.2
    let g := (s.imagedGroup c base (Config.fresh a.1) (Config.fresh b.1)).watchFrom (s.chan c).clock.timebase
    s.onChan c (fun h => { h with
      groups := h.groups ++ [g] })

/-- REPLICA (R379, R388). Log entry 75. -/
def execReplica (c : Chan) (pkt : Packet) (s : State) : Host.Outcome State Fault Refusal :=
  .next (if pkt.ptype ≠ 0x04 || !s.receives c pkt then s
    else if pkt.tag.toNat / 2 ^ 29 = 4 then
      let r := s.receive c pkt true
      if r.2 && s.ent (kSafe c 9) != 0 then r.1.takeImage c pkt else r.1
    else
      let r := s.receive c pkt false
      match (s.chan c).comm pkt.group, (s.chan c).coll.plan pkt.group with
      | some g, some p => if r.2 && decide (pkt.tag.toNat / 2 ^ 29 < 4) then r.1.takeReplica c g p pkt else r.1
      | _, _ => r.1)

/-! ### REPLICA_END (R380, R391, R392) -/

/-- The shard digest of a served owner, from bank s mod 2 (R367, R380). -/
def Channel.bankDigest (h : Channel) (r : Replica) (g : Group) (owner step : Nat) : List Byte :=
  let address := g.address owner
  let base := h.shareBase r g owner (step % 2)
  shake256 ((h.plansOf step).flatMap (fun p => (p.ownedBy (h.rankIn address p.group)).flatMap (fun b =>
    match h.partPlace address p.group (some b) with
    | some x => shake256 (h.bytes (base + x) ((1 + p.words) * slotBytes (p.bucket b).count)) 64
    | none => []))) 64

/-- A failed stream: counted, raised, its segments forgotten so that a second stream can open them again, and answered (R380).
Log entry 88. -/
def State.replicaFault (s : State) (c : Chan) (g : Group) (owner step source : Nat) : State :=
  let s := (s.bump c (kSafe c 0x22)).raise c 0x0080 (leBytes 4 owner ++ leBytes 8 step)
  let w := BitVec.ofNat 32 step
  let s := s.onNet c (fun n => { n with
    rx := n.rx.filter (fun r => !(r.key.source == source && r.key.segment / 2 ^ 14 == 3 && r.key.step == w)) })
  s.message c source g.id g.epoch 0x42 step (leBytes 1 1 ++ [0#8, 0#8, 0#8] ++ leBytes 4 owner)

/-- A verified stream is counted and answered (R380). -/
def State.replicaGood (s : State) (c : Chan) (g : Group) (owner step source : Nat) : State :=
  (s.bump c (kSafe c 0x21)).message c source g.id g.epoch 0x42 step ([0#8, 0#8, 0#8, 0#8] ++ leBytes 4 owner)

/-- The fill is complete: FILLED, the counter and the completion (R391). -/
def State.checkFill (s : State) (c : Chan) (g : Group) : State :=
  match (s.chan c).safety.fill with
  | none => s
  | some f =>
    let h := s.chan c
    if !f.shardDone || !f.paramsLeft.isEmpty || !(h.servedOwners g).all (fun o => h.safety.verified.contains ⟨o, f.restore⟩) then s
    else
      let s := s.onSafety c (fun q => { q with fill := none, filled := some f.restore })
      let s := s.onComm c f.group (fun g => { g with imaged := false })
      let s := s.onColl c (fun k => { k with runs := k.runs.filter (fun r => r.step != f.restore) })
      let s := (s.tell c g g.top 0x4B f.restore (leBytes 4 g.rank ++ leBytes 1 0)).bump c (kSafe c 0x26)
      match (s.chan c).job f.job with
      | some j => s.completeJob c j 0 0
      | none => s

/-- Values of a unit of an owned bucket in master slot s mod 2. -/
def Channel.masterUnit (h : Channel) (g : Group) (p : Plan) (step b u : Nat) : List Fp :=
  (g.positions (p.bucket b) u).map (fun q => f32 (h.nat (p.master b (step % 2) + 4 * (q - (p.bucket b).start)) 4))

/-- The spare's own buckets are written from its restored masters (R391). -/
def State.fillOwn (s : State) (c : Chan) (step : Nat) : State :=
  ((s.chan c).plansOf step).foldl (fun s p => match (s.chan c).comm p.group with
    | none => s
    | some g => (p.ownedBy g.rank).foldl (fun s b =>
        let s := (List.range (g.units (p.bucket b))).foldl (fun s u =>
          s.bankWrite c g p step b u (p.unitBytes ((s.chan c).masterUnit g p step b u))) s
        s.fillBucket c g p step b) s) s

/-- Whether a record's MIRROR and K2_EMULATION flags agree with NUMERICS_MODE (R391). -/
def State.numericsAgree (s : State) (c : Chan) (r : List Byte) : Bool :=
  let flags := fieldOf r 2 1
  flags.testBit 3 == s.mirror c && flags.testBit 4 == s.k2 c

/-- FILL_REQUEST goes to the spare's buddy and to the top (R391, R392). -/
def State.requestFill (s : State) (c : Chan) (g : Group) (step : Nat) : State :=
  let s := match (s.chan c).buddy g with
    | some b => if b = g.top then s else s.tell c g b 0x49 step (leBytes 4 g.rank)
    | none => s
  s.tell c g g.top 0x49 step (leBytes 4 g.rank)

/-- A fill's check fails: FILL_REQUEST once more, or FILL_FAULT (R392). Log entry 94. -/
def State.fillFault (s : State) (c : Chan) (g : Group) (f : Fill) (final : Bool) : State :=
  if final || f.retried then s.tell c g g.top 0x4B f.restore (leBytes 4 g.rank ++ leBytes 1 1)
  else
    (s.onSafety c (fun q => { q with fill := some { f with retried := true } })).requestFill c g f.restore

/-- An owner sends its buckets' parameters of the restore step straight to the spare (R391). -/
def State.resendParams (s : State) (c : Chan) (spare step : Nat) : State :=
  ((s.chan c).plansOf step).foldl (fun s p => match (s.chan c).comm p.group with
    | none => s
    | some g =>
      if !g.members.contains spare then s
      else (p.ownedBy g.rank).foldl (fun s b =>
        let n := g.units (p.bucket b)
        (List.range n).foldl (fun s u =>
          s.sendUnits c g spare 0x03 2 (2 ^ 14 + b) step (bucketTag b u) (decide (u + 1 = n))
            (p.unitBytes ((s.chan c).masterUnit g p step b u))) s) s) s

/-- What PARAM_RESEND asks of an owner: its parameters, and its shard again, with R380's one repetition open to it, where the spare is
its buddy (R391). -/
def State.answerResend (s : State) (c : Chan) (g : Group) (spare step : Nat) : State :=
  let s := s.resendParams c spare step
  match (s.chan c).buddy g with
  | some b => if g.address b = spare then (s.onSafety c (fun f => { f with streams := 0 })).streamOwn c g step else s
  | none => s

/-- Answers the PARAM_RESENDs that waited for the spare's own masters (Table 13.6). -/
def State.answerOwed (s : State) (c : Chan) (g : Group) : State :=
  let l := (s.chan c).safety.owedParams
  l.foldl (fun s q => s.answerResend c g q.1 q.2) (s.onSafety c (fun f => { f with owedParams := [] }))

/-- The restored shard's record arrives at the spare (R391, R392). -/
def State.restoreShard (s : State) (c : Chan) (g : Group) (f : Fill) (r : List Byte) (source : Nat) : State :=
  let h := s.chan c
  let step := f.restore
  if !(recordValid r && fieldOf r 8 8 == step && (r.drop 64).take 64 == h.shardDigest step) then
    (s.replicaFault c g g.rank step source).fillFault c g f false
  else
    let s := s.replicaGood c g g.rank step source
    if !s.numericsAgree c r then s.fillFault c g f true
    else
      let body := (r.take 24 ++ leBytes 4 g.epoch.toNat ++ (r.drop 28).take 164)
      let s := s.memWrite c (s.recordAddr c step) (body ++ recordDigest body)
      let s := s.setEnt (kEng c 0x11) (fieldOf r 16 8)
      let s := s.onChan c (fun h => { h with
        lastStep := step,
        training := { h.training with recordSinceSeed := true },
        safety := { h.safety with fill := some { f with shardDone := true }, streamStep := step, streamOk := true,
                                  secureSent := step } })
      ((s.fillOwn c step).answerOwed c g).checkFill c g

/-- A served owner's stream is verified (R380). -/
def State.verifyServed (s : State) (c : Chan) (r : Replica) (g : Group) (owner step source : Nat) (rcd : List Byte) : State :=
  let h := s.chan c
  let ok := recordValid rcd && fieldOf rcd 8 8 == step && (rcd.drop 64).take 64 == h.bankDigest r g owner step
  if ok then
    let s := s.memWrite c (h.shareBase r g owner (step % 2)) rcd
    let s := s.onSafety c (fun f => { f with
      verified := f.verified.filter (fun v => !(v.owner == owner && v.step % 2 == step % 2)) ++ [⟨owner, step⟩],
      faults := f.faults.filter (· != owner) })
    ((s.replicaGood c g owner step source).trySecure c g).checkFill c g
  else
    let second := h.safety.faults.contains owner
    let s := s.onSafety c (fun f => { f with faults := owner :: f.faults, badStream := f.badStream || second })
    (s.replicaFault c g owner step source).trySecure c g

/-- REPLICA_END (R380, R391). Log entry 88. -/
def execReplicaEnd (c : Chan) (pkt : Packet) (s : State) : Host.Outcome State Fault Refusal :=
  .next (s.onMessage c pkt 0x41 false (fun s g =>
    let rcd := (pkt.data.drop 32).take 256
    let rank := fieldOf rcd 36 4
    let step := pkt.fullStep
    let h := s.chan c
    match h.safety.fill, h.safety.replica with
    | some f, some r =>
      if rank = g.rank ∧ f.restore = step then s.restoreShard c g f rcd pkt.source
      else if (r.served g.rank).contains rank then s.verifyServed c r g rank step pkt.source rcd
      else s
    | none, some r => if (r.served g.rank).contains rank then s.verifyServed c r g rank step pkt.source rcd else s
    | _, none => s))

/-- REPLICA_VERIFIED (R380): the own stream is verified, or made once more. -/
def execReplicaVerified (c : Chan) (pkt : Packet) (s : State) : Host.Outcome State Fault Refusal :=
  .next (s.onMessage c pkt 0x42 false (fun s g =>
    let f := (s.chan c).safety
    if pkt.field 20 4 ≠ g.rank || pkt.fullStep ≠ f.streamStep || f.streamOk then s
    else if pkt.field 16 1 = 0 then (s.onSafety c (fun f => { f with streamOk := true })).trySecure c g
    else if f.streams < 2 then s.streamOwn c g f.streamStep
    else s))

/-! ### SECURE, SECURED and UNWIND (R381, R385) -/

/-- The top broadcasts UNWIND of its latest committed step unless that step is secured (Table 13.3). -/
def State.topUnwind (s : State) (c : Chan) (g : Group) (step reason : Nat) : State :=
  let h := s.chan c
  if max h.coll.committedAtTop h.lastStep ≠ step || h.safety.securedAtTop = step || s.ent (kSafe c 2) = step then s
  else (s.onColl c (fun k => { k with committedAtTop := step - 1 })).broadcast c g 0x45 step (leBytes 1 reason)

/-- A SECURE of result 0 climbs; with the last one the top broadcasts SECURED (R381). -/
def State.climbSecure (s : State) (c : Chan) (g : Group) (a : Arrival) : State :=
  s.climb c g a (fun _ => leBytes 1 0) (fun s _ =>
    (s.onSafety c (fun f => { f with securedAtTop := a.step })).broadcast c g 0x44 a.step [])

/-- SECURE (R381): result 1 goes up at once, and unwinds the step at the top. Log entry 88. -/
def execSecure (c : Chan) (pkt : Packet) (s : State) : Host.Outcome State Fault Refusal :=
  .next (s.onMessage c pkt 0x43 false (fun s g =>
    let step := pkt.fullStep
    match g.arrivalOf pkt 0 with
    | none => s
    | some a =>
      if pkt.field 20 1 = 1 then
        (if g.isTop then s.topUnwind c g step 0x06 else s.tell c g g.top 0x43 step (leBytes 4 a.covered ++ leBytes 1 1))
      else s.climbSecure c g a))

/-- SECURED (R381): work of the next step that waited for it proceeds. -/
def execSecured (c : Chan) (pkt : Packet) (s : State) : Host.Outcome State Fault Refusal :=
  .next (s.onMessage c pkt 0x44 false (fun s g =>
    let s := s.relay c g pkt
    (s.setEnt (kSafe c 2) pkt.fullStep).advance c))

/-- Folds and factors after an UNWIND of a step (Table 13.4). -/
def State.unwindArrays (s : State) (c : Chan) (step : Nat) : State :=
  let tag := BitVec.ofNat 16 step
  let s := ((s.chan c).arrays.folds.filter (fun f => f.source == tag)).foldl (fun s f => s.cancelFold c f) s
  let back := ((s.chan c).arrays.layers.filter (fun l => l.switched == some tag)).foldl (fun l q => insertNat q.id l) []
  s.onChan c (fun h =>
    let a := h.arrays
    let undo := fun (l : Layer) => { l with
      refreshed := if l.refreshed = some tag then some (tag - 1) else l.refreshed,
      switched := if l.switched = some tag then some (tag - 1) else l.switched,
      projectNext := l.projectNext || l.switched == some tag }
    { h with
      arrays := { a with
        layers := a.layers.map undo,
        folds := a.folds.map (fun f => if f.switch = some tag then { f with switch := none } else f),
        refreshLeft := back, refreshVersion := tag - 1, refreshStep := step - 1 },
      safety := { h.safety with refreshFirst := back } })

/-- The member undoes a committed step (R384, R385, Table 13.4). Log entries 86, 91. -/
def State.unwindStep (s : State) (c : Chan) (step reason : Nat) : State :=
  let tag := BitVec.ofNat 16 step
  let h := s.chan c
  let committed := h.training.recordSinceSeed && h.lastStep == step
  let s := (s.clearGradients c step).clearGradients c (step + 1)
  let s := (s.dropStep c step).dropStep c (step + 1)
  let s := ((s.discardRecord c step 2).discardRecord c step 1).emptyBanks c step true
  let s := s.unwindArrays c step
  let prior := (s.chan c).bytes (s.recordAddr c (step + 1)) 256
  let since := recordValid prior && fieldOf prior 8 8 + 1 == step && fieldOf prior 16 8 == s.ent (kEng c 0x11)
  let s := s.onChan c (fun h => { h with
    lastStep := if committed then step - 1 else h.lastStep,
    training := { h.training with
      builds := h.training.builds.filter (fun b => b.1 != tag),
      watches := if committed then h.safety.watchesBefore else h.training.watches,
      recordSinceSeed := if committed then since else h.training.recordSinceSeed },
    groups := h.groups.map (fun g => { g with arrivals := g.arrivals.filter (fun a => !(a.msg == 0x43 && a.step == step)) }),
    safety := { h.safety with
      verified := h.safety.verified.filter (fun v => v.step != step), streamStep := step - 1, streamOk := true,
      secureSent := step - 1, badStream := false, faults := [], noLag := true } })
  let s := (s.setPhase c step 5).onColl c (fun k => { k with abortCause := none, committedAtTop := min k.committedAtTop (step - 1) })
  let s := (s.setEnt (kSafe c 2) (step - 1)).setEnt (kSafe c 3) (step - 1)
  let s := s.bump c (kSafe c 0x25)
  let s := if reason = 4 then s.setEnt (kSafe c 1) 1 else s
  s.orderAbandon c

/-- UNWIND (R384, R385). -/
def execUnwind (c : Chan) (pkt : Packet) (s : State) : Host.Outcome State Fault Refusal :=
  .next (s.onMessage c pkt 0x45 false (fun s g =>
    let s := s.relay c g pkt
    let step := pkt.fullStep
    let h := s.chan c
    if (h.training.recordSinceSeed && h.lastStep == step) || (h.coll.stepRun step).isSome then s.unwindStep c step (pkt.field 16 1)
    else s))

/-! ### The loss of a member (R382, R383, R394) -/

/-- Reports the loss of a member to the acting top, once per address (R382). -/
def State.reportLost (s : State) (c : Chan) (g : Group) (rank cause : Nat) : State :=
  let a := g.address rank
  if (s.chan c).safety.reported.any (fun q => q.1 == a) then s
  else
    (s.onSafety c (fun f => { f with reported := f.reported ++ [(a, rank, cause)] })).tell c g g.top 0x40 0
      (leBytes 4 a ++ leBytes 4 rank ++ leBytes 1 cause)

/-- Contact with a channel address is lost: its member of COMMIT_GROUP is reported (R382). -/
def State.lostContact (s : State) (c : Chan) (address cause : Nat) : State :=
  match s.commitGroup c with
  | none => s
  | some g =>
    if !g.live || address = s.address c then s
    else match g.rankOf address with
      | some r => s.reportLost c g r cause
      | none => s

/-- MEMBER_HEARTBEAT_TIMEOUT (R382). -/
def execMemberHeartbeatTimeout (c : Chan) (rank : Nat) (s : State) : Host.Outcome State Fault Refusal :=
  .next (match s.commitGroup c with
    | none => s
    | some g =>
      if !g.live || !(s.chan c).linksRun || !g.isMaster || rank = g.rank || !(g.ranksIn g.block).contains rank
          || !g.silent (s.chan c).clock.timebase rank then s
      else s.reportLost c g rank 0)

/-- Ranks of the members that are lost or whose spares are not filled. -/
def Safety.missing (f : Safety) : List Nat := f.lost.map (fun l => l.rank) ++ f.filling

/-- The rank of a rank's buddy; `noRank` where it has none. -/
def Safety.buddyOf (f : Safety) (r : Nat) : Nat :=
  match f.replica with
  | some q => q.buddies.getD r noRank
  | none => noRank

/-- Whether the rank's place holds no verified copy: it is not replaced, or its spare has not verified what it is sent. No message but
FILLED tells the top what a spare has verified: once its FILL_REQUEST has come that is a free value, here the bit of `free` at the
rank. Log entry 94. -/
def Safety.bare (f : Safety) (free r : Nat) : Bool :=
  f.lost.any (fun l => l.rank == r) || (f.filling.contains r && (!f.requested.contains r || free.testBit r))

/-- Shards lost with a further member `b` while others are missing (Table 13.6). -/
def Safety.shardsLost (f : Safety) (free b : Nat) : List Nat :=
  let own := if f.buddyOf b = noRank ∨ (f.buddyOf b ≠ b ∧ f.bare free (f.buddyOf b)) then [b] else []
  own ++ f.missing.filter (fun a => a != b && f.buddyOf a == b && f.bare free a)

/-- The top broadcasts SHARDS_LOST (R394). -/
def State.sendShardsLost (s : State) (c : Chan) (g : Group) (ranks : List Nat) : State :=
  s.broadcast c g 0x4D (s.chan c).safety.restore (leBytes 4 ranks.length ++ (ranks.take 120).flatMap (leBytes 4))

/-! ### Claiming spares (R386) -/

/-- Candidates for a lost member: unclaimed entries in its block, then the others, without the blocks of its buddy and of its
served owners while the group spans more than one block (R386). -/
def Channel.candidates (h : Channel) (g : Group) (l : LostMember) : List Nat :=
  match h.safety.replica with
  | none => []
  | some r =>
    let buddy := r.buddies.getD l.rank noRank
    let near := (if buddy = noRank then [] else [buddy]) ++ r.served l.rank
    let barred := if g.single then [] else near.map g.blockOf
    let free := (r.spares.filter (fun q => !q.2 && !barred.contains (addrBlock q.1))).map (fun q => q.1)
    let home := addrBlock l.address
    free.filter (fun a => addrBlock a == home) ++ free.filter (fun a => addrBlock a != home)

/-- NO_SPARE (R386). -/
def State.noSpare (s : State) (c : Chan) (k : Claim) : State :=
  (s.onSafety c (fun f => { f with claim := some { k with candidates := [], dry := true } })).raise c 0x0081
    (leBytes 4 k.lost.address ++ leBytes 4 k.lost.rank)

/-- Sends SPARE_CLAIM to the first candidate of a claim, or raises NO_SPARE (R386). -/
def State.claimFrom (s : State) (c : Chan) (g : Group) (k : Claim) : State :=
  match k.candidates with
  | [] => s.noSpare c k
  | a :: _ =>
    (s.onSafety c (fun f => { f with claim := some { k with dry := false } })).message c a g.id g.epoch 0x46 (s.chan c).safety.restore
      (leBytes 4 k.lost.address ++ leBytes 4 k.lost.rank ++ leBytes 4 k.serial)

/-- Begins the claim for the first lost member, if none is under way (R386). -/
def State.claimNext (s : State) (c : Chan) (g : Group) : State :=
  match (s.chan c).safety.claim, (s.chan c).safety.lost with
  | none, l :: _ =>
    let serial := (s.chan c).safety.serial
    (s.onSafety c (fun f => { f with serial := serial + 1 })).claimFrom c g ⟨l, serial, (s.chan c).candidates g l, false⟩
  | _, _ => s

/-- Whether the SECURE of a member for a step has reached the top: its block's, or its own at a top that is its ringmaster
(Table 13.3). Log entry 89. -/
def Group.secureIn (g : Group) (rank step : Nat) : Bool :=
  g.arrivals.any (fun a => a.msg == 0x43 && a.step == step &&
    ((a.atTop && a.child == g.blockOf rank) || (!a.atTop && g.blockOf rank == g.block && a.child == rank)))

/-- Whether the top knows that a program of the step is loaded: its own, or that of a member whose messages of the step it holds
(Table 13.3, the row of a secured step). Log entry 89. -/
def State.stepKnown (s : State) (c : Chan) (g : Group) (step : Nat) : Bool :=
  let h := s.chan c
  h.coll.steps.any (fun q => q.step == step) || h.training.program.any (fun p => p.step == step)
    || g.arrivals.any (fun a => a.step == step && decide (0x10 ≤ a.msg) && decide (a.msg ≤ 0x22))

/-- Whether the top itself has seen a member's own stream and its served banks verified without its SECURE: as the member's buddy and
as its only served owner. Log entry 89. -/
def Channel.sawVerified (h : Channel) (g : Group) (rank step : Nat) : Bool :=
  let f := h.safety
  let b := f.buddyOf rank
  let served := (f.replica.map (fun r => r.served rank)).getD []
  g.isMaster && g.blockOf rank == g.block && (b == noRank || (b == g.rank && f.verified.contains ⟨rank, step⟩))
    && served.all (fun o => o == g.rank && f.streamOk && f.streamStep == step)

/-- The top decides on a lost member by the phase of the latest commit (R383, Table 13.3): the state, and the restore step.
Log entry 89. -/
def State.decideLoss (s : State) (c : Chan) (g : Group) (rank : Nat) : State × Nat :=
  let h := s.chan c
  let last := max h.coll.committedAtTop h.lastStep
  let secured := last = 0 || h.safety.securedAtTop = last || s.ent (kSafe c 2) = last
  let working := ((h.coll.lowestStep).map (fun q => q.step)).getD (last + 1)
  if secured then
    (if last < working ∧ s.stepKnown c g working then s.topAbort c g working 0x04 (g.address rank) else s, last)
  else if g.secureIn rank last then (s, last)
  else if h.sawVerified g rank last then (s.climbSecure c g ⟨false, 0x43, last, 0, rank, 1, leBytes 1 0⟩, last)
  else (s.topUnwind c g last 0x04, last - 1)

/-- MEMBER_LOST (R382, R383, R386, R394). -/
def execMemberLost (c : Chan) (pkt : Packet) (s : State) : Host.Outcome State Fault Refusal :=
  .next (s.onMessage c pkt 0x40 false (fun s g =>
    let address := pkt.field 16 4
    let rank := pkt.field 20 4
    let f := (s.chan c).safety
    if !g.isTop || g.id ≠ s.ent (kUpd c 1) || g.address rank ≠ address || f.lost.any (fun l => l.address == address) then s
    else
      let s := s.bump c (kSafe c 0x23)
      let d := s.decideLoss c g rank
      let a := d.1.drawFree
      let gone := (a.2.chan c).safety.shardsLost (Config.fresh a.1) rank
      let s := a.2.onSafety c (fun f => { f with
        lost := f.lost ++ [⟨address, rank⟩], filling := f.filling.filter (· != rank),
        requested := f.requested.filter (· != rank), restore := d.2 })
      if gone.isEmpty then s.claimNext c g else s.sendShardsLost c g gone))

/-- Why a spare declines (R386, R448); 0 when it accepts. The group's message version and usable features, which SPARE_CLAIM does
not carry, are free values. Log entry 92. -/
def State.declineReason (s : State) (c : Chan) (version features : Nat) : Nat :=
  let h := s.chan c
  let own := s.readGroup c 0
  if h.power.state != .p0 || h.safe then 1
  else if !h.groups.isEmpty then 2
  else if s.ent (kSafe c 8) = 0 then 3
  else if s.ent (kSafe c 9) = 0 ∨ s.moduleNumber = 0xFFFF then 4
  else if version % 65536 < own.low ∨ own.high < version % 65536 ∨ (features % 65536 &&& 0x000F) ≠ features % 65536 then 5
  else 0

/-- SPARE_CLAIM (R386, R448). Log entries 75, 93. -/
def execSpareClaim (c : Chan) (pkt : Packet) (s : State) : Host.Outcome State Fault Refusal :=
  .next (if pkt.ptype ≠ 0x05 || pkt.msg != 0x46 then s
    else
      let r := s.receive c pkt true
      if !r.2 then r.1
      else
        let a := r.1.drawFree
        let b := a.2.drawFree
        let why := b.2.declineReason c (Config.fresh a.1) (Config.fresh b.1)
        let s := if why = 0 then b.2.setEnt (kSafe c 3) pkt.fullStep else b.2
        s.message c pkt.source pkt.group pkt.fullEpoch 0x47 pkt.fullStep (leBytes 1 why))

/-! ### Replacing a member (R387 to R390) -/

/-- The acting top of a group other than COMMIT_GROUP advances its epoch for a replacement, broadcasts it and sends the spare the image
(R387, R388). -/
def State.newEpochFor (s : State) (c : Chan) (gid spare serial step : Nat) : State :=
  let s := s.onComm c gid (fun g => { g with epoch := g.epoch + 1 })
  match (s.chan c).comm gid with
  | some g => (s.broadcastOthers c g none 0x06 0 (g.epochBody none)).sendImage c g spare serial step
  | none => s

/-- A channel that has become the acting top does so for the replacements that the old one has left (R387). -/
def State.payOwed (s : State) (c : Chan) (gid : Nat) : State :=
  match (s.chan c).comm gid with
  | none => s
  | some g =>
    if !g.isTop || g.owed.isEmpty then s
    else g.owed.foldl (fun s q => s.newEpochFor c gid q.1 q.2.1 q.2.2) (s.onComm c gid (fun g => { g with owed := [] }))

/-- One group of a channel in a replacement (R387): the spare stands at the lost rank, and the group is REBUILDING; in a group other
than COMMIT_GROUP the new epoch follows from the acting top. -/
def State.replaceIn (s : State) (c : Chan) (gid lost spare serial step commit : Nat) : State :=
  match (s.chan c).comm gid with
  | none => s
  | some g => match g.rankOf lost with
    | none => s
    | some r =>
      let now := (s.chan c).clock.timebase
      let s := s.putMember c g r spare
      let s := s.onComm c gid (fun g => { g with
        state := if g.state = GroupState.active then .rebuilding else g.state, beats := mset none r (some now) g.beats })
      match (s.chan c).comm gid with
      | none => s
      | some g =>
        if gid = commit then s
        else if g.isTop then s.newEpochFor c gid spare serial step
        else s.onComm c gid (fun g => { g with owed := g.owed ++ [(spare, serial, step)] })

/-- A member applies REPLACE (R387, R390): in every group that lists the lost address. A channel that finds itself replaced
then releases its groups. -/
def State.applyReplace (s : State) (c : Chan) (commit lost spare rank serial step : Nat) (epoch : Word) : State :=
  let s := s.onComm c commit (fun g => { g with epoch := epoch })
  let s := s.onSafety c (fun f => { f with
    replica := f.replica.map (fun r => { r with spares := r.spares.map (fun q => if q.1 = spare then (q.1, true) else q) }),
    reported := f.reported.filter (fun q => q.1 != lost),
    filling := f.filling.filter (· != rank) ++ [rank], requested := f.requested.filter (· != rank),
    replaced := f.replaced + 1, restore := step })
  let ids := ((s.chan c).groups.filter (fun g => g.members.contains lost)).map (fun g => g.id)
  let s := ids.foldl (fun s i => s.replaceIn c i lost spare serial step commit) s
  if lost = s.address c then
    s.onChan c (fun h => { h with groups := h.groups.map (fun g =>
      if ids.contains g.id then { g with state := .releasing } else g) })
  else
    ((((s.setEnt (kSafe c 1) 1).setEnt (kSafe c 3) step).setEnt (kSafe c 4) (lost + 2 ^ 31)).setEnt (kSafe c 5)
      (spare + 2 ^ 31)).setEnt (kSafe c 6) rank

/-- A spare has accepted: the epoch advances, REPLACE goes to all, and the image of COMMIT_GROUP to the spare (R387, R388).
Log entry 93. -/
def State.replaceWith (s : State) (c : Chan) (g : Group) (k : Claim) (spare : Nat) : State :=
  let step := (s.chan c).safety.restore
  let q := { g with epoch := g.epoch + 1 }
  let body := leBytes 4 k.lost.address ++ leBytes 4 spare ++ leBytes 4 k.lost.rank ++ leBytes 4 k.serial
  let ranks := (q.direct (some k.lost.rank)).filter (fun r => r != q.rank && r != k.lost.rank) ++ [k.lost.rank]
  let s := s.tellAll c q ranks 0x48 step body
  let s := s.onSafety c (fun f => { f with claim := none, lost := f.lost.drop 1 })
  let s := s.applyReplace c g.id k.lost.address spare k.lost.rank k.serial step q.epoch
  let s := s.bump c (kSafe c 0x24)
  match (s.chan c).comm g.id with
  | none => s
  | some g =>
    let s := s.sendImage c g spare k.serial step
    if k.lost.address = s.address c then s else s.claimNext c g

/-- SPARE_ACCEPT (R386, R387). -/
def execSpareAccept (c : Chan) (pkt : Packet) (s : State) : Host.Outcome State Fault Refusal :=
  .next (s.onMessage c pkt 0x47 false (fun s g =>
    match (s.chan c).safety.claim with
    | none => s
    | some k =>
      if !g.isTop || k.candidates.head? ≠ some pkt.source then s
      else if pkt.field 16 1 = 0 then s.replaceWith c g k pkt.source
      else s.claimFrom c g { k with candidates := k.candidates.drop 1 }))

/-- SPARE_CLAIM_TIMEOUT: silence counts as a decline (R386). -/
def execSpareClaimTimeout (c : Chan) (s : State) : Host.Outcome State Fault Refusal :=
  .next (match s.commitGroup c, (s.chan c).safety.claim with
    | some g, some k =>
      if !g.isTop || !(s.chan c).linksRun || k.candidates.isEmpty then s
      else s.claimFrom c g { k with candidates := k.candidates.drop 1 }
    | _, _ => s)

/-- SPARE_RESCAN: a second after NO_SPARE (R386). -/
def execSpareRescan (c : Chan) (s : State) : Host.Outcome State Fault Refusal :=
  .next (match s.commitGroup c, (s.chan c).safety.claim with
    | some g, some k =>
      if !g.isTop || !(s.chan c).linksRun || !k.dry then s
      else s.claimFrom c g { k with candidates := (s.chan c).candidates g k.lost }
    | _, _ => s)

/-- REPLACE (R387): acts as NEW_EPOCH for COMMIT_GROUP. -/
def execReplace (c : Chan) (pkt : Packet) (s : State) : Host.Outcome State Fault Refusal :=
  .next (s.onMessage c pkt 0x48 (s.laterEpoch c pkt) (fun s g =>
    if !later32 pkt.fullEpoch g.epoch then s
    else
      let s := s.relay c { g with epoch := pkt.fullEpoch } pkt
      s.applyReplace c g.id (pkt.field 16 4) (pkt.field 20 4) (pkt.field 24 4) (pkt.field 28 4) pkt.fullStep pkt.fullEpoch))

/-- The rule of WITHDRAW (R390). Log entry 93. -/
def State.setWithdraw (s : State) (c : Chan) (v : Nat) : State × Nat :=
  let h := s.chan c
  match s.commitGroup c with
  | none => if v = 0 then (s, 0) else (s, 0x05)
  | some g =>
    if v = 0 then (s, 0)
    else if !g.live || h.training.program.isSome || !h.training.recordSinceSeed || s.ent (kSafe c 2) ≠ h.lastStep
        || !h.coll.steps.isEmpty then (s, 0x05)
    else (s.reportLost c g g.rank 3, 0)

/-- WITHDRAW (R390). -/
def execWithdraw (path : ReqPath) (c : Chan) (value : Byte) (s : State) : Host.Outcome State Fault Refusal :=
  .next (s.writeScalar path (0x5030 + c.val) 0x0A 1 value.toNat
    (noting (0x5030 + c.val) 0x0A (fun s => s.setWithdraw c value.toNat)))

/-! ### Filling a spare (R391 to R393) -/

/-- The first offending field of a fill descriptor (R12, R391). -/
def State.fillRefusal (s : State) (c : Chan) (a : Nat) : Option Nat :=
  let h := s.chan c
  if h.nat a 2 ≠ 0x93 then some 0
  else match h.comm (h.nat (a + 4) 2) with
    | none => some 4
    | some g =>
      if g.id ≠ s.ent (kUpd c 1) || !g.imaged || !g.live then some 4
      else if h.safety.replica.isNone || h.training.program.isSome || h.safety.fill.isSome then some 0
      else none

/-- FILL_DESCRIPTOR (R391). -/
def execFillDescriptor (c : Chan) (job : Nat) (s : State) : Host.Outcome State Fault Refusal :=
  .next (s.withJob c job 0x93 (fun j => match s.fillRefusal c j.addr, s.commitGroup c with
    | none, some g =>
      let h := s.chan c
      let step := s.ent (kSafe c 3)
      let left := (h.plansOf step).flatMap (fun p => (List.range p.buckets.length).map (fun b => (p.group, b)))
      let s := s.onChan c (fun h => h.setJob { j with phase := .group g.id })
      let s := s.onSafety c (fun f => { f with fill := some ⟨j.id, g.id, step, false, false, [], left⟩ })
      (s.setEnt (kSafe c 1) 2).requestFill c g step
    | some off, _ => s.refuseJob c j ⟨0x93, j.addr, off, 0⟩
    | none, none => s.refuseJob c j ⟨0x93, j.addr, 4, 0⟩))

/-- The buddy streams its verified bank r mod 2 for a rank, with the stored record (R391). -/
def State.streamBank (s : State) (c : Chan) (r : Replica) (g : Group) (owner step : Nat) : State :=
  let h := s.chan c
  if !h.safety.verified.contains ⟨owner, step⟩ then s
  else
    let address := g.address owner
    let base := h.shareBase r g owner (step % 2)
    let at' := fun (gid : Nat) (b : Option Nat) => base + (h.partPlace address gid b).getD 0
    let owned := fun (p : Plan) => p.ownedBy (h.rankIn address p.group)
    let s := s.sendShare c address step owned (fun p => h.bytes (at' p.group none) 8) (fun p b part =>
      let n := slotBytes (p.bucket b).count
      h.bytes (at' p.group (some b) + part * n) n)
    let count := ((h.plansOf step).map (fun p => (owned p).length)).foldl (· + ·) 0
    (s.sendReplicaEnd c g owner step count (h.bytes base 256)).bump c (kSafe c 0x20)

/-- FILL_REQUEST (R391): the buddy streams, the top broadcasts PARAM_RESEND. -/
def execFillRequest (c : Chan) (pkt : Packet) (s : State) : Host.Outcome State Fault Refusal :=
  .next (s.onMessage c pkt 0x49 false (fun s g =>
    let rank := pkt.field 16 4
    let step := pkt.fullStep
    let s := match (s.chan c).safety.replica with
      | some r => if (r.served g.rank).contains rank then s.streamBank c r g rank step else s
      | none => s
    if g.isTop then
      (s.onSafety c (fun f => { f with requested := f.requested.filter (· != rank) ++ [rank] })).broadcast c g 0x4A step
        (leBytes 4 (g.address rank))
    else s))

/-- PARAM_RESEND (R391): owners resend parameters, and an owner that the spare serves streams its shard again; a spare whose own
masters are not restored does so once they are (Table 13.6). Log entry 94. -/
def execParamResend (c : Chan) (pkt : Packet) (s : State) : Host.Outcome State Fault Refusal :=
  .next (s.onMessage c pkt 0x4A false (fun s g =>
    let s := s.relay c g pkt
    let spare := pkt.field 16 4
    let step := pkt.fullStep
    if spare = s.address c then s
    else if (s.chan c).safety.fill.any (fun f => !f.shardDone) then
      s.onSafety c (fun f => { f with owedParams := f.owedParams ++ [(spare, step)] })
    else s.answerResend c g spare step))

/-- FILLED (R392, R393). -/
def execFilled (c : Chan) (pkt : Packet) (s : State) : Host.Outcome State Fault Refusal :=
  .next (s.onMessage c pkt 0x4B false (fun s g =>
    let rank := pkt.field 16 4
    let f := (s.chan c).safety
    if !g.isTop || !f.filling.contains rank then s
    else if pkt.field 20 1 = 1 then s.sendShardsLost c g [rank]
    else
      let left := f.filling.filter (· != rank)
      let s := s.onSafety c (fun f => { f with filling := left, requested := f.requested.filter (· != rank) })
      if left.isEmpty && f.lost.isEmpty then s.broadcast c g 0x4C f.restore (leBytes 4 f.replaced) else s))

/-- REBUILT (R393). -/
def execRebuilt (c : Chan) (pkt : Packet) (s : State) : Host.Outcome State Fault Refusal :=
  .next (s.onMessage c pkt 0x4C false (fun s g =>
    let s := s.relay c g pkt
    let s := s.onChan c (fun h => { h with
      groups := h.groups.map (fun g => if g.state = GroupState.rebuilding then { g with state := .active } else g),
      safety := { h.safety with replaced := 0, filling := [], requested := [], filled := none } })
    ((s.setEnt (kSafe c 2) pkt.fullStep).setEnt (kSafe c 1) 0).advance c))

/-- SHARDS_LOST (R394). Log entry 94. -/
def execShardsLost (c : Chan) (pkt : Packet) (s : State) : Host.Outcome State Fault Refusal :=
  .next (s.onMessage c pkt 0x4D false (fun s g =>
    let count := pkt.field 16 4
    let ranks := (List.range (min count 120)).map (fun i => pkt.field (20 + 4 * i) 4)
    let addresses := ranks.map g.address
    let dead := fun (q : Group) => q.id == g.id || q.members.any (fun a => addresses.contains a)
    let s := (((s.chan c).groups.filter dead).map (fun q => q.id)).foldl (fun s i => s.silenceGroup c i) s
    let s := s.relay c g pkt
    let job := (s.chan c).safety.fill.map (fun f => f.job)
    let s := s.onChan c (fun h => { h with
      groups := h.groups.map (fun q => if dead q then { q with state := .failed } else q),
      safety := { h.safety with
        lostRanks := ranks, fill := none, lost := [], claim := none, filling := [], requested := [], reported := [], filled := none, owedParams := [] } })
    let s := match job.bind (s.chan c).job with
      | some j => s.failJob c j 0x03 0 0
      | none => s
    let s := (s.orderAbandon c).setEnt (kSafe c 1) 3
    (s.bumpBy c (kSafe c 0x27) count).raise c 0x0082 (leBytes 4 count ++ leBytes 8 pkt.fullStep ++ leBytes 4 (ranks.headD 0))))

/-! ### Reset of a group (R397) -/

/-- RESET_DESCRIPTOR (R397). -/
def execResetDescriptor (c : Chan) (job : Nat) (s : State) : Host.Outcome State Fault Refusal :=
  .next (s.withJob c job 0x94 (fun j =>
    let h := s.chan c
    let bad := fun (off : Nat) => s.refuseJob c j ⟨0x94, j.addr, off, 0⟩
    if h.nat j.addr 2 ≠ 0x94 then bad 0
    else match h.comm (h.nat (j.addr + 4) 2) with
      | none => bad 4
      | some g =>
        if !g.live then bad 4
        else
          let s := s.onChan c (fun h => h.setJob { j with phase := .group g.id })
          let s := s.onComm c g.id (fun g => { g with resets := g.resets ++ [j.id] })
          if g.isTop then s.broadcast c g 0x4E 0 [] else s.tell c g g.top 0x4E 0 []))

/-- What RESET of group `g` does on a member (R397): the program is abandoned, a step whose COMMIT has not come is aborted, and the
segments and slots of the group, whose traffic alone a reset is for (Table 19.1), and the stash keys are let go. Log entry 95. -/
def State.resetMember (s : State) (c : Chan) (g : Nat) : State :=
  let s := s.orderAbandon c
  let steps := (s.chan c).coll.steps.map (fun q => q.step)
  let s := steps.foldl (fun s n => s.abortStep c n 0x01 (s.address c)) s
  let s := s.onNet c (fun n => { n with
    tx := n.tx.filter (fun t => t.key.group != g || t.key.segment / 2 ^ 14 == 2),
    outbox := n.outbox.filter (fun k => k.group != g || k.segment / 2 ^ 14 == 2),
    rx := n.rx.filter (fun r => r.complete || r.key.group != g || r.key.segment / 2 ^ 14 == 2) })
  let s := ((s.chan c).coll.waitPartial.filter (fun e => e.2.group == g)).foldl (fun s e => s.giveBack c e.1 e.2) s
  let s := s.onColl c (fun k => { k with
    slots := k.slots.filter (fun q => q.group != g), waitPartial := k.waitPartial.filter (fun e => e.2.group != g),
    waitParam := k.waitParam.filter (fun e => e.2.group != g) })
  (s.releaseKeys c).bump c (kSafe c 0x29)

/-- RESET (R397): a request at the top, and elsewhere and from the top itself the order. -/
def execResetMsg (c : Chan) (pkt : Packet) (s : State) : Host.Outcome State Fault Refusal :=
  .next (s.onMessage c pkt 0x4E false (fun s g =>
    if g.isTop && pkt.source != s.address c then s.broadcast c g 0x4E 0 []
    else ((s.relay c g pkt).resetMember c g.id).sendUp c g 0x4F 0 (leBytes 4 1)))

/-- RESET_DONE (R397). -/
def execResetDone (c : Chan) (pkt : Packet) (s : State) : Host.Outcome State Fault Refusal :=
  .next (s.onMessage c pkt 0x4F false (fun s g => match g.arrivalOf pkt 0 with
    | none => s
    | some a => s.climb c g a (fun _ => []) (fun s _ => s.broadcast c g 0x50 0 [])))

/-- RESET_RELEASE (R397). -/
def execResetRelease (c : Chan) (pkt : Packet) (s : State) : Host.Outcome State Fault Refusal :=
  .next (s.onMessage c pkt 0x50 false (fun s g =>
    let s := (s.relay c g pkt).onComm c g.id (fun g => { g with resets := [] })
    g.resets.foldl (fun s i => match (s.chan c).job i with
      | some j => s.completeJob c j 0 0
      | none => s) s))

end Sys2Proof.Machine
end

