-- ==== Sys2Proof/Machine/Aborts.lean ====
section
/-!
DEFINITION. The ends of segments and of neighbours: end-to-end timeouts, UNREACHABLE and GOODBYE, with what they mean for the step,
for ringmasters and for members (10 R307, R312, R319; 11 R338; 13 R382).
-/

namespace Sys2Proof.Machine

/-- What follows for the step when a segment of reduction or parameters is aborted: ABORT with reason 0x02 (R312, Table 12.9). -/
def State.segmentLost (s : State) (c : Chan) (key : SegKey) : State :=
  if key.segment < 2 ^ 15 then s.sendAbort c (liftStep (s.chan c).nearStep key.step) 0x02 else s

/-- A segment held open is aborted and reported to the collective engine (R312). Log entry 95. -/
def State.abortSegment (s : State) (c : Chan) (key : SegKey) (seq : Nat) : State :=
  (s.dropSegment c key seq).segmentLost c key

/-- E2E_TIMEOUT for one unacknowledged packet (R307, R312); one of a FAILED group is given up (R340). -/
def execE2eTimeout (c : Chan) (seg : SegKey) (seq : Nat) (s : State) : Host.Outcome State Fault Refusal :=
  .next (if !(s.chan c).linksRun then s
    else match (s.chan c).net.tx.find? (fun t => t.key == seg) with
      | none => s
      | some t => match t.unacked.find? (fun u => u.pkt.seq == seq) with
        | none => s
        | some u =>
          if ((s.chan c).comm seg.group).any (fun g => g.state == .failed) then s.silenceGroup c seg.group
          else if s.ent (kLink c 0xC1) ≤ u.retries then s.abortSegment c seg seq
          else
            let now := (s.chan c).clock.timebase
            let again := fun (v : Unacked) => if v.pkt.seq = seq then { v with retries := v.retries + 1, sent := now } else v
            let s := s.onNet c (fun n => { n with
              tx := n.tx.map (fun x => if x.key = seg then { x with unacked := x.unacked.map again } else x) })
            (s.bump c (kLink c 0xD0)).sendPacket c u.pkt none)

/-- A channel address has fallen silent: in every group in which it is a ringmaster this channel takes over where it is the first
successor, and as a member of COMMIT_GROUP it is lost (R338, R382). -/
def State.addressGone (s : State) (c : Chan) (address cause : Nat) : State :=
  let s := ((s.chan c).groups.map (fun g => g.id)).foldl (fun s i =>
    (s.ringmasterGone c i (fun r => (((s.chan c).comm i).map (fun g => g.rankOf address == some r)).getD false)).payOwed c i) s
  s.lostContact c address cause

/-- RINGMASTER_TIMEOUT (R338, R340). Log entry 100. -/
def execRingmasterTimeout (c : Chan) (group : Nat) (s : State) : Host.Outcome State Fault Refusal :=
  .next (if !(s.chan c).linksRun then s
    else match (s.chan c).comm group with
      | some g =>
        let now := (s.chan c).clock.timebase
        (s.ringmasterGone c group (fun r => r != g.rank && g.silent now r)).payOwed c group
      | none => s)

/-- UNREACHABLE (R312, R338, R382). Log entry 96. -/
def execUnreachable (c : Chan) (pkt : Packet) (s : State) : Host.Outcome State Fault Refusal :=
  .next (if pkt.ptype ≠ 0x07 || !s.receives c pkt then s
    else
      let r := (s.takeInbox c pkt).checkPacket c pkt false
      if !r.2 then r.1
      else
        let dest := pkt.field 0 4
        let key : SegKey := ⟨s.address c, dest, pkt.field 4 2, pkt.field 6 2, pkt.step⟩
        let s := if r.1.chan c |>.net.tx.any (fun t => t.key == key) then r.1.abortSegment c key (pkt.field 8 2) else r.1
        s.addressGone c dest 2)

/-- GOODBYE from the peer of a port (R319): the link is DOWN with reason 4, without a failure event. Log entry 96. -/
def execGoodbye (c : Chan) (a : HeardControl) (s : State) : Host.Outcome State Fault Refusal :=
  .next (s.controlIn c a.port a.header (fun s =>
    let l := (s.chan c).link a.port.val
    if !([2, 7].contains l.state) then s
    else
      let t := (s.linkDown c a.port.val 0 4).watchDegraded s
      match l.peer with
      | some q => t.addressGone c (q.moduleNumber % 32768 * 4 + q.channel % 4) 1
      | none => t))

end Sys2Proof.Machine
end

