-- ==== Sys2Proof/Machine/Power.lean ====
section
/-!
DEFINITION. Power states and their transitions, the start-up of a channel, and leaving its safe state (16 R453 to R459;
19 R526 to R536; 14 R414; 01 R22 to R24).
-/

namespace Sys2Proof.Machine

/-! ### Draining contexts (R414) -/

/-- Abandons the loaded program with status 0x03 for the host driver (R241). Log entry 74. -/
def State.abandonByHost (s : State) (c : Chan) : State :=
  match (s.chan c).training.program with
  | some p => s.abandonStep c 0x03 p.slot 0 none
  | none => s

/-- Drains a context (R414): entries that have not started end with status 0x03, its loaded program is abandoned, and the rest
is discarded. -/
def State.drainContext (s : State) (c : Chan) (x : Nat) : State :=
  let k := (s.chan c).context x
  if !k.enabled || k.draining then s
  else
    let s := s.onChan c (fun h => h.setContext x { k with draining := true, sqHead := k.sqTail })
    let waiting := (s.chan c).jobs.filter (fun j => j.context == some x && j.unbegun)
    let s := waiting.foldl (fun s j =>
      s.failJob c j 0x03 (if j.descType = 0x70 then programResult0 0x03 0 0 none else 0) 0) s
    let mine : Bool := match (s.chan c).training.program with
      | some p => ((s.chan c).job p.job).any (fun j => j.context == some x)
      | none => false
    let s := if mine then s.abandonByHost c else s
    s.onChan c (fun h => h.settleDrain x)

/-- Drains every enabled context. -/
def State.drainAll (s : State) (c : Chan) : State := (List.range 64).foldl (fun s x => s.drainContext c x) s

/-- Every entry that cannot run to its end in P2 ends with status 0x03 (log entry 25). -/
def State.endJobs (s : State) (c : Chan) : State :=
  (s.chan c).jobs.foldl (fun s j => match j.owner with
    | .sub _ _ _ _ => (match (s.chan c).job j.id with
      | some i => s.failJob c i 0x03 0 0
      | none => s)
    | _ => s.onChan c (fun h => h.dropJob j.id)) s

/-! ### Reaching a state (R453, R454) -/

/-- The next state on the way from `p` to a target; an upward way out of P3 or P4 is a start-up (R456, R457). -/
def PState.toward (p t : PState) : PState :=
  if p.toNat < t.toNat then PState.ofTarget (p.toNat + 1)
  else if t.toNat < p.toNat ∧ p.toNat ≤ 2 then PState.ofTarget (p.toNat - 1)
  else t

/-- The event and the counter of a state reached. An unpowered channel's event comes from the port complex. Log entry 70. -/
def State.stateChanged (s : State) (c : Chan) (old new : PState) (byPort : Bool) : State :=
  let data := leBytes 1 old.toNat ++ leBytes 1 new.toNat
  let s := s.bump c (kPow c 0x24)
  if byPort then s.raisePort c.val 0x0090 data else s.raise c 0x0090 data

/-- The power part of a channel changed. -/
def State.onPower (s : State) (c : Chan) (f : Power → Power) : State :=
  s.onChan c (fun h => { h with power := f h.power })

/-- Takes a channel out of the power sequencer's queue (R24). -/
def State.leaveQueue (s : State) (c : Chan) : State :=
  { s with module := { s.module with rampQueue := s.module.rampQueue.filter (fun d => d != c) } }

/-- A channel waits for the power sequencer (R24, R457). -/
def State.askRamp (s : State) (c : Chan) : State :=
  let s := s.onPower c (fun p => { p with inTransition := true, stepTo := p.target })
  { s with module := { s.module with rampQueue := s.module.rampQueue.filter (fun d => d != c) ++ [c] } }

/-- After a state has been reached, or a command accepted: the next step toward the target, if any (R456, Table 16.3). -/
def State.headFor (s : State) (c : Chan) : State :=
  let p := (s.chan c).power
  if p.state = p.target then s.onPower c (fun p => { p with inTransition := false, stepTo := p.state })
  else if !p.state.on && p.target.on then s.askRamp c
  else s.onPower c (fun p => { p with inTransition := true, stepTo := p.state.toward p.target })

/-- A channel in service reaches P0, P1 or P2. Log entry 67. -/
def State.reach (s : State) (c : Chan) (new : PState) : State :=
  let old := (s.chan c).power.state
  (if old = new then s.headFor c
    else ((s.onPower c (fun p => { p with state := new })).stateChanged c old new false).headFor c)

/-- The rails of a channel go, with HBM in self-refresh or without (Table 16.1); SAFE ends (R455), and scan and debug close
(R522). Log entry 7. -/
def State.goDark (s : State) (c : Chan) (new : PState) : State :=
  (s.onChan c (fun h =>
    let h := h.darken (new == .p3)
    { h with power := { Power.reset with state := new, target := h.power.target, fuseClosed := h.power.fuseClosed,
                                         startTime := h.power.startTime },
             fw := { h.fw with debugState := 0, bootState := 0, incoming := [], keys := none } })).leaveQueue c

/-- A channel out of service reaches P3 or P4: the log is stored, its last event is written and the rails go. -/
def State.reachDark (s : State) (c : Chan) (new : PState) (byPort : Bool) : State :=
  let old := (s.chan c).power.state
  let s := if old = new then s else s.stateChanged c old new byPort
  s.goDark c new

/-- Into P3 (R456, step 3): contexts drained, remaining completions and events written, GOODBYE, HBM in self-refresh. -/
def State.intoP3 (s : State) (c : Chan) : State :=
  let s := ((s.drainAll c).endJobs c).goodbyeAll c
  let s := s.onChan c (fun h => { h with audit := h.audit.flush auditSize })
  s.reachDark c .p3 false

/-! ### POWER_COMMAND (R454, R455) -/

/-- A target that is not accepted (R455). Log entry 67. -/
def State.refusePower (s : State) (c : Chan) (target reason : Nat) : State × Nat :=
  let data := leBytes 1 target ++ leBytes 1 reason
  (if (s.chan c).up then s.raise c 0x0091 data else s.raisePort c.val 0x0091 data, 0x05)

/-- Whether a channel is in the start-up of Table 19.3. -/
def State.starting (s : State) (c : Chan) : Bool :=
  s.module.rampQueue.contains c || (s.chan c).power.booting.isSome || (s.chan c).power.waiting == 1

/-- A start-up is abandoned for P3 or P4: the channel goes to the commanded state (Table 19.4a). Log entry 70. -/
def State.abandonStart (s : State) (c : Chan) (t : PState) : State :=
  (s.reachDark c t true).onPower c (fun p => { p with inTransition := false, stepTo := t })

/-- The rule of POWER_COMMAND (R454, R455, R533, R535, R539). Log entry 10. -/
def State.commandPower (s : State) (c : Chan) (v : Nat) : State × Nat :=
  let p := (s.chan c).power
  let t := PState.ofTarget v
  if 5 ≤ v then (s, 0x03)
  else if (s.chan c).safe && t.on then s.refusePower c v 1
  else if t = .p3 ∧ p.state = .p4 then s.refusePower c v 2
  else if t = p.state ∧ !p.inTransition ∧ !(s.chan c).safe then (s, 0x00)
  else
    let s := s.onPower c (fun p => { p with target := t })
    if t.on then
      (if s.starting c || p.inTransition then s
        else if p.state.on then s.headFor c
        else (s.askRamp c).onPower c (fun p => { p with startTime := s.module.clock.timebase }), 0x00)
    else
      let s := (s.abortTest c).onPower c (fun p => { p with ready := false })
      if s.starting c then (s.abandonStart c t, 0x00)
      else if p.inTransition then (s, 0x00)
      else if p.state.on && !(s.chan c).safe then (s.headFor c, 0x00)
      else (s.onPower c (fun p => { p with inTransition := true, stepTo := if p.state = .p4 then .p4 else .p3 }), 0x00)

/-- POWER_COMMAND (R454): the port complex serves it in every channel state. -/
def execPowerCommand (path : ReqPath) (c : Chan) (target : Byte) (s : State) : Host.Outcome State Fault Refusal :=
  .next ((s.writeScalar path 0x2800 (1 + c.val) 1 target.toNat (fun s => s.commandPower c target.toNat)).watchDegraded s)

/-! ### Steps of a transition (R456, R457) -/

/-- An execution that runs to its end before the core rail ramps down (R456). -/
def Job.running (j : Job) : Bool :=
  match j.phase with
  | .product _ => true
  | .array _ => true
  | .recomputing _ _ _ => true
  | .transfer _ _ _ _ _ => true
  | _ => false

/-- The core rail at its setting under the clamp (R462). -/
def State.coreSetting (s : State) (c : Chan) : Nat := min (s.ent (kPow c 0x01)) (s.ent (kPow c 0x03))

/-- Starts of a channel that wait for something: an attach sweep, or an enabled port in training (Table 19.3, steps 6, 8). -/
def State.stillStarting (s : State) (c : Chan) : Bool :=
  (s.chan c).slotA.sweep.isSome || (s.chan c).slotB.sweep.isSome
    || (decide ((s.chan c).power.waiting = 1) && (List.range 42).any (fun p => s.portEnabled c p && ((s.chan c).link p).state == 1))

/-- Removes the cartridge supply in good order; the directory stays (R456, step 2). -/
def Channel.parkSlots (h : Channel) : Channel :=
  { h with power := { h.power with cartSupply := false }, slotA := h.slotA.unpower, slotB := h.slotB.unpower }

/-- A step of a start-up fails: STARTUP_RESULT and the event (R534). -/
def State.startFailed (s : State) (c : Chan) (step cause detail : Nat) : State :=
  (s.setEnt (kFw c 0x30) (step + cause * 16 + detail * 256)).raise c 0x00D1 (leBytes 1 step ++ leBytes 3 detail)

/-- Step 8 of Table 19.3 has failed for each enabled port that is ABSENT or FAILED as the start-up ends (R534, Table 19.4).
Log entry 132. -/
def State.portsFailed (s : State) (c : Chan) : State :=
  (List.range 42).foldl (fun s p =>
    let l := (s.chan c).link p
    if s.portEnabled c p && (l.state == 4 || l.state == 5) then s.startFailed c 8 0 p else s) s

/-- A calibration of the attach sweep of a start-up whose RESULT is 0b10 or 0b11 is a failure of step 6, with the slot as its detail
(R534, Table 19.4). Log entry 132. -/
def State.sweepFailed (s : State) (c : Chan) (k : TileCal) : State :=
  let r := (mget CalRecord.blank k.tile ((s.chan c).slot k.side).cal).result
  if (s.chan c).power.waiting = 1 ∧ k.mode = .sweep ∧ (r = 2 ∨ r = 3) then s.startFailed c 6 0 (slotNumber c k.side) else s

/-- Steps 7 to 9 of Table 19.3: the ports that have failed, the voltage, READY, the state, and the events; a trial boot reaches TRIAL (Table 15.5). -/
def State.finishStart (s : State) (c : Chan) : State :=
  let s := s.portsFailed c
  let p := (s.chan c).power
  let t := p.target
  let s := if t = .p2 ∧ p.cartSupply then s.onChan c Channel.parkSlots else s
  let ms := ((s.chan c).clock.timebase - p.startTime).toNat / 100000
  let s := s.setEnt (kFw c 0x31) (min ms (2 ^ 32 - 1))
  let s := s.onPower c (fun p => { p with
    waiting := 0, ready := true, inTransition := false,
    coreMillivolt := if t = .p0 then s.coreSetting c else 600 })
  let s := (s.bump c (kFw c 0x23)).raise c 0x00D0 (leBytes 1 t.toNat ++ leBytes 4 ms)
  let s := s.reach c t
  let f := (s.chan c).fw
  if f.trial = 2 then
    (s.onChan c (fun h => { h with fw := { h.fw with trial := 0, state := 4 } })).raise c 0x00B2
      (leBytes 1 f.running ++ leBytes 4 (setVersion (f.bank f.running).image))
  else s

/-- A start-up, or a return to P1, ends once nothing holds it back. Log entry 72. -/
def State.settleStart (s : State) (c : Chan) : State :=
  let p := (s.chan c).power
  if s.stillStarting c || (s.chan c).safe then s
  else if p.waiting = 1 then s.finishStart c
  else if p.waiting = 2 then (s.onPower c (fun p => { p with waiting := 0 })).reach c .p1
  else s

/-- Supply to both slots, with what authentication finds (R457; Table 19.3, step 5); the slots that were tried and failed. -/
def State.powerSlots (s : State) (c : Chan) (a b : AuthAnswer) (start : Bool) : State × List Nat :=
  let s := s.onPower c (fun p => { p with cartSupply := true })
  let r := s.powerSlot c 0 a start
  let q := r.1.powerSlot c 1 b start
  (q.1, (if r.2 then [slotNumber c 0] else []) ++ (if q.2 then [slotNumber c 1] else []))

/-- TRANSITION_STEP_COMPLETE (R456, R457, R539): the step in progress ends, and the channel reaches the next state. -/
def execTransitionStepComplete (c : Chan) (authA authB : AuthAnswer) (s : State) : Host.Outcome State Fault Refusal :=
  .next (
    let h := s.chan c
    let p := h.power
    let t :=
      if p.waiting ≠ 0 then s.settleStart c
      else if !p.inTransition || s.starting c then s
      else if h.safe then
        (if p.stepTo = .p3 then (s.intoP3 c).headFor c
          else (s.reachDark c .p4 true).headFor c)
      else match p.state, p.stepTo with
        | .p0, .p1 =>
          if h.jobs.any Job.running then s
          else (s.onPower c (fun p => { p with coreMillivolt := 600 })).reach c .p1
        | .p1, .p0 =>
          if h.selfTest.isSome then s
          else (s.onPower c (fun p => { p with coreMillivolt := s.coreSetting c })).reach c .p0
        | .p1, .p2 =>
          if (h.selfTest.isSome && p.target.on) || !h.arrays.progs.isEmpty || !h.arrays.cals.isEmpty then s
          else (s.onChan c Channel.parkSlots).reach c .p2
        | .p2, .p1 =>
          let s := (s.powerSlots c authA authB false).1
          (s.onPower c (fun p => { p with waiting := 2 })).settleStart c
        | .p2, .p3 => (s.intoP3 c).headFor c
        | .p3, .p4 => (s.reachDark c .p4 true).headFor c
        | _, _ => s
    t.watchDegraded s)

/-! ### Start-up of a channel (R23, R24, R532 to R535) -/

/-- POWER_RAMP_START: the next channel's branch is checked, its fuse closes and its rails ramp (R23, R24); a short leaves the
channel unpowered, with both events from the port complex (R534). A failed port complex ramps nothing (R28). -/
def execPowerRampStart (branchShort : Bool) (s : State) : Host.Outcome State Fault Refusal :=
  .next (if !s.module.on || !s.module.alive then s
    else match s.module.rampQueue with
    | [] => s
    | c :: _ =>
      let p := (s.chan c).power
      let s := s.leaveQueue c
      if branchShort then
        let s := if p.state = .p3 then s.reachDark c .p4 true else s
        let s := s.onPower c (fun p => { p with fuseClosed := false, inTransition := false, stepTo := p.state })
        (s.raisePort c.val 0x0021 (leBytes 1 c.val)).raisePort c.val 0x00D1 (leBytes 1 1 ++ leBytes 3 0)
      else
        s.onPower c (fun p => { p with fuseClosed := true, booting := some (if p.state = .p4 then .cold else .warm) }))

/-- What a start initialises before step 2 (Table 19.1, R59, R61). -/
def State.beginStart (s : State) (c : Chan) (kind : StartKind) : State :=
  let cold := kind == .cold
  let r := (s.resetEntries c cold).drawFree
  let s := r.2.onChan c (fun h =>
    let h := h.darken (!cold)
    { h with clock := startClock s, audit := h.audit.restart auditSize (Config.fresh r.1),
             power := { h.power with booting := none, waiting := 1, safeCause := 0, ready := false, cartSupply := false,
                                     coreMillivolt := 600, junction := Throttle.reset, slotThrottle0 := Throttle.reset,
                                     slotThrottle1 := Throttle.reset, tripped := 0 } })
  (s.judgeClock c).checkReference c

/-- The result of the start-up self-test (R540): which region a pass names is not stated. Log entry 49. -/
def State.selfTestResult (s : State) (c : Chan) (fail : Option (Nat × Nat)) : State :=
  let r := s.drawFree
  let s := match fail with
    | some (region, unit) => (r.2.setEnt (kFw c 0x35) (1 + region % 256 * 256)).setEnt (kFw c 0x36) unit
    | none => (r.2.setEnt (kFw c 0x35) (Config.fresh r.1 % 256 * 256)).setEnt (kFw c 0x36) 0
  s.setEnt (kFw c 0x37) (s.chan c).clock.timebase.toNat

/-- Every enabled port starts training (Table 19.3, step 2). -/
def State.startPorts (s : State) (c : Chan) : State :=
  (List.range 42).foldl (fun s p => s.onLink c p (fun k => { k with state := if s.portEnabled c p then 1 else 6 })) s

/-- Steps 3 to 5 of Table 19.3, after a boot. Log entry 72. -/
def State.startSteps (s : State) (c : Chan) (found : StartupFindings) : State :=
  let s := (s.startPorts c).selfTestResult c found.regionFail
  match found.regionFail, found.stackFail with
  | some (region, _), _ => (s.startFailed c 3 4 region).enterSafe c 4
  | none, some stack => (s.startFailed c 4 7 stack).enterSafe c 7
  | none, none =>
    if (s.chan c).power.target = .p2 then s.settleStart c
    else
      let r := s.powerSlots c found.authA found.authB true
      (r.2.foldl (fun s n => s.startFailed c 5 0 n) r.1).settleStart c

/-- CHANNEL_STARTUP: steps 2 to 9 of Table 19.3, up to what an attach sweep or a port in training holds back (R532, R534).
Log entry 72. -/
def execChannelStartup (c : Chan) (found : StartupFindings) (s : State) : Host.Outcome State Fault Refusal :=
  .next (match (s.chan c).power.booting with
    | none => s
    | some kind =>
      let r := (s.beginStart c kind).secureBoot (some c)
      let t := if r.2.1 then
          (if r.2.2 then r.1.startFailed c 2 0 0 else r.1).startSteps c found
        else (r.1.startFailed c 2 5 0).enterSafe c 5
      t.watchDegraded s)

/-- TILE_CALIBRATION_COMPLETE (R177, R179, R181, R186, R534): the record, the directory, and the end of an attach sweep. -/
def execTileCalibrationComplete (c : Chan) (cal : Nat) (s : State) : Host.Outcome State Fault Refusal :=
  .next (match (s.chan c).arrays.cals.find? (fun k => k.id == cal) with
    | some k => (((s.calEnd c k).sweepFailed c k).settleStart c).watchDegraded s
    | none => s)

/-! ### Reboots (R527, R528) -/

/-- A reboot (R527): GOODBYE, POWER_STATE passes through 3 with HBM kept, SAFE ends, and the start-up of Table 19.3 runs from
step 2 to P1. -/
def State.reboot (s : State) (c : Chan) : State :=
  let s := s.goodbyeAll c
  let s := s.onChan c (fun h => { h with audit := h.audit.flush auditSize })
  let s := s.reachDark c .p3 false
  s.onPower c (fun p => { p with target := .p1, inTransition := true, stepTo := .p1, booting := some .reboot,
                                 startTime := s.module.clock.timebase })

/-! ### Loss of a branch (R22, R460) -/

/-- A branch is cut: the channel goes to P4 with HBM lost and any start-up abandoned; its fuse stays open until a host command
powers the channel (R22, R23). Log entries 10, 68. -/
def State.cutBranch (s : State) (c : Chan) : State :=
  let s := (s.reachDark c .p4 true)
  s.onPower c (fun p => { p with fuseClosed := false })

/-- BRANCH_FUSE_OPEN (R22). -/
def execBranchFuseOpen (c : Chan) (s : State) : Host.Outcome State Fault Refusal :=
  .next (if !s.module.on || !(s.chan c).power.fuseClosed then s
    else ((s.cutBranch c).raisePort c.val 0x0020 (leBytes 1 c.val)).watchDegraded s)

/-- SUPPLY_FAULT: all four fuses open, and the event says whether the input was low or high (R460); one below 36.0 V is a
power-off instead. The port complex opens the fuses, so one that has failed opens none (R28). Log entry 110. -/
def execSupplyFault (inputMillivolt : Nat) (s : State) : Host.Outcome State Fault Refusal :=
  .next (if !s.module.on || !s.module.alive || inputMillivolt < 36000 || (39000 ≤ inputMillivolt && inputMillivolt ≤ 60000) then s
    else
      let v := Fp.divRound fp32 .nearest (Fp.ofInt inputMillivolt) (Fp.ofInt 1000)
      let s' := [0, 1, 2, 3].foldl (fun (s : State) (c : Chan) => s.cutBranch c) s
      ((s'.bumpPort (odKey 0x2800 0x20)).raisePort 0 0x0095 (leBytes 1 (if inputMillivolt < 39000 then 0 else 1) ++ leBytes 4 (w32 v))).watchDegraded s)

end Sys2Proof.Machine
end

