-- ==== Sys2Proof/Machine/Limits.lean ====
section
/-!
DEFINITION. Limits, throttles and trips, the core voltage, the metrology converter, and the failures of a channel's own logic
(16 R462 to R472; 06 R175; 15 R436 to R438; 19 Table 19.6).
-/

namespace Sys2Proof.Machine

/-! ### Trips (R466) -/

/-- An F32 word for a quotient of whole numbers. -/
def f32Ratio (n d : Nat) : Nat := w32 (Fp.divRound fp32 .nearest (Fp.ofInt n) (Fp.ofInt d))

/-- A trip of a channel by a limit: TRIPPED, TRIPS, the event and the safe state (R466); a self-test ends with result 4
(R539). -/
def State.trip (s : State) (c : Chan) (limit slot : Nat) (value : Word) : State :=
  let data := leBytes 1 limit ++ leBytes 1 slot ++ leBytes 4 value.toNat ++ leBytes 1 c.val
  let s := (s.abortTest c).onPower c (fun p => { p with tripped := p.tripped ||| BitVec.ofNat 4 (2 ^ limit) })
  let s := s.bump c (kPow c 0x23)
  let s := if limit = 3 then s.raisePort 0 0x0094 data else s.raise c 0x0094 data
  s.enterSafe c 1

/-- The channel in P0 with the highest branch current, the lower number on a tie (R466). -/
def State.heaviest (s : State) (n : Nat) : Option Chan :=
  ([0, 1, 2, 3] : List Chan).foldl (fun b c =>
    if !(s.chan c).issues then b
    else match b with
      | some d => if Config.branchCurrent n d.val < Config.branchCurrent n c.val then some c else b
      | none => some c) none

/-- A current trip selects a channel and trips it. -/
def State.currentTrip (s : State) (value : Word) : State :=
  let r := s.drawFree
  match r.2.heaviest r.1 with
  | some c => ((r.2.bumpPort (odKey 0x2800 0x21)).trip c 3 0xFF value).watchDegraded s
  | none => s

/-- LIMIT_TRIP (R463, R466): the comparators of a channel act in its safe state as well (R437), which then stays what it is. -/
def execLimitTrip (kind : TripKind) (value : Word) (s : State) : Host.Outcome State Fault Refusal :=
  .next (match kind with
    | .junction c => if (s.chan c).up then (s.trip c 1 0xFF value).watchDegraded s else s
    | .cartridge slot =>
      let c := slot.owner
      let side := slot.side.val
      if (s.chan c).up && (s.chan c).power.cartSupply && ((s.chan c).slot side).present then
        (s.trip c 2 side value).watchDegraded s
      else s
    | .inputCurrent => if s.module.on then s.currentTrip value else s)

/-- CURRENT_TRIP_RECHECK: with the current still above the trip value the next channel is tripped (R466). -/
def execCurrentTripRecheck (stillAbove : Bool) (value : Word) (s : State) : Host.Outcome State Fault Refusal :=
  .next (if s.module.on && stillAbove then s.currentTrip value else s)

/-! ### Throttles (R463, R465) -/

/-- One run of the throttle logic on a kind (R465). -/
def Throttle.run (k : Throttle) (atOrAbove below : Bool) : Throttle :=
  if atOrAbove then ⟨max (k.f - 2) 2, 0⟩
  else if below then (if 10 ≤ k.quiet + 1 then ⟨min (k.f + 1) 16, 0⟩ else ⟨k.f, k.quiet + 1⟩)
  else ⟨k.f, 0⟩

/-- The kind after a run at a value in 0.125 K, with its effective throttle; the hysteresis is 2 K. -/
def Throttle.runTemp (k : Throttle) (value effective : Nat) : Throttle :=
  k.run (decide (effective ≤ value)) (decide (value + 16 < effective))

/-- Effective throttle of a register pair in 0.125 K with its margin (R463). -/
def effectiveTemp (reg margin : Nat) : Nat := min (reg % 65536) (reg / 65536 - margin)

/-- The events of a change of a fraction, and its counter (R465): `on` raises THROTTLE_ON, `off` THROTTLE_OFF. -/
def throttleEvent (old new : Throttle) : Option Nat :=
  if old.f = 16 ∧ new.f < 16 then some 0x0092 else if old.f < 16 ∧ new.f = 16 then some 0x0093 else none

/-- Raises the event of a channel's fraction. -/
def State.noteThrottle (s : State) (c : Chan) (limit slot sub value : Nat) (old new : Throttle) : State :=
  match throttleEvent old new with
  | some 0x0092 => (s.bump c (kPow c sub)).raise c 0x0092 (leBytes 1 limit ++ leBytes 1 slot ++ leBytes 4 (f32Ratio value 8))
  | some code => s.raise c code (leBytes 1 limit ++ leBytes 1 slot)
  | none => s

/-- Whether the cartridge of a side is powered. -/
def Channel.slotPowered (h : Channel) (side : Nat) : Bool :=
  h.power.cartSupply && (h.slot side).present && (h.slot side).latchClosed

/-- The junction and slot kinds of one channel (R465). -/
def State.throttleChannel (s : State) (c : Chan) (junction a b : Nat) : State :=
  if !(s.chan c).up then s
  else
    let p := (s.chan c).power
    let cart := effectiveTemp (s.ent (kPow c 0x05)) 24
    let j := p.junction.runTemp junction (effectiveTemp (s.ent (kPow c 0x04)) 40)
    let ta := if (s.chan c).slotPowered 0 then p.slotThrottle0.runTemp a cart else p.slotThrottle0
    let tb := if (s.chan c).slotPowered 1 then p.slotThrottle1.runTemp b cart else p.slotThrottle1
    let s := s.onPower c (fun p => { p with junction := j, slotThrottle0 := ta, slotThrottle1 := tb, junctionTemp := junction })
    let s := s.noteThrottle c 1 0xFF 0x20 junction p.junction j
    let s := s.noteThrottle c 2 0 0x21 a p.slotThrottle0 ta
    s.noteThrottle c 2 1 0x21 b p.slotThrottle1 tb

/-- Effective throttle of the input current, A (R463). -/
def State.effectiveCurrent (s : State) : Rat :=
  min (f32 (s.ent (odKey 0x2800 0x12))).toRat ((f32 (s.ent (odKey 0x2800 0x13))).toRat - 5)

/-- The current kind, which the port complex sends to every channel in P0 (R465). -/
def State.throttleCurrent (s : State) (milliamp : Nat) : State :=
  let eff := s.effectiveCurrent * 1000
  let old := s.module.currentThrottle
  let new := old.run (decide (eff ≤ (milliamp : Rat))) (decide ((milliamp : Rat) < eff - 2000))
  let s := { s with module := { s.module with currentThrottle := new, inputMilliamp := milliamp } }
  match throttleEvent old new with
  | some 0x0092 =>
    ([0, 1, 2, 3] : List Chan).foldl (fun s c => if (s.chan c).power.state = .p0 then s.bump c (kPow c 0x22) else s)
      (s.raisePort 0 0x0092 (leBytes 1 3 ++ leBytes 1 0xFF ++ leBytes 4 (f32Ratio milliamp 1000)))
  | some code => s.raisePort 0 code (leBytes 1 3 ++ leBytes 1 0xFF)
  | none => s

/-- THROTTLE_TICK: the procedure of R465 over every kind. -/
def execThrottleTick (sample : ThrottleSample) (s : State) : Host.Outcome State Fault Refusal :=
  .next (if !s.module.on then s
    else
      ([0, 1, 2, 3] : List Chan).foldl (fun s c =>
        s.throttleChannel c (sample.junction.getD c.val 0) (sample.slots.getD (2 * c.val) 0)
          (sample.slots.getD (2 * c.val + 1) 0)) (s.throttleCurrent sample.currentMilliamp))

/-! ### Core voltage and limit registers (R438, R462, R464) -/

/-- The core rail follows its setting in P0 (R52, R462). -/
def State.applyVoltage (s : State) (c : Chan) : State :=
  if (s.chan c).issues then s.onPower c (fun p => { p with coreMillivolt := s.coreSetting c }) else s

/-- The rule of CORE_VOLTAGE_SET (R462). -/
def State.setVoltage (s : State) (c : Chan) (v : Nat) : State × Nat :=
  if v < 600 || 850 < v || v % 5 != 0 then (s, 0x05)
  else ((s.setEnt (kPow c 0x01) v).applyVoltage c, 0x00)

/-- CORE_VOLTAGE_SET (R462). -/
def execCoreVoltageSet (via : Via) (c : Chan) (value : Word) (s : State) : Host.Outcome State Fault Refusal :=
  .next (let index := 0x2000 + 0x100 * c.val
    let v := value.toNat % 65536
    match via with
    | .bar0 => s.writeRegister c (chBase c + 0x800) (fun s => s.setVoltage c v)
    | .od p => s.writeScalar p index 0x01 2 v (noting index 0x01 (fun s => s.setVoltage c v)))

/-- Raises LIMIT_WRITE_CLAMPED (R438). -/
def clampedData (limit requested applied : Nat) : List Byte := leBytes 1 limit ++ leBytes 4 requested ++ leBytes 4 applied

/-- The rule of VOLTAGE_CLAMP (R464). -/
def State.setClamp (s : State) (c : Chan) (v : Nat) : State × Nat :=
  if v < 600 then (s, 0x05)
  else
    let t := (s.setEnt (kPow c 0x03) (min v 880)).applyVoltage c
    (if 880 < v then t.raise c 0x00B6 (clampedData 0 (f32Ratio v 1000) (f32Ratio 880 1000)) else t, 0x00)

/-- The rule of JUNCTION_LIMITS and CARTRIDGE_LIMITS (R464): limit number, entry, hardware value, minimum and margin.
Log entry 73. -/
def State.setTempLimits (s : State) (c : Chan) (limit sub hardware least margin v : Nat) : State × Nat :=
  let trip := v / 65536
  let throttle := v % 65536
  if trip < least || throttle < least - margin then (s, 0x05)
  else
    let t := s.setEnt (kPow c sub) (min trip hardware * 65536 + throttle)
    (if hardware < trip then t.raise c 0x00B6 (clampedData limit (f32Ratio trip 8) (f32Ratio hardware 8)) else t, 0x00)

/-- 100.0 as F32. -/
def hundredAmps : Nat := w32 (Fp.ofInt 100)

/-- The rule of the two input-current registers (R464): the trip is clamped at 100 A, 20 A and 15 A are the minima.
Log entry 73. -/
def State.setCurrentLimit (s : State) (trip : Bool) (v : Nat) : State × Nat :=
  if !(Fp.le (Fp.ofInt (if trip then 20 else 15)) (f32 v)) then (s, 0x05)
  else if trip && Fp.gt (f32 v) (Fp.ofInt 100) then
    ((s.storeEnt 0x2800 0x13 hundredAmps).raisePort 0 0x00B6 (clampedData 3 v hundredAmps), 0x00)
  else (s.storeEnt 0x2800 (if trip then 0x13 else 0x12) v, 0x00)

/-- LIMIT_REGISTER_WRITE (R438, R464). -/
def execLimitRegisterWrite (via : Via) (reg : LimitReg) (value : Word) (s : State) : Host.Outcome State Fault Refusal :=
  .next (let v := value.toNat
    match reg, via with
    | .voltageClamp c, .bar0 => s.writeRegister c (chBase c + 0x808) (fun s => s.setClamp c (v % 65536))
    | .voltageClamp c, .od p =>
      let index := 0x2000 + 0x100 * c.val
      s.writeScalar p index 0x03 2 (v % 65536) (noting index 0x03 (fun s => s.setClamp c (v % 65536)))
    | .junctionLimits c, .bar0 => s.writeRegister c (chBase c + 0x80C) (fun s => s.setTempLimits c 1 0x04 840 480 40 v)
    | .junctionLimits c, .od p =>
      let index := 0x2000 + 0x100 * c.val
      s.writeScalar p index 0x04 4 v (noting index 0x04 (fun s => s.setTempLimits c 1 0x04 840 480 40 v))
    | .cartridgeLimits c, .bar0 => s.writeRegister c (chBase c + 0x810) (fun s => s.setTempLimits c 2 0x05 680 320 24 v)
    | .cartridgeLimits c, .od p =>
      let index := 0x2000 + 0x100 * c.val
      s.writeScalar p index 0x05 4 v (noting index 0x05 (fun s => s.setTempLimits c 2 0x05 680 320 24 v))
    | .currentThrottle, .od p => s.writeScalar p 0x2800 0x12 4 v (noting 0x2800 0x12 (fun s => s.setCurrentLimit false v))
    | .currentTrip, .od p => s.writeScalar p 0x2800 0x13 4 v (noting 0x2800 0x13 (fun s => s.setCurrentLimit true v))
    | _, .bar0 => s)

/-! ### The metrology converter (R468 to R472, R175) -/

/-- Entry of the metrology area of a channel. -/
def kMet (c : Chan) (sub : Nat) : Nat := odKey (0x3000 + 0x100 * c.val) sub

/-- The enabled input that follows input `i` in the round (R468). -/
def nextInput (mask i : Nat) : Option Nat :=
  ((List.range 8).map (fun k => (i + k) % 8 + 1)).find? (fun j => mask.testBit (j - 1))

/-- Begins the next conversion: its input, and whether it is a check (R468, R470). -/
def State.nextConversion (s : State) (c : Chan) (after : Nat) : State :=
  match nextInput (s.ent (kMet c 0x03)) after with
  | none => s.onChan c (fun h => { h with metro := { h.metro with input := 0 } })
  | some i =>
    let n := mget 0 i (s.chan c).metro.counts + 1
    let every := s.ent (kMet c 0x05)
    let check := decide (i ≤ 6) && s.ent (kMet c 0x04) / 2 ^ (3 * (i - 1)) % 8 != 0 && every != 0 && n % every == 0
    s.onChan c (fun h => { h with metro := { h.metro with input := i, check := check, counts := mset 0 i n h.metro.counts } })

/-- VALUE of an input from its result: what its equation gives, rounded to the nearest F32 (Table 16.9; log entry 131). -/
def Channel.metroValue (h : Channel) (c i : Nat) (raw : BitVec 24) : Word :=
  let f := Config.referenceFactory c
  if i ≤ 4 then
    let y := h.slot ((i - 1) / 2)
    let r0 := Config.thermistorR0 y.cart ((i - 1) % 2)
    let beta := Config.thermistorBeta y.cart ((i - 1) % 2)
    match thermistorTemp raw.toInt (f32 r0.toNat) (f32 beta.toNat) with
    | some t => BitVec.ofNat 32 (w32 (toF32 t))
    | none => Config.thermistorValue raw r0 beta
  else if i ≤ 6 then
    match rtdTemp raw.toInt with
    | some t => BitVec.ofNat 32 (w32 (toF32 t))
    | none => Config.rtdValue raw
  else if i = 7 then
    BitVec.ofNat 32 (w32 (Fp.divRound fp32 .nearest (Fp.ofInt ((raw.toInt - f.toInt) * 1000000)) (Fp.ofInt f.toInt)))
  else BitVec.ofNat 32 (w32 ((Fp.mulExact (Fp.ofInt raw.toInt) (.fin false 1 (-17))).round fp32 .nearest))

/-- A check marks an input open, or clears the mark (R470). Log entry 73. -/
def State.openWireCheck (s : State) (c : Chan) (i : Nat) (raw : BitVec 24) : State :=
  let mark := decide (2 ^ 23 - 2 ^ 17 ≤ raw.toInt.natAbs)
  let old := s.ent (kMet c 0x06)
  if old.testBit (i - 1) = mark then s
  else
    let s := s.setEnt (kMet c 0x06) (old ^^^ 2 ^ (i - 1))
    let s := if mark then
        (s.setEnt (kMet c (0x1F + i)) (w32 .nan)).onChan c (fun h => { h with metro := { h.metro with
          valid := if h.metro.valid.testBit (i - 1) then h.metro.valid ^^^ 2 ^ (i - 1) else h.metro.valid } })
      else s
    (s.bump c (kMet c 0x41)).raise c 0x0096 (leBytes 1 i ++ leBytes 1 (if mark then 1 else 0))

/-- The reference check of R471. -/
def State.referenceCheck (s : State) (c : Chan) (raw : BitVec 24) : State :=
  let f := Config.referenceFactory c.val
  let bad := decide (100 * f.toInt.natAbs < (raw.toInt - f.toInt).natAbs * 1000000)
  let s := s.onChan c (fun h => { h with metro := { h.metro with referenceOk := !bad } })
  if bad then
    (s.bump c (kMet c 0x42)).raise c 0x0097 (leBytes 4 (BitVec.ofInt 32 raw.toInt).toNat ++ leBytes 4 (BitVec.ofInt 32 f.toInt).toNat)
  else s

/-- The cartridge temperature of a side (R175, R472): the mean of its valid results to the nearest 0.125 K,
a half to even (log entry 125). Without a valid one the trigger is lost, with one event. -/
def State.formTemp (s : State) (c : Chan) (side : Nat) : State :=
  let h := s.chan c
  let y := h.slot side
  if !y.present then s
  else
    let ok := [2 * side + 1, 2 * side + 2].filter (fun i => h.metro.referenceOk && h.metro.valid.testBit (i - 1))
    let vs := ok.map (fun i => (f32 (s.ent (kMet c (0x1F + i)))).toRat)
    if vs.isEmpty then
      let s := s.onChan c (fun h => h.setSlot side { y with temp := none, triggerLost := true })
      if y.triggerLost then s else s.raise c 0x0036 (leBytes 1 (slotNumber c side))
    else
      let t := ratRound (vs.foldl (· + ·) 0 / (vs.length : Rat) * 8)
      (s.onChan c (fun h => h.setSlot side { y with temp := some t, triggerLost := false })).calEvaluate c side

/-- A result is reported (R469 to R472). -/
def State.reportResult (s : State) (c : Chan) (i : Nat) (raw : BitVec 24) : State :=
  let opened := (s.ent (kMet c 0x06)).testBit (i - 1)
  let v := if opened then BitVec.ofNat 32 (w32 .nan) else (s.chan c).metroValue c.val i raw
  let s := s.setEnt (kMet c (0x0F + i)) (BitVec.ofInt 32 raw.toInt).toNat
  let s := s.setEnt (kMet c (0x1F + i)) v.toNat
  let s := s.setEnt (kMet c (0x2F + i)) (s.chan c).clock.timebase.toNat
  let s := s.bump c (kMet c 0x40)
  let s := s.onChan c (fun h => { h with metro := { h.metro with
    valid := if opened then h.metro.valid else h.metro.valid ||| 2 ^ (i - 1) } })
  if i = 7 then s.referenceCheck c raw
  else if i = 2 ∨ i = 4 then s.formTemp c (i / 2 - 1)
  else s

/-- METROLOGY_CONVERSION_END (R468 to R472). -/
def execMetrologyConversionEnd (c : Chan) (raw : BitVec 24) (s : State) : Host.Outcome State Fault Refusal :=
  .next (if !(s.chan c).up then s
    else
      let s := if (s.chan c).metro.input = 0 then s.nextConversion c 0 else s
      let i := (s.chan c).metro.input
      if i = 0 then s
      else
        let s := if (s.chan c).metro.check then s.openWireCheck c i raw else s.reportResult c i raw
        s.nextConversion c i)

/-! ### Failures of a channel's own logic (R436, Table 19.6) -/

/-- Core kind and cluster of CORE_WATCHDOG. -/
def coreCode : CoreKind → Nat × Nat
  | .scheduler => (1, 0)
  | .control k => (2, k.val)
  | .powerManagement => (3, 0)
  | .security => (4, 0)

/-- CORE_WATCHDOG (R436). -/
def execCoreWatchdog (c : Chan) (core : CoreKind) (s : State) : Host.Outcome State Fault Refusal :=
  .next (if !(s.chan c).up then s
    else
      let k := coreCode core
      (((s.bump c (kFw c 0x22)).raise c 0x00B5 (leBytes 1 k.1 ++ leBytes 1 k.2)).enterSafe c 2).watchDegraded s)

/-- INTERNAL_FAULT (Table 19.6, cause 8). -/
def execInternalFault (c : Chan) (s : State) : Host.Outcome State Fault Refusal :=
  .next ((s.enterSafe c 8).watchDegraded s)

end Sys2Proof.Machine
end

