-- ==== Sys2Proof/Machine/Supply.lean ====
section
/-!
DEFINITION. Events of the whole module: power-on and power-off, restart and failure of the port complex, PCI Express resets
and MSI-X (01 R25 to R28, R41; 14 R404, R410; 19 R526, R530, R531).
-/

namespace Sys2Proof.Machine

/-! ### The endpoint (R25, R26, R404) -/

/-- Every host transfer in progress ends with status 0x03 and the bytes it has moved (R404). -/
def State.endTransfers (s : State) : State :=
  ([0, 1, 2, 3] : List Chan).foldl (fun s c =>
    (s.chan c).jobs.foldl (fun s j => match j.phase with
      | .transfer _ _ _ _ moved => s.failJob c j 0x03 moved 0
      | _ => s) s) s

/-- What a PCI Express reset resets (R404): the MSI-X table, the aperture bases and the mailbox role; the configuration of
the endpoint returns to its reset values (log entry 14). -/
def Endpoint.linkReset (e : Endpoint) : Endpoint :=
  { e with linkUp := false, busMaster := false, bar2 := 64, msix := [], apertures := [], halves := [],
           mailbox := { e.mailbox with role := 0 } }

/-- PCIE_RESET (R25, R404): the four kinds have one effect. -/
def execPcieReset (_ : PcieReset) (s : State) : Host.Outcome State Fault Refusal :=
  .next (if !s.module.on || !s.module.alive then s
    else s.endTransfers.onEndpoint Endpoint.linkReset)

/-- PCIE_LINK_UP (R26): every unmasked vector with its pending bit set fires once. -/
def execPcieLinkUp (s : State) : Host.Outcome State Fault Refusal :=
  .next (if !s.module.on || !s.module.alive || s.module.endpoint.linkUp then s
    else (s.onEndpoint (fun e => { e with linkUp := true })).fireAllPending)

/-- MSIX_VECTOR_UNMASK (R26). -/
def execMsixVectorUnmask (v : Fin 2048) (s : State) : Host.Outcome State Fault Refusal :=
  .next (if !s.hostReaches then s
    else (s.onEndpoint (fun e => { e with
      msix := mset MsixEntry.reset v.val { (mget MsixEntry.reset v.val e.msix) with masked := false } e.msix })).firePending v.val)

/-- BUS_MASTER_ENABLE: with it messages that are pending can go out (R404). -/
def execBusMasterEnable (value : Bool) (s : State) : Host.Outcome State Fault Refusal :=
  .next (if !s.hostReaches then s else (s.onEndpoint (fun e => { e with busMaster := value })).fireAllPending)

/-! ### The port complex (R28, R530, R531) -/

/-- The volatile entries of the module take their defaults (Table 19.1). -/
def State.resetModuleEntries (s : State) : State :=
  { s with od := s.od.filter (fun p =>
      servedBy (p.1 / 256) != some none || (match odFind (p.1 / 256) (p.1 % 256) with
        | some r => r.persistent
        | none => false)) }

/-- The port complex has failed: every channel keeps its present power state, so that no queued power-up is ramped (R28). -/
def State.portFails (s : State) : State :=
  let s := s.module.rampQueue.foldl (fun s c =>
    s.onPower c (fun p => { p with inTransition := false, stepTo := p.state })) s
  { s with module := { s.module with alive := false, rampQueue := [] } }

/-- A trial set of the port complex whose self-test fails is rolled back, and the port complex starts from its previous set (R444,
R445); the second component says whether a set runs. Log entry 130. -/
def State.bootPort (s : State) (pass : Bool) : State × Bool :=
  let r := s.secureBoot none
  if !r.2.1 then (r.1, false)
  else if pass then (r.1, true)
  else if r.1.module.fw.trial = 2 then (r.1.rollback none 6).bootActive none false
  else (r.1, false)

/-- Steps 2 to 5 of Table 19.2: secure boot, self-test, the PCI Express link, and PORT_COMPLEX_READY. Log entry 14. -/
def State.startPort (s : State) (restart pass : Bool) : State :=
  let r := s.bootPort pass
  let s := r.1
  if !r.2 then s.portFails
  else
    let f := s.module.fw
    let v := setVersion (f.bank f.running).image
    let s := { s with module := { s.module with
      alive := true, endpoint := { s.module.endpoint with linkUp := true },
      fw := if f.trial = 2 then { f with trial := 0, state := 4 } else f } }
    let s := if f.trial = 2 then s.raisePort 0 0x00B2 (leBytes 1 f.running ++ leBytes 4 v) else s
    s.raisePort 0 0x00D3 (leBytes 1 (if restart then 1 else 0) ++ leBytes 4 v)

/-- MODULE_POWER_ON (R530): the port complex starts and every channel stays in P4; a reference that is absent is found lost
(R548, R58). -/
def execModulePowerOn (inputMillivolt : Nat) (selfTestPass : Bool) (s : State) : Host.Outcome State Fault Refusal :=
  .next (if s.module.on || inputMillivolt < 36000 || 60000 < inputMillivolt then s
    else
      let r := s.resetModuleEntries.drawFree
      let m := r.2.module
      let s := { r.2 with module := { Module.reset with
        on := true, refPresent := m.refPresent,
        audit := m.audit.restart portAuditSize (Config.fresh r.1), fw := m.fw, creds := { m.creds with challenge := none } } }
      let s := if m.refPresent then s else s.portClock Clock.reset.lost (some (0x0012, leBytes 8 0))
      s.startPort false selfTestPass)

/-- MODULE_POWER_OFF (Table 1.3, Table 19.1): every rail goes, every channel is in P4 with HBM lost; an
open branch fuse stays open (R23). -/
def execModulePowerOff (s : State) : Host.Outcome State Fault Refusal :=
  .next (if !s.module.on then s
    else
      let s := ([0, 1, 2, 3] : List Chan).foldl (fun s c =>
        (s.goDark c .p4).onPower c (fun p => { Power.reset with fuseClosed := p.fuseClosed })) s.loseRecent
      let m := s.module
      let fw := { m.fw with keys := none }
      { s with module := { Module.reset with refPresent := m.refPresent, audit := m.audit, creds := m.creds, fw := fw } })

/-- The port complex restarts (R530): as at power-on, but POWER_COMMAND, the persistent entries and its timebase registers
stay; every channel goes on (R25, R26). The previous EPOCH capture stays as well (log entry 111). -/
def State.restartPort (s : State) (pass : Bool) : State :=
  let s := s.endTransfers.resetModuleEntries
  let m := s.module
  let s := { s with module := { m with
    alive := false, endpoint := { Endpoint.reset with pending := m.endpoint.pending }, sessions := [], initParts := [],
    audit := m.audit.flush portAuditSize, creds := { m.creds with challenge := none } } }
  s.startPort true pass

/-- Before a restart that the port complex commands, every session is closed with reason 2 (R488), and the persistent entries
are in the EEPROM (R479). Log entry 51. -/
def State.beforeRestart (s : State) : State :=
  let s := { s with module := { s.module with recent := [] } }
  (s.module.sessions.map (fun q => q.id)).foldl (fun s id => s.closeSession id (some 2)) s

/-- PORT_COMPLEX_RESTART (R530, Table 19.1): by its watchdog, by ACTIVATE, or by the rollback of a trial (R444). -/
def execPortComplexRestart (cause : RestartCause) (selfTestPass : Bool) (s : State) : Host.Outcome State Fault Refusal :=
  .next (if !s.module.on || !s.module.alive then s
    else match cause with
      | .watchdog => s.loseRecent.restartPort selfTestPass
      | .activate => if s.module.fw.trial = 1 then s.beforeRestart.restartPort selfTestPass else s
      | .rollback => if s.module.fw.state = 4 then s.beforeRestart.restartPort selfTestPass else s)

/-- PORT_COMPLEX_FAILURE (R28): the host cannot reach the module until enable is taken away and given again. -/
def execPortComplexFailure (s : State) : Host.Outcome State Fault Refusal :=
  .next (if !s.module.on then s
    else
      let s := s.loseRecent.endTransfers.portFails
      { s with module := { s.module with
        sessions := [], initParts := [], endpoint := s.module.endpoint.linkReset } })

end Sys2Proof.Machine
end

