-- ==== Sys2Proof/Machine/Host.lean ====
section
/-!
DEFINITION. The host interface: contexts, doorbells, the fetching of submission entries, the opcodes that name no
descriptor, coalesced messages, host transfers and the mover, the event carousel, and the read-clear registers
(14 R404, R407, R410 to R426).
-/

namespace Sys2Proof.Machine

/-! ### Carousels (R412, R413, R426) -/

/-- The extents of a context's two carousels (Table 14.6). Log entry 15. -/
def Context.spans (k : Context) : List (Nat × Nat) := [(k.sqBase, 64 * k.sqSize), (k.cqBase, 32 * k.cqSize)]

/-- Whether a size is a power of two from 16 to `most` (Table 14.6). -/
def queueSizeOk (most n : Nat) : Bool := [16, 32, 64, 128, 256, 512, 1024, 2048, 4096, 8192].contains n && decide (n ≤ most)

/-- The extent of the event carousel of a channel: 8,192 records of 32 bytes (R426). -/
def Carousel.span (k : Carousel) : Nat × Nat := (k.base, 32 * carouselSize)

/-- Extents of the carousels of the enabled contexts but `x`. -/
def Channel.carousels (h : Channel) (x : Option Nat) : List (Nat × Nat) :=
  (List.range 64).flatMap (fun y => if some y ≠ x && (h.context y).enabled then (h.context y).spans else [])

/-- Whether the carousels of context `x` may be enabled (R413). -/
def Channel.contextOk (h : Channel) (x : Nat) : Bool :=
  let k := h.context x
  let others := h.carousels (some x) ++ (if h.host.events.enabled then [h.host.events.span] else [])
  queueSizeOk 4096 k.sqSize && queueSizeOk 8192 k.cqSize
    && k.spans.all (fun r => r.1 % 4096 == 0 && hbmFree r.1 r.2 && !others.any (overlapRange r))
    && !overlapRange (k.sqBase, 64 * k.sqSize) (k.cqBase, 32 * k.cqSize)

/-- A write of CTX_CONTROL (R412 to R414): PRIORITY, and ENABLE, which changes nothing while it asks for what holds.
Log entry 52. -/
def State.controlContext (s : State) (c : Chan) (x priority : Nat) (enable : Bool) : State :=
  let s := s.onChan c (fun h => h.setContext x { h.context x with priority := priority })
  let k := (s.chan c).context x
  if !enable then s.drainContext c x
  else if k.enabled then s
  else if (s.chan c).contextOk x then
    s.onChan c (fun h => h.setContext x { k with
      enabled := true, sqHead := 0, sqTail := 0, cqTail := 0, cqHead := 0, phase := true })
  else
    (s.onChan c (fun h => h.setContext x { k with configError := true })).raise c 0x0006 (leBytes 1 x)

/-- CONTEXT_ENABLE: a write of CTX_CONTROL with ENABLE 1 (R413). -/
def execContextEnable (c : Chan) (x : Ctx) (priority : BitVec 2) (s : State) : Host.Outcome State Fault Refusal :=
  .next (if s.hostServed c then s.controlContext c x.val priority.toNat true else s)

/-- CONTEXT_DRAIN: a write of CTX_CONTROL with ENABLE 0 (R414). -/
def execContextDrain (c : Chan) (x : Ctx) (priority : BitVec 2) (s : State) : Host.Outcome State Fault Refusal :=
  .next (if s.hostServed c then s.controlContext c x.val priority.toNat false else s)

/-! ### Doorbells (R416) -/

/-- Whether an index may be written: below the size, and no further on from the last one than the bound (R416).
Log entry 29. -/
def doorbellOk (size last bound value : Nat) : Bool :=
  decide (value < size) && decide ((value + size - last) % size ≤ (bound + size - last) % size)

/-- A doorbell write that is not accepted: DOORBELL_ERRORS and DOORBELL_ERROR (R416; log entry 29). -/
def State.doorbellError (s : State) (c : Chan) (x reg value : Nat) : State :=
  let old := (s.chan c).host.doorbellErrors
  let n := old.add 63 1
  let s := s.onChan c (fun h => { h with host := { h.host with doorbellErrors := n } })
  let s := if old.saturates n then s.raise c 0x0001 (rcEvent c.val (chBase c + 0x60) 0).data else s
  s.raise c 0x0005 (leBytes 1 x ++ leBytes 1 reg ++ leBytes 4 value)

/-- A write of SQ_TAIL (R416). Log entry 29. -/
def State.writeTail (s : State) (c : Chan) (x value : Nat) : State :=
  let k := (s.chan c).context x
  let t := value % 65536
  if k.enabled && !k.draining && doorbellOk k.sqSize k.sqTail ((k.sqHead + k.sqSize - 1) % k.sqSize) t then
    s.onChan c (fun h => h.setContext x { k with sqTail := t })
  else s.doorbellError c x 0 value

/-- SQ_TAIL (R416). -/
def execSqTail (c : Chan) (x : Ctx) (value : Word) (s : State) : Host.Outcome State Fault Refusal :=
  .next (if s.hostServed c then s.writeTail c x.val value.toNat else s)

/-- Writes the completions that a context holds into the slots that are free (R422). -/
def State.flushHeld (s : State) (c : Chan) (x : Nat) : State :=
  let s := ((s.chan c).context x).held.foldl (fun s p =>
    let k := (s.chan c).context x
    if k.full then s
    else (s.onChan c (fun h => h.setContext x { k with held := k.held.drop 1 })).writeCompletion c x p) s
  s.onChan c (fun h =>
    let k := h.context x
    if k.held.isEmpty then h.setContext x { k with cqFull := false } else h)

/-- A write of CQ_HEAD (R416, R422). Log entry 29. -/
def State.writeHead (s : State) (c : Chan) (x value : Nat) : State :=
  let k := (s.chan c).context x
  let t := value % 65536
  if k.enabled && !k.draining && doorbellOk k.cqSize k.cqHead k.cqTail t then
    (s.onChan c (fun h => h.setContext x { k with cqHead := t })).flushHeld c x
  else s.doorbellError c x 1 value

/-- CQ_HEAD (R416, R422). -/
def execCqHead (c : Chan) (x : Ctx) (value : Word) (s : State) : Host.Outcome State Fault Refusal :=
  .next (if s.hostServed c then s.writeHead c x.val value.toNat else s)

/-- A write of EVENT_HEAD (R416). -/
def State.writeEventHead (s : State) (c : Chan) (value : Nat) : State :=
  let k := (s.chan c).host.events
  let t := value % 8192
  if doorbellOk carouselSize k.head k.tail t then
    s.onChan c (fun h => { h with host := { h.host with events := { k with head := t } } })
  else s.doorbellError c 0xFF 2 value

/-- EVENT_HEAD (R416). -/
def execEventHead (c : Chan) (value : Word) (s : State) : Host.Outcome State Fault Refusal :=
  .next (if s.hostServed c then s.writeEventHead c value.toNat else s)

/-! ### The event carousel (R413, R426) -/

/-- Enables the event carousel: its indices return to 0 and the held records are written in order (R413, R426).
Log entry 52. -/
def State.enableEvents (s : State) (c : Chan) (control : Word) : State :=
  let k := (s.chan c).host.events
  let s := s.onChan c (fun h => { h with host := { h.host with
    events := { k with control := control, tail := 0, head := 0, phase := true, held := [], lostPending := false } } })
  let s := k.held.foldl (fun s e => s.carouselWrite c e) s
  s.onChan c (fun h => { h with host := { h.host with
    events := { h.host.events with lostPending := h.host.events.lostPending || k.lostPending } } })

/-- A write of EVENT_CONTROL (R411, R413, R426). -/
def State.writeEventControl (s : State) (c : Chan) (value : Word) : State :=
  let k := (s.chan c).host.events
  let control := value &&& 0xFFFFFF01#32
  let set := fun (s : State) (w : Word) => s.onChan c (fun h =>
    { h with host := { h.host with events := { h.host.events with control := w } } })
  if !control.getLsbD 0 || k.enabled then set s control
  else if k.base % 4096 == 0 && hbmFree k.span.1 k.span.2 && !((s.chan c).carousels none).any (overlapRange k.span) then
    s.enableEvents c control
  else (set s (control &&& 0xFFFFFFFE#32)).raise c 0x0006 (leBytes 1 0xFF)

/-- EVENT_CONTROL_WRITE (R426). -/
def execEventControlWrite (c : Chan) (value : Word) (s : State) : Host.Outcome State Fault Refusal :=
  .next (if s.hostServed c then s.writeEventControl c value else s)

/-! ### Submission entries (R415, R418) -/

/-- Bytes of a descriptor that SUBMIT may name (Table 14.8); none of another type. -/
def submitLength (ty : Nat) : Option Nat :=
  if [0x30, 0x41, 0x50, 0x60, 0x70, 0x73, 0x80, 0x90].contains ty then some 128
  else if [0x20, 0x32, 0x91, 0x92, 0x93, 0x94, 0xA0].contains ty then some 64
  else none

/-- Marks of entries that name no descriptor: invalid, DESC refused, FENCE, ABANDON, NOP. -/
def tyInvalid : Nat := 0x10000
/-- An entry whose DESC address is refused (R194, R421). -/
def tyBadAddress : Nat := 0x10001
/-- A FENCE entry. -/
def tyFence : Nat := 0x10002
/-- An ABANDON entry. -/
def tyAbandon : Nat := 0x10003
/-- A NOP entry. -/
def tyNop : Nat := 0x10004

/-- What an entry of an opcode and a DESC address is (Table 14.8, R421). -/
def Channel.entryType (h : Channel) (op desc : Nat) : Nat :=
  if op = 2 then tyFence
  else if op = 3 then tyAbandon
  else if op = 4 then tyNop
  else if op ≠ 1 then tyInvalid
  else
    let ty := h.nat desc 2
    if !descAt desc ((submitLength ty).getD 64) then tyBadAddress
    else if (submitLength ty).isNone then tyInvalid
    else ty

/-- Whether a context has an entry to fetch: one entry per context at a time (R418). -/
def Channel.fetchable (h : Channel) (x : Nat) : Bool :=
  let k := h.context x
  k.enabled && !k.draining && k.sqHead != k.sqTail && !h.jobs.any (fun j => j.context == some x && j.unbegun)

/-- The context that the next fetch serves: the highest PRIORITY, and round robin within it (R418). Log entry 53. -/
def Channel.nextFetch (h : Channel) : Option Nat :=
  ((List.range 64).map (fun i => (h.host.lastFetched + 1 + i) % 64)).foldl (fun (best : Option Nat) x =>
    if !h.fetchable x then best
    else match best with
      | some y => if (h.context y).priority < (h.context x).priority then some x else best
      | none => some x) none

/-- The refusal of an entry's DESC address (R194, R421). -/
def badAddress (desc : Nat) : Refused := ⟨0, desc, 8, 0⟩

/-- Fetches the next entry of context `x` (R418): it becomes a job, which starts when it may. Log entry 53. -/
def Channel.fetch (h : Channel) (x : Nat) : Channel :=
  let k := h.context x
  let a := k.sqBase + 64 * k.sqHead
  let desc := h.nat (a + 8) 8
  let ty := h.entryType (h.nat a 1) desc
  let h := h.setContext x { k with sqHead := (k.sqHead + 1) % k.sqSize }
  { h with host := { h.host with lastFetched := x } }.addJob (.sub x k.sqHead (h.nat (a + 4) 4) (h.nat (a + 1) 1 % 8)) desc ty

/-- ENTRY_FETCH (R415, R418): an entry whose DESC address is refused ends at once where it may begin. -/
def execEntryFetch (c : Chan) (s : State) : Host.Outcome State Fault Refusal :=
  .next (if !(s.chan c).served || (s.chan c).safe then s
    else match (s.chan c).nextFetch with
      | none => s
      | some x =>
        let id := (s.chan c).nextId
        let s := s.onChan c (fun h => h.fetch x)
        s.withJob c id tyBadAddress (fun j => s.refuseJob c j (badAddress j.addr)))

/-- Whether an earlier entry of the job's context has not completed. -/
def Channel.earlier (h : Channel) (j : Job) : Bool := h.jobs.any (fun i => i.context == j.context && decide (i.id < j.id))

/-- Acts on a job of a type that may begin, or that has begun and waits. Log entry 2. -/
def State.withBegun (s : State) (c : Chan) (id ty : Nat) (f : Job → State) : State :=
  match (s.chan c).job id with
  | some j => if j.descType = ty && (j.phase == .begun || (s.chan c).mayBegin j) then f j else s
  | none => s

/-- The job has begun and waits. -/
def State.beginJob (s : State) (c : Chan) (j : Job) : State := s.onChan c (fun h => h.setJob { j with phase := .begun })

/-- FENCE: completes when every earlier entry of its context has completed (R415). -/
def execFence (c : Chan) (job : Nat) (s : State) : Host.Outcome State Fault Refusal :=
  .next (s.withBegun c job tyFence (fun j =>
    if (s.chan c).earlier j then s.beginJob c j else s.completeJob c j 0 0))

/-- ABANDON: abandons the loaded program with status 0x03 and completes once it has ended; at once when none is loaded
(R415, R241; log entry 30). -/
def execAbandon (c : Chan) (job : Nat) (s : State) : Host.Outcome State Fault Refusal :=
  .next (s.withBegun c job tyAbandon (fun j =>
    match (s.chan c).training.program with
    | none => s.completeJob c j 0 0
    | some p =>
      if j.phase == .begun then (if p.abandoned.isSome then s else s.completeJob c j 0 0)
      else (s.beginJob c j).abandonByHost c))

/-- NOP: completes at once (R415). -/
def execNop (c : Chan) (job : Nat) (s : State) : Host.Outcome State Fault Refusal :=
  .next (s.withJob c job tyNop (fun j => s.completeJob c j 0 0))

/-- INVALID_ENTRY: a reserved opcode or a type that SUBMIT may not name ends with status 0x04 (R415); an entry whose DESC
address is refused, and which could not begin when it was fetched, is refused here (R421). Log entry 53. -/
def execInvalidEntry (c : Chan) (job : Nat) (s : State) : Host.Outcome State Fault Refusal :=
  .next ((s.withJob c job tyInvalid (fun j => s.failJob c j 0x04 0 0)).withJob c job tyBadAddress (fun j =>
    s.refuseJob c j (badAddress j.addr)))

/-! ### Coalescing (R411) -/

/-- COALESCE_TIMEOUT (R411): COALESCE_TIME has passed since the first record that was held back; of a context, or of the event
carousel. A COALESCE_TIME of 0 sets no limit. -/
def execCoalesceTimeout (c : Chan) (x : Option Ctx) (s : State) : Host.Outcome State Fault Refusal :=
  .next (match x with
    | some x =>
      let k := (s.chan c).context x.val
      if k.gathered.count = 0 || k.coalesceReg.extractLsb' 16 16 == 0 then s
      else (s.onChan c (fun h => h.setContext x.val { k with gathered := ⟨0, none⟩ })).requestCompletion c k.vector
    | none =>
      let k := (s.chan c).host.events
      if k.gathered.count = 0 || k.control.extractLsb' 16 16 == 0 then s
      else (s.onChan c (fun h => { h with host := { h.host with events := { k with gathered := ⟨0, none⟩ } } })).requestVector
        (512 * c.val + 448))

/-! ### Host transfers (R404, R423, R424) -/

/-- The first offending field of a host transfer descriptor (R12, R423). -/
def Channel.transferOffence (h : Channel) (a : Nat) : Option Nat :=
  let chan := h.nat (a + 16) 8
  let len := h.nat (a + 24) 8
  if h.nat a 2 ≠ 0xA0 then some 0
  else if 1 < h.nat (a + 2) 1 then some 2
  else if h.nat (a + 8) 8 % 64 ≠ 0 then some 8
  else if chan % 64 ≠ 0 then some 16
  else if len % 64 ≠ 0 ∨ len < 64 ∨ 2 ^ 40 < len then some 24
  else if !hbmFree chan len then some 16
  else none

/-- Whether the mover can issue a request: the link is up and bus mastering is enabled (R404). -/
def State.moverOpen (s : State) : Bool := s.hostReaches && s.module.endpoint.busMaster

/-- HOST_TRANSFER: the descriptor is checked and its transfer starts, after those that the channel has started (R423, R424); it
waits while the mover can issue no request (R404, R418). -/
def execHostTransfer (c : Chan) (job : Nat) (s : State) : Host.Outcome State Fault Refusal :=
  .next (s.withJob c job 0xA0 (fun j =>
    let h := s.chan c
    match h.transferOffence j.addr with
    | some off => s.refuseJob c j ⟨0xA0, j.addr, off, 0⟩
    | none =>
      if !s.moverOpen then s.onChan c (fun h => h.setJob { j with phase := .waiting })
      else
        let t := Phase.transfer (h.nat (j.addr + 2) 1 == 1) (h.nat (j.addr + 8) 8) (h.nat (j.addr + 16) 8)
          (h.nat (j.addr + 24) 8) 0
        s.onChan c (fun h => { h with jobs := (h.dropJob j.id).jobs ++ [{ j with phase := t }] })))

/-- The oldest transfer under way of a channel. -/
def Channel.transfer (h : Channel) : Option Job :=
  h.jobs.find? (fun j => match j.phase with
    | .transfer _ _ _ _ _ => true
    | _ => false)

/-- The channel that the mover serves next: round robin over those with a transfer (R424). -/
def State.nextMoved (s : State) : Option Chan :=
  ((List.range 4).map (fun i => (Fin.ofNat 4 (s.module.endpoint.lastMoved + 1 + i) : Chan))).find? (fun c =>
    (s.chan c).served && (s.chan c).transfer.isSome)

/-- Bytes of a piece of a transfer (R424). -/
def pieceLength (length moved : Nat) : Nat := min 4096 (length - moved)

/-- MOVER_PIECE: the next piece of 4 KiB, at most, of the transfer that is served; a read of host memory answers `hostData`
(R424). The bytes cross the port link (Table 14.5). Log entries 54, 112. -/
def execMoverPiece (hostData : List Byte) (s : State) : Host.Outcome State Fault Refusal :=
  .next (if !s.moverOpen then s
    else match s.nextMoved with
      | none => s
      | some c => match (s.chan c).transfer with
        | none => s
        | some j => match j.phase with
          | .transfer toHost host chan length moved =>
            let n := pieceLength length moved
            let address := BitVec.ofNat 64 (host + moved)
            if !toHost && hostData.length != n then s
            else
              let s := s.onEndpoint (fun e => { e with lastMoved := c.val })
              let s := if toHost then (s.emit (.hostWrite address ((s.chan c).bytes (chan + moved) n))).perfAdd c 79 n
                else ((s.emit (.hostRead address n)).onChan c (fun h => h.write (chan + moved) hostData)).perfAdd c 78 n
              if moved + n = length then s.completeJob c j length 0
              else s.onChan c (fun h => h.setJob { j with phase := .transfer toHost host chan length (moved + n) })
          | _ => s)

/-! ### Read-clear registers (R13, R15) -/

/-- Value that a read-clear counter returns, with its overflow bit on top. -/
def RcCounter.read (r : RcCounter) (bits : Nat) : Nat := r.value + (if r.overflow then 2 ^ bits else 0)

/-- RC_REGISTER_READ: the value is returned and the counter cleared (R13, R15); an unavailable channel returns all ones (R407). -/
def execRcRegisterRead (reg : RcReg) (s : State) : Host.Outcome State Fault Refusal :=
  .next (if !s.hostReaches then s
    else
      let zero : RcCounter := ⟨0, false⟩
      let channel := fun (c : Chan) (r : RcCounter) (f : HostPart → HostPart) =>
        if !s.available c then s.emit (.readData 0xFFFFFFFF#64)
        else (s.onChan c (fun h => { h with host := f h.host })).emit (.readData (BitVec.ofNat 64 (r.read 63)))
      match reg with
      | .moduleEventsLost =>
        (s.onEndpoint (fun e => { e with moduleEventsLost := zero })).emit
          (.readData (BitVec.ofNat 64 (s.module.endpoint.moduleEventsLost.read 31)))
      | .eventsLost c => channel c (s.chan c).host.eventsLost (fun p => { p with eventsLost := zero })
      | .doorbellErrors c => channel c (s.chan c).host.doorbellErrors (fun p => { p with doorbellErrors := zero })
      | .cqFullWaits c => channel c (s.chan c).host.cqFullWaits (fun p => { p with cqFullWaits := zero }))

end Sys2Proof.Machine
end

