-- ==== Sys2Proof/Machine/Firmware.lean ====
section
/-!
DEFINITION. Firmware update of a channel and of the port complex, recovery, key revocation, reboots and the service policy
(15 R441 to R449; 18 R502 to R504; 19 R528).
-/

namespace Sys2Proof.Machine

/-! ### What a channel is doing -/

/-- Whether any context of a channel is enabled. -/
def Channel.anyEnabled (h : Channel) : Bool := (List.range 64).any (fun x => (h.context x).enabled)

/-- No program is loaded, no context is enabled and every group is FREE (R443, R521, R528). -/
def Channel.free (h : Channel) : Bool := h.training.program.isNone && !h.anyEnabled && h.groups.isEmpty

/-! ### Staging (R441, R442, Table 15.5) -/

/-- Whether STAGE is accepted: FW_STATE is IDLE, STAGED or FAILED (R442). -/
def Firmware.mayStage (f : Firmware) : Bool := f.state == 0 || f.state == 3 || f.state == 5

/-- STAGE: the set at FW_STAGE_ADDRESS begins to be verified (Table 15.5, step 1). Log entry 48. -/
def State.stage (s : State) (c : Chan) : State × Nat :=
  let h := s.chan c
  if !h.fw.mayStage then (s, 0x05)
  else (s.onChan c (fun h => { h with fw := { h.fw with
    state := 1, staged := h.bytes (s.ent (kFw c 0x10)) (s.ent (kFw c 0x11)) } }), 0x00)

/-- The firmware part when its check finds a fault: FAILED with FW_RESULT (Table 15.6). -/
def Firmware.refuse (f : Firmware) (result : Nat) : Firmware := { f with state := 5, result := result, staged := [] }

/-- FW_VERIFY_COMPLETE (R441; Table 15.5, step 2): the inactive bank is erased and written, or the set is refused. -/
def execFwVerifyComplete (c : Chan) (s : State) : Host.Outcome State Fault Refusal :=
  .next (
    let f := (s.chan c).fw
    if f.state ≠ 1 || !(s.chan c).up then s
    else
      let r := checkSet c.val f.revoked f.securityMin f.staged
      if r.1 ≠ 0 then (s.setDieFw (some c) (f.refuse r.1)).raise c 0x00B1 (leBytes 1 r.1)
      else s.setDieFw (some c) { (f.unverify (1 - f.active)) with state := 2 })

/-- A bank that holds a verified set of `bytes`, and no more than its LENGTH. -/
def verifiedBank (bytes : List Byte) (key : Nat) : Bank := ⟨bytes.take (fieldOf bytes 24 8), true, key⟩

/-- FW_WRITE_COMPLETE (Table 15.5, step 3; Table 15.6): STAGED, or FAILED with result 5. A channel in its safe state fails when
it next runs. Log entry 48. -/
def execFwWriteComplete (c : Chan) (ok : Bool) (s : State) : Host.Outcome State Fault Refusal :=
  .next (
    let f := (s.chan c).fw
    if f.state ≠ 2 || !(s.chan c).up || (s.chan c).safe then s
    else if !ok then s.setDieFw (some c) { ((f.unverify (1 - f.active)).refuse 5) with incoming := [] }
    else
      let k := (setKey c.val f.revoked f.staged).getD 0
      (s.setDieFw (some c) { (f.setBank (1 - f.active) (verifiedBank f.staged k)) with state := 3, staged := [] }).raise c 0x00B0
        (leBytes 1 (1 - f.active) ++ leBytes 4 (setVersion f.staged)))

/-! ### Activation, confirmation, reboot (R443, R444, R504, R528) -/

/-- Whether the inactive bank may be activated (R443, first item). -/
def Firmware.mayActivate (f : Firmware) : Bool := f.state == 3 || (f.state == 0 && f.bootable (1 - f.active))

/-- ACTIVATE: the next boot is a trial of the inactive bank (R443); the reboot follows the answer. -/
def State.activate (s : State) (c : Chan) : State × Nat :=
  let h := s.chan c
  if h.fw.mayActivate && h.free && !h.safe && (s.ent (odKey 0x8000 0x02) != 0 || !s.othersHoldGroup c) then
    (s.setDieFw (some c) { h.fw with trial := 1 }, 0x00)
  else (s, 0x05)

/-- The confirmed set raises the fused minimum, and a bank below it becomes not verified (R504). -/
def State.raiseMinimum (s : State) (die : Option Chan) : State :=
  let f := s.dieFw die
  let v := setSecurity (f.bank f.active).image
  if v ≤ f.securityMin then s
  else
    let f := { f with securityMin := v }
    let f := if setSecurity (f.bank (1 - f.active)).image < v then f.unverify (1 - f.active) else f
    (s.setDieFw die f).raiseDie die 0x00C6 (leBytes 4 v)

/-- CONFIRM, accepted only in TRIAL (R444): the bank becomes the active bank (Table 15.5, step 7; R504). Log entry 48. -/
def State.confirm (s : State) (die : Option Chan) : State × Nat :=
  let f := s.dieFw die
  if f.state ≠ 4 then (s, 0x05)
  else
    let s := (s.setDieFw die { f with active := f.running, state := 0 }).raiseMinimum die
    let s := s.raiseDie die 0x00B3 (leBytes 1 f.running ++ leBytes 4 (setVersion (f.bank f.running).image))
    (s.bumpDie die (fun c => kFw c 0x20), 0x00)

/-- Whether REBOOT is accepted (R528). -/
def Channel.mayReboot (h : Channel) : Bool :=
  if h.safe then h.power.safeCause != 5 && h.power.safeCause != 6 else h.free

/-- The rule of FW_COMMAND (R442 to R444, R528): another code than 1 to 4 is out of range. R443 and R528 name WRITE_IGNORED for
an ACTIVATE or a REBOOT that is not accepted. -/
def State.fwCommand (s : State) (c : Chan) (v : Nat) : State × Nat :=
  let index := 0x7100 + 0x100 * c.val
  match v with
  | 1 => s.stage c
  | 2 => noting index 0x12 (fun s => s.activate c) s
  | 3 => s.confirm (some c)
  | 4 => noting index 0x12 (fun s => (s, if (s.chan c).mayReboot then 0x00 else 0x05)) s
  | _ => (s, 0x03)

/-- What follows the answer to an accepted FW_COMMAND: ACTIVATE and REBOOT reboot the channel (R527). -/
def State.afterFwCommand (s : State) (c : Chan) (v : Nat) : State :=
  if v = 2 ∨ v = 4 then (s.reboot c).watchDegraded s else s

/-- A write of FW_COMMAND on a path. -/
def State.writeFwCommand (s : State) (p : ReqPath) (c : Chan) (v : Nat) : State :=
  let index := 0x7100 + 0x100 * c.val
  s.writeThen p index 0x12 0 (leBytes 1 v) (fun s => s.fwCommand c v) (fun s => s.afterFwCommand c v)

/-- FW_STAGE (R442). -/
def execFwStage (path : ReqPath) (c : Chan) (s : State) : Host.Outcome State Fault Refusal := .next (s.writeFwCommand path c 1)

/-- FW_ACTIVATE (R443). -/
def execFwActivate (path : ReqPath) (c : Chan) (s : State) : Host.Outcome State Fault Refusal := .next (s.writeFwCommand path c 2)

/-- FW_CONFIRM (R442, R444, R504). -/
def execFwConfirm (path : ReqPath) (c : Chan) (s : State) : Host.Outcome State Fault Refusal := .next (s.writeFwCommand path c 3)

/-- REBOOT (R528). -/
def execReboot (path : ReqPath) (c : Chan) (s : State) : Host.Outcome State Fault Refusal := .next (s.writeFwCommand path c 4)

/-- TRIAL_TIMEOUT (R444): READY has not come, and the channel reboots into its previous bank. Log entry 100. -/
def execTrialTimeout (c : Chan) (s : State) : Host.Outcome State Fault Refusal :=
  .next (if (s.chan c).fw.trial ≠ 2 || !(s.chan c).up then s
    else
      let t := s.onChan c (fun h => { h with fw := { h.fw with trial := 3 } })
      (t.reboot c).watchDegraded s)

/-! ### The port complex (R445) -/

/-- Bytes with a piece written at an offset; what lies between the end and the piece is not stated (log entry 33). -/
def writePiece (old : List Byte) (offset n : Nat) (data : List Byte) : List Byte :=
  (old ++ leBytes (offset - old.length) (Config.fresh n)).take offset ++ data ++ old.drop (offset + data.length)

/-- The rule of PORT_IMAGE: a piece goes into the inactive bank, which is not verified then (R445, R479; log entry 33). -/
def State.portImage (s : State) (offset : Nat) (data : List Byte) : State × Nat :=
  let f := s.module.fw
  if !f.mayStage then (s, 0x05)
  else
    let r := s.drawFree
    let b := f.bank (1 - f.active)
    (r.2.setDieFw none { (f.setBank (1 - f.active) ⟨writePiece b.image offset r.1 data, false, b.keySlot⟩) with
      state := if f.state = 3 then 0 else f.state }, 0x00)

/-- PORT_IMAGE (R445). -/
def execPortImage (path : ReqPath) (offset : Nat) (data : List Byte) (s : State) : Host.Outcome State Fault Refusal :=
  .next (s.writeRequest path 0x7000 0x10 offset data (fun s => s.portImage offset data))

/-- STAGE of the port complex: the set in the inactive bank is verified (R441, R445; log entry 34). -/
def State.portStage (s : State) : State × Nat :=
  let f := s.module.fw
  if !f.mayStage then (s, 0x05)
  else
    let set := (f.bank (1 - f.active)).image
    let r := checkSet 4 f.revoked f.securityMin set
    if r.1 ≠ 0 then ((s.setDieFw none ((f.unverify (1 - f.active)).refuse r.1)).raisePort 0 0x00B1 (leBytes 1 r.1), 0x00)
    else ((s.setDieFw none { (f.setBank (1 - f.active) (verifiedBank set r.2)) with state := 3 }).raisePort 0 0x00B0
      (leBytes 1 (1 - f.active) ++ leBytes 4 (setVersion set)), 0x00)

/-- ACTIVATE of the port complex: its next start is a trial of the inactive bank (R443, R445). Log entry 51. -/
def State.portActivate (s : State) : State × Nat :=
  let f := s.module.fw
  if f.mayActivate then (s.setDieFw none { f with trial := 1 }, 0x00) else (s, 0x05)

/-- The rule of PORT_COMMAND (R445). -/
def State.portCommand (s : State) (v : Nat) : State × Nat :=
  match v with
  | 1 => s.portStage
  | 2 => noting 0x7000 0x11 State.portActivate s
  | 3 => s.confirm none
  | _ => (s, 0x03)

/-- A write of PORT_COMMAND on a path. -/
def State.writePortCommand (s : State) (p : ReqPath) (v : Nat) : State :=
  s.writeScalar p 0x7000 0x11 1 v (fun s => s.portCommand v)

/-- PORT_STAGE (R445). -/
def execPortStage (path : ReqPath) (s : State) : Host.Outcome State Fault Refusal := .next (s.writePortCommand path 1)

/-- PORT_ACTIVATE (R445): PORT_COMPLEX_RESTART then carries the restart out. -/
def execPortActivate (path : ReqPath) (s : State) : Host.Outcome State Fault Refusal := .next (s.writePortCommand path 2)

/-- PORT_CONFIRM (R445). -/
def execPortConfirm (path : ReqPath) (s : State) : Host.Outcome State Fault Refusal := .next (s.writePortCommand path 3)

/-! ### The service policy (R449) -/

/-- The rule of the two policy entries: the value is kept, and POLICY_CHANGED carries both. -/
def State.setPolicy (s : State) (sub v : Nat) : State × Nat :=
  let s := s.storeEnt 0x8000 sub v
  (s.raisePort 0 0x00B7 (leBytes 1 (s.ent (odKey 0x8000 0x01)) ++ leBytes 1 (s.ent (odKey 0x8000 0x02))), 0x00)

/-- Subindex of a policy entry (Table 15.8). -/
def policySub (which : Policy) : Nat :=
  match which with
  | .mixedVersion => 0x01
  | .liveService => 0x02

/-- SERVICE_POLICY_WRITE (R449). Log entry 69. -/
def execServicePolicyWrite (path : ReqPath) (which : Policy) (value : Byte) (s : State) : Host.Outcome State Fault Refusal :=
  .next (s.writeScalar path 0x8000 (policySub which) 1 value.toNat (fun s => s.setPolicy (policySub which) value.toNat))

/-! ### Recovery (R502) -/

/-- The whole set that recovery has gathered, once the bytes reach the header's LENGTH. -/
def recoveryDone (b : List Byte) : Bool := decide (64 ≤ b.length) && decide (fieldOf b 24 8 ≤ b.length)

/-- The rule of RECOVERY_IMAGE (R502): pieces of ascending OFFSET from 0; the complete set is checked, and boots as a trial.
Log entry 48. -/
def State.recoveryPiece (s : State) (c : Chan) (offset : Nat) (data : List Byte) : State × Nat :=
  let f := (s.chan c).fw
  if f.bootState ≠ 2 then (s, 0x05)
  else if offset ≠ 0 ∧ (f.incoming = [] ∨ offset ≠ f.incoming.length) then (s, 0x03)
  else
    let f := if offset = 0 then { (f.setBank (1 - f.active) ⟨[], false, 0⟩) with incoming := data }
      else { f with incoming := f.incoming ++ data }
    if !recoveryDone f.incoming then (s.setDieFw (some c) f, 0x00)
    else
      let r := checkSet c.val f.revoked f.securityMin f.incoming
      if r.1 ≠ 0 then (s.setDieFw (some c) { f with result := r.1, incoming := [] }, 0x00)
      else (s.setDieFw (some c) { (f.setBank (1 - f.active) (verifiedBank f.incoming r.2)) with
        incoming := [], trial := 1 }, 0x00)

/-- What follows the answer: with the set verified, the recovery boot (R502, R527). -/
def State.afterRecovery (s : State) (c : Chan) : State :=
  if (s.chan c).fw.trial = 1 then (s.reboot c).watchDegraded s else s

/-- RECOVERY_IMAGE (R502). -/
def execRecoveryImage (path : ReqPath) (c : Chan) (offset : Nat) (data : List Byte) (s : State) :
    Host.Outcome State Fault Refusal :=
  .next (let index := 0x1110 + c.val
    s.writeThen path index 0x30 offset data (fun s => s.recoveryPiece c offset data)
      (fun s => s.afterRecovery c))

/-! ### Key revocation (R503) -/

/-- A bank after a revocation: under the first slot that still verifies its set, or not verified. -/
def Bank.rekey (b : Bank) (die revoked : Nat) : Bank :=
  if !b.verified || !revoked.testBit b.keySlot then b
  else match setKey die revoked b.image with
    | some k => { b with keySlot := k }
    | none => { b with verified := false }

/-- The rule of FW_KEY_REVOKED of a die (R503): bits can only be set, and one slot stays. -/
def State.revokeKeys (s : State) (die : Option Chan) (v : Nat) : State × Nat :=
  let f := s.dieFw die
  let now := f.revoked ||| v % 16
  if now = 15 then (s, 0x03)
  else
    let n := dieNumber die
    let s := s.setDieFw die { f with revoked := now, bank0 := f.bank0.rekey n now, bank1 := f.bank1.rekey n now }
    let fresh := [0, 1, 2, 3].filter (fun k => now.testBit k && !f.revoked.testBit k)
    (fresh.foldl (fun s k => s.raiseDie die 0x00C5 (leBytes 1 k)) s, 0x00)

/-- FW_KEY_REVOKE (R503). -/
def execFwKeyRevoke (path : ReqPath) (c : Option Chan) (value : Byte) (s : State) : Host.Outcome State Fault Refusal :=
  .next (match c with
    | some c => s.writeScalar path (0x1110 + c.val) 0x02 1 value.toNat (fun s => s.revokeKeys (some c) value.toNat)
    | none => s.writeScalar path 0x1100 0x16 1 value.toNat (fun s => s.revokeKeys none value.toNat))

end Sys2Proof.Machine
end

