-- ==== Sys2Proof/Machine/Security.lean ====
section
/-!
DEFINITION. Attestation, credentials and challenges, the audit log's writing to flash, scan and debug, and the self-test on
demand (18 R507, R508, R514 to R519, R521, R522; 19 R537 to R540).
-/

namespace Sys2Proof.Machine

/-! ### Attestation (R507, R508) -/

/-- The rule of ATTEST_NONCE (R507): a write of 32 bytes voids the report and starts a new one; a shorter piece changes the
bytes it names (log entry 35). -/
def State.setNonce (s : State) (c : Chan) (offset : Nat) (data : List Byte) : State × Nat :=
  let h := s.chan c
  if h.fw.debugState ≠ 0 then (s, 0x05)
  else
    let nonce := h.attest.nonce.take offset ++ data ++ h.attest.nonce.drop (offset + data.length)
    (s.onChan c (fun h => { h with attest :=
      if data.length = 32 then ⟨nonce, true, none⟩ else { h.attest with nonce := nonce } }), 0x00)

/-- ATTEST_NONCE (R507). -/
def execAttestNonce (path : ReqPath) (c : Chan) (nonce : List Byte) (s : State) : Host.Outcome State Fault Refusal :=
  .next (let index := 0x1110 + c.val
    s.writeRequest path index 0x10 0 nonce (fun s => s.setNonce c 0 nonce))

/-- Whether an index is served by a channel. -/
def servedByChan (c : Chan) (index : Nat) : Bool := servedBy index == some (some c)

/-- Keys of the persistent entries of a channel, in the order of DIRECTORY (Table 17.4, R479). -/
def persistentKeys (c : Chan) : List Nat :=
  (odTable.filter (fun r => r.persistent)).flatMap (fun r =>
    let index := r.index + (if r.stride = 0 then 0 else r.stride * c.val)
    if servedByChan c index then (List.range (r.hi + 1 - r.lo)).map (fun i => odKey index (r.lo + i)) else [])

/-- The bytes of a scalar entry's value. -/
def State.entryBytes (s : State) (key : Nat) : List Byte :=
  leBytes (match odFind (key / 256) (key % 256) with
    | some r => odSize r.ty
    | none => 0) (s.ent key)

/-- The digest of a slot's stored certificate; zero when none is authenticated. -/
def SlotState.certDigest (y : SlotState) : List Byte :=
  if y.authResult = 1 then shake256 y.certificate 64 else List.replicate 64 0#8

/-- The body of an attestation report (Table 18.6). -/
def State.reportBody (s : State) (c : Chan) : List Byte :=
  let h := s.chan c
  let f := h.fw
  let b := f.bank f.active
  let bit := fun (k : Nat) (x : Bool) => if x then 2 ^ k else 0
  let flags := bit 0 (f.bootState == 1) + bit 1 (s.mirror c) + bit 2 (s.k2 c) + bit 3 (s.ent (odKey 0x8000 0x01) == 1)
    + bit 4 (s.ent (odKey 0x8000 0x02) == 1)
  leBytes 2 0x00E1 ++ leBytes 1 c.val ++ leBytes 1 flags ++ leBytes 4 (setVersion b.image) ++ leBytes 4 f.securityMin
    ++ leBytes 1 b.keySlot ++ leBytes 1 f.revoked ++ leBytes 1 f.active ++ leBytes 1 f.debugCount
    ++ leBytes 8 Config.moduleSerial.toNat ++ leBytes 8 h.clock.timebase.toNat
    ++ (h.attest.nonce ++ List.replicate 32 0#8).take 32
    ++ shake256 b.image 64 ++ shake256 (s.module.fw.bank s.module.fw.active).image 64
    ++ shake256 ((persistentKeys c).flatMap s.entryBytes) 64
    ++ h.slotA.certDigest ++ h.slotB.certDigest ++ leBytes 4 h.audit.head.toNat
    ++ (h.audit.chain ++ List.replicate 12 0#8).take 12 ++ List.replicate 112 0#8

/-- Signs the report that is being formed (R508). -/
def State.signReport (s : State) (c : Chan) : State :=
  let body := s.reportBody c
  (s.onChan c (fun h => { h with attest := { h.attest with
    signing := false, report := some (body ++ (s.chan c).fw.sign body) } })).bump c (odKey (0x1110 + c.val) 0x42)

/-- ATTEST_REPORT_SIGNED (R507). -/
def execAttestReportSigned (c : Chan) (s : State) : Host.Outcome State Fault Refusal :=
  .next (if (s.chan c).attest.signing && (s.chan c).served then s.signReport c else s)

/-! ### Credentials (R514 to R516) -/

/-- Voids every outstanding challenge (R516). -/
def State.voidChallenges (s : State) : State :=
  { s with module := { s.module with
    creds := { s.module.creds with challenge := none },
    sessions := s.module.sessions.map (fun q => { q with challenge := none }) } }

/-- The rule of INSTALLER_SECRET (R516): the bytes written are replaced, and every challenge is void. -/
def State.setSecret (s : State) (offset : Nat) (data : List Byte) : State × Nat :=
  let old := s.module.creds.installerSecret
  let secret := old.take offset ++ data ++ old.drop (offset + data.length)
  ({ s with module := { s.module with creds := { s.module.creds with installerSecret := secret } } }.voidChallenges, 0x00)

/-- INSTALLER_SECRET (R516). -/
def execInstallerSecret (path : ReqPath) (secret : List Byte) (s : State) : Host.Outcome State Fault Refusal :=
  .next (s.writeRequest path 0x1100 0x03 0 secret (fun s => s.setSecret 0 secret))

/-- The outstanding challenge of a path. -/
def State.challengeOf (s : State) (p : ReqPath) : Option (List Byte) :=
  match p with
  | .mailbox => s.module.creds.challenge
  | .session id => (s.session id).bind (fun q => q.challenge)

/-- The challenge of a path replaced. -/
def State.setChallenge (s : State) (p : ReqPath) (ch : Option (List Byte)) : State :=
  match p with
  | .mailbox => { s with module := { s.module with creds := { s.module.creds with challenge := ch } } }
  | .session id => (match s.session id with
    | some q => s.setSession { q with challenge := ch }
    | none => s)

/-- Reads CHALLENGE: 32 fresh bytes, tied to the path (R514). -/
def State.newChallenge (s : State) (p : ReqPath) : List Byte × State :=
  let r := s.drawFree
  let ch := leBytes 32 (Config.fresh r.1)
  (ch, r.2.setChallenge p (some ch))

/-- CHALLENGE_EXPIRY (R514). -/
def execChallengeExpiry (path : ReqPath) (s : State) : Host.Outcome State Fault Refusal := .next (s.setChallenge path none)

/-- The response that a challenge calls for on a path (R514). -/
def State.authResponse (s : State) (p : ReqPath) (role : Nat) (challenge : List Byte) : List Byte :=
  let secret := if role = 1 then s.module.creds.installerSecret else s.module.creds.makerSecret
  kmac256 false secret (challenge ++ leBytes 8 Config.moduleSerial.toNat ++ leBytes 1 role ++ leBytes 1 (pathCode p)
    ++ leBytes 4 (pathSession p)) 32 (ascii "KLN-AUTH")

/-- Whether AUTHENTICATE is locked on the kind of a path (R515). -/
def Credentials.locked (k : Credentials) (p : ReqPath) : Bool :=
  match p with
  | .mailbox => k.mailboxLocked
  | .session _ => k.migerLocked

/-- Consecutive refusals on the kind of a path. -/
def Credentials.refusals (k : Credentials) (p : ReqPath) : Nat :=
  match p with
  | .mailbox => k.mailboxRefusals
  | .session _ => k.migerRefusals

/-- The count of refusals and the lockout of the kind of a path replaced. -/
def Credentials.setRefusals (k : Credentials) (p : ReqPath) (n : Nat) (locked : Bool) : Credentials :=
  match p with
  | .mailbox => { k with mailboxRefusals := n, mailboxLocked := locked }
  | .session _ => { k with migerRefusals := n, migerLocked := locked }

/-- The audit record of an AUTHENTICATE or a DROP (R517). -/
def State.auditPath (s : State) (p : ReqPath) (kind role : Nat) : State :=
  s.auditRecord none ⟨kind, role, pathCode p, 0, 0, 0, 0, 0, pathSession p, [], []⟩

/-- A refused AUTHENTICATE: AUTH_FAILURES, and the lockout after eight in a row (R514, R515). -/
def State.refuseAuth (s : State) (p : ReqPath) : State :=
  let s := s.bumpPort (odKey 0x1100 0x30)
  let k := s.module.creds
  if k.locked p then s
  else
    let n := k.refusals p + 1
    let s := { s with module := { s.module with creds := k.setRefusals p (if n = 8 then 0 else n) (n == 8) } }
    if n = 8 then (s.bumpPort (odKey 0x1100 0x31)).raisePort 0 0x00C4 (leBytes 1 (pathCode p)) else s

/-- Serves AUTHENTICATE on a path (R514, R515): the state, and the status. -/
def State.authenticate (s : State) (p : ReqPath) (data : List Byte) : State × Nat :=
  let role := fieldOf data 0 1
  let ch := s.challengeOf p
  let s := s.setChallenge p none
  let good : Bool := !s.module.creds.locked p && decide (data.length = 40) && (role == 1 || role == 2)
    && (match ch with
      | some ch => (data.drop 8) == s.authResponse p role ch
      | none => false)
  if good then
    let s := { s with module := { s.module with creds := s.module.creds.setRefusals p 0 false } }
    let s := (s.setRole p role).auditPath p 2 role
    (s.raisePort 0 0x00C3 (leBytes 1 (pathCode p) ++ leBytes 4 (pathSession p) ++ leBytes 1 role), 0x00)
  else ((s.refuseAuth p).auditPath p 3 (s.roleOf p), 0x07)

/-- AUTHENTICATE (R514). -/
def execAuthenticate (path : ReqPath) (data : List Byte) (s : State) : Host.Outcome State Fault Refusal :=
  .next (if !s.pathOpen path then s
    else
      let r := s.authenticate path data
      r.1.reply path r.2 0 0 0 [])

/-- AUTH_LOCKOUT_END (R515). -/
def execAuthLockoutEnd (mailbox : Bool) (s : State) : Host.Outcome State Fault Refusal :=
  .next { s with module := { s.module with creds :=
    if mailbox then { s.module.creds with mailboxLocked := false } else { s.module.creds with migerLocked := false } } }

/-- Serves DROP on a path (R430, R517). -/
def State.dropRole (s : State) (p : ReqPath) : State := (s.auditPath p 4 (s.roleOf p)).setRole p 0

/-- DROP (R430). -/
def execDrop (path : ReqPath) (s : State) : Host.Outcome State Fault Refusal :=
  .next (if !s.pathOpen path then s else (s.dropRole path).reply path 0x00 0 0 0 [])

/-! ### The audit log (R519) -/

/-- AUDIT_FLUSH (R519): the log of a channel, or of the port complex, is in flash. -/
def execAuditFlush (c : Option Chan) (s : State) : Host.Outcome State Fault Refusal :=
  .next (match c with
    | some c => if (s.chan c).up then s.onChan c (fun h => { h with audit := h.audit.flush auditSize }) else s
    | none => if s.module.on && s.module.alive then
        { s with module := { s.module with audit := s.module.audit.flush portAuditSize } }
      else s)

/-! ### Scan and debug (R521, R522) -/

/-- Whether a write of 1 to DEBUG_ENABLE is accepted (R521). -/
def Channel.mayDebug (h : Channel) : Bool := (h.power.state == .p1 || h.power.state == .p2) && h.free && h.fw.debugState == 0

/-- One more of the 16 DEBUG_COUNT fuses blown, if one is left (Table 18.1). Log entry 50. -/
def blowFuse (count : Nat) : Nat := if count < 16 then count + 1 else count

/-- Steps 2 to 5 of Table 18.9. Log entry 50. -/
def State.openDebug (s : State) (c : Chan) : State :=
  let s := s.onChan c (fun h => { h with fw := { h.fw with debugState := 1 } })
  let s := s.cutSupply c
  let s := s.onChan c (fun h => { h with
    mem := [], storeErr := [], attest := ⟨List.replicate 32 0#8, false, none⟩, training := Training.reset,
    coll := Collective.reset, safety := Safety.reset, selfTest := none,
    slotA := { h.slotA with ledgerDigest := [] }, slotB := { h.slotB with ledgerDigest := [] } })
  let s := s.enterSafe c 6
  let s := s.onChan c (fun h => { h with
    power := { h.power with safeCause := 6 },
    fw := { h.fw with debugState := 2, keys := none, debugCount := blowFuse h.fw.debugCount } })
  s.raise c 0x00C7 (leBytes 1 (s.chan c).fw.debugCount)

/-- The rule of DEBUG_ENABLE (R521, R523, Table 18.9); `role` and `path` go into the record of KIND 6. Log entry 50. -/
def State.setDebug (s : State) (p : ReqPath) (c : Chan) (v : Nat) : State × Nat :=
  let h := s.chan c
  if v = 0 then (s, 0x00)
  else if 16 ≤ h.fw.debugCount then (s, 0x03)
  else if !h.mayDebug then (s, 0x05)
  else
    let s := if h.attest.signing then s.signReport c else s
    let s := s.auditRecord (some c) ⟨6, s.roleOf p, pathCode p, 0, 0x1110 + c.val, 0x03, 0, 1, pathSession p, leBytes 4 1, []⟩
    let s := (s.signChannel c).onChan c (fun h => { h with audit := h.audit.flush auditSize })
    ((s.setEnt (odKey (0x1110 + c.val) 0x03) 1).openDebug c, 0x00)

/-- DEBUG_ENABLE (R521). -/
def execDebugEnable (path : ReqPath) (c : Chan) (value : Byte) (s : State) : Host.Outcome State Fault Refusal :=
  .next (let index := 0x1110 + c.val
    (s.writeScalar path index 0x03 1 value.toNat (fun s => s.setDebug path c value.toNat)).watchDegraded s)

/-! ### Self-test on demand (R537 to R540) -/

/-- Bytes that a native test of a region saves (Table 19.5); none of a code that names no region. -/
def regionBytes (region : Nat) : Option Nat :=
  if 0x01 ≤ region ∧ region ≤ 0x10 then some 0x200000
  else if 0x20 ≤ region ∧ region ≤ 0x2F then some 0x1000000
  else if region = 0x30 then some 0x100000
  else if region = 0x31 then some 0x400000
  else if region = 0x32 then some 0x800000
  else if region = 0x40 ∨ region = 0x41 then some 0
  else none

/-- Whether a test is accepted (R537). -/
def State.mayTest (s : State) (c : Chan) (region : Nat) (compat : Bool) : Bool :=
  let h := s.chan c
  let slotTest := region == 0x40 || region == 0x41
  (regionBytes region).isSome && h.power.state == .p1 && !h.safe && h.selfTest.isNone
    && (slotTest || s.ent (kFw c 0x38) != 0) && (region != 0x31 || h.groups.isEmpty)
    && (!slotTest || (h.slot (region - 0x40)).status == 3)
    && (!compat || (!h.anyEnabled && h.training.program.isNone && !slotTest))

/-- The code of SELF_TEST_RESULT (Table 19.7). -/
def testCode (result region : Nat) (compat : Bool) : Nat := result + region * 256 + (if compat then 65536 else 0)

/-- Copies a region into SELF_TEST_SAVE_AREA (R538, phase 1): the bytes of a store slice; of a region without addresses what is
copied is not stated (log entry 32). The state after it, and the digest of the copy. -/
def State.saveRegion (s : State) (c : Chan) (region : Nat) : State × List Byte :=
  let n := (regionBytes region).getD 0
  let r := s.drawFree
  let bytes := if 0x20 ≤ region ∧ region < 0x30 then (s.chan c).bytes (storeBase + 0x1000000 * (region - 0x20)) n
    else leBytes n (Config.fresh r.1)
  (r.2.onChan c (fun h => h.write (s.ent (kFw c 0x38)) bytes), shake256 bytes 64)

/-- The rule of SELF_TEST_COMMAND (R537, R538). Log entry 49. -/
def State.startTest (s : State) (c : Chan) (v : Nat) : State × Nat :=
  let region := v % 256
  let compat := v.testBit 8
  if !s.mayTest c region compat then
    ((s.setEnt (kFw c 0x35) (testCode 3 region compat)).setEnt (kFw c 0x37) (s.chan c).clock.timebase.toNat, 0x05)
  else
    let r := if compat then (s, []) else s.saveRegion c region
    ((r.1.setEnt (kFw c 0x34) 2).onChan c (fun h => { h with selfTest := some ⟨region, compat, r.2⟩ }), 0x00)

/-- SELF_TEST_COMMAND (R537). -/
def execSelfTestCommand (path : ReqPath) (c : Chan) (value : Half) (s : State) : Host.Outcome State Fault Refusal :=
  .next (let index := 0x7100 + 0x100 * c.val
    s.writeScalar path index 0x33 2 value.toNat (fun s => s.startTest c value.toNat))

/-- A region as a K2-compatibility test leaves it (Table 19.5). -/
def State.reinitRegion (s : State) (c : Chan) (region : Nat) : State :=
  if 0x20 ≤ region ∧ region ≤ 0x2F then
    s.onChan c (fun h => { h with mem := memClear h.mem (storeBase + 0x1000000 * (region - 0x20)) 0x1000000 })
  else if region = 0x30 then s.onArrays c (fun a => { a with deferred := [] })
  else if region = 0x31 then s.onChan c (fun h => { h with net := { h.net with tx := [], rx := [] } })
  else if region = 0x32 then
    s.onChan c (fun h => { h with
      arrays := Arrays.reset,
      slotA := if h.slotA.attached then h.slotA.rebuild true else h.slotA,
      slotB := if h.slotB.attached then h.slotB.rebuild true else h.slotB })
  else s

/-- SELF_TEST_COMPLETE (R538, R540): `failUnit` is the first failing unit, `restored` whether the digests agree.
Log entry 49. -/
def execSelfTestComplete (c : Chan) (failUnit : Option Nat) (restored : Bool) (s : State) : Host.Outcome State Fault Refusal :=
  .next (match (s.chan c).selfTest with
    | none => s
    | some t =>
      let result := if failUnit.isSome then 1 else if !t.compat && !restored then 2 else 0
      let unit := failUnit.getD 0
      let r := s.drawFree
      let u := r.2.onChan c (fun h => { (if result = 2 then h.spoilRegion t.region r.1 else h) with selfTest := none })
      let u := if t.compat then u.reinitRegion c t.region else u
      let u := (u.setEnt (kFw c 0x34) 0).setEnt (kFw c 0x35) (testCode result t.region t.compat)
      let u := (u.setEnt (kFw c 0x36) unit).setEnt (kFw c 0x37) (s.chan c).clock.timebase.toNat
      let u := u.bump c (kFw c 0x24)
      let u := if result = 0 then u else u.bump c (kFw c 0x25)
      let u := u.raise c 0x00D2 (leBytes 1 t.region ++ leBytes 1 (if t.compat then 1 else 0) ++ leBytes 1 result
        ++ leBytes 4 unit)
      if result = 0 then u else (u.enterSafe c 4).watchDegraded s)

end Sys2Proof.Machine
end

