-- ==== Sys2Proof/Machine/Entries.lean ====
section
/-!
DEFINITION. What the entries of the object dictionary read as: the values that are computed or held outside the dictionary's
map, and the bytes of STR, DOMAIN and KEY entries (17 R475 to R478, R481; the entry tables of every chapter).
-/

namespace Sys2Proof.Machine

/-! ### Bytes of records -/

/-- Bytes `offset` to `offset + n − 1` of a table whose records have `size` bytes. -/
def recordBytes (size : Nat) (record : Nat → List Byte) (offset n : Nat) : List Byte :=
  (List.range n).map (fun k => (record ((offset + k) / size)).getD ((offset + k) % size) 0#8)

/-- A string held as a number: its bytes, and a byte 1 after them. -/
def stringOf (v : Nat) : List Byte := leBytes (Nat.log2 v / 8) v

/-- The number that holds a string. -/
def stringCode (bytes : List Byte) : Nat := leNat (bytes ++ [1#8])

/-- One byte of UTF-8 after the state: continuation bytes to come and the bounds of the next; none is ill-formed. -/
def utf8Step (st : Option (Nat × Nat × Nat)) (byte : Byte) : Option (Nat × Nat × Nat) :=
  let b := byte.toNat
  match st with
  | none => none
  | some (0, _, _) =>
    if b < 0x80 then some (0, 0, 0)
    else if 0xC2 ≤ b ∧ b ≤ 0xDF then some (1, 0x80, 0xBF)
    else if b = 0xE0 then some (2, 0xA0, 0xBF)
    else if b = 0xED then some (2, 0x80, 0x9F)
    else if 0xE1 ≤ b ∧ b ≤ 0xEF then some (2, 0x80, 0xBF)
    else if b = 0xF0 then some (3, 0x90, 0xBF)
    else if 0xF1 ≤ b ∧ b ≤ 0xF3 then some (3, 0x80, 0xBF)
    else if b = 0xF4 then some (3, 0x80, 0x8F)
    else none
  | some (k + 1, lo, hi) => if lo ≤ b ∧ b ≤ hi then some (k, 0x80, 0xBF) else none

/-- Whether bytes are UTF-8 (Table 17.1). Log entry 44. -/
def utf8Ok (bytes : List Byte) : Bool :=
  match bytes.foldl utf8Step (some (0, 0, 0)) with
  | some (0, _, _) => true
  | _ => false

/-! ### Areas -/

/-- The base index of an index's area, and its channel, slot or 256 × channel + port. -/
def odArea (index : Nat) : Nat × Nat :=
  if 0x5800 ≤ index ∧ index < 0x5C00 then (0x5800, index - 0x5800)
  else match odTable.findSome? (fun r => (r.owner index).map (fun u => (r.index, u))) with
    | some a => a
    | none => (index, 0)

/-- Bit `k` of a number where a condition holds. -/
def bitIf (k : Nat) (b : Bool) : Nat := if b then 2 ^ k else 0

/-! ### Values of module entries -/

/-- CHANNEL_STATES and CHANNEL_SUMMARY: POWER_STATE of each channel in four bits (Table 14.2). -/
def State.channelStates (s : State) : Nat :=
  ([0, 1, 2, 3] : List Chan).foldl (fun v c => v + (s.chan c).power.state.toNat * 2 ^ (4 * c.val)) 0

/-- A version range in the layout of Table 15.4, narrowed to its highest with MIXED_VERSION 0 (R446). -/
def State.versionRange (s : State) (set : List Byte) (offset : Nat) : Nat :=
  let low := fieldOf set offset 2
  let high := fieldOf set (offset + 2) 2
  (if s.ent (odKey 0x8000 0x01) = 0 then high else low) + high * 65536

/-- SET_VERSION of the inactive bank; 0 when it is not verified (Tables 15.8 and 15.9). -/
def Firmware.inactiveVersion (f : Firmware) : Nat :=
  let b := f.bank (1 - f.active)
  if b.verified then setVersion b.image else 0

/-- POWER_COMMAND as it reads: the last accepted target, and IN_TRANSITION in bit 3 (R454). -/
def Power.commandByte (p : Power) : Nat := p.target.toNat + bitIf 3 p.inTransition

/-! ### Values of channel entries -/

/-- LIMIT_STATUS (Table 16.7). -/
def State.limitStatus (s : State) (c : Chan) : Nat :=
  let p := (s.chan c).power
  let cur := s.module.currentThrottle.f
  let acting := bitIf 0 (decide (s.ent (kPow c 0x03) < s.ent (kPow c 0x01))) + bitIf 1 (decide (p.junction.f < 16))
    + bitIf 2 (decide (p.slotThrottle0.f < 16) || decide (p.slotThrottle1.f < 16)) + bitIf 3 (decide (cur < 16))
  p.slotThrottle1.f * 2 ^ 24 + min p.junction.f cur * 2 ^ 16 + p.slotThrottle0.f * 2 ^ 8 + p.tripped.toNat * 16 + acting

/-- A tile directory entry as its 64-bit word (Table 4.4); WEIGHT_VERSION of a tile never programmed here is the factory's. -/
def Channel.entryWord (h : Channel) (e : Nat) : Nat :=
  let d := h.entry e
  let y := h.slot (e / slotEntries)
  let tile := h.tileOf e
  let version := match h.header e with
    | some t => t.weightVersion
    | none => Config.factoryVersion y.cart tile
  let held := if y.attached then min (y.count tile) 262143 * 2 ^ 37 + version.toNat * 2 ^ 29
      + (mget CalRecord.blank tile y.cal).calTemp % 1024 * 2 ^ 19
    else 0
  d.state.toNat * 2 ^ 61 + bitIf 60 d.relapse + bitIf 59 d.pairValid + d.pair % 16 * 2 ^ 55 + held
    + e / slotEntries % 2 * 2 ^ 18 + tile

/-- Entries of a channel in a state (STATE_CENSUS). -/
def Channel.census (h : Channel) (code : Nat) : Nat :=
  ((List.range (2 * slotEntries)).filter (fun e => (h.entry e).state.toNat == code)).length

/-- Entries of a slot in a state. -/
def Channel.slotCensus (h : Channel) (side code : Nat) : Nat :=
  ((List.range slotEntries).filter (fun i => (h.entry (side * slotEntries + i)).state.toNat == code)).length

/-- A calibration record as its 1,040 bytes (Tables 6.1 and 6.2). -/
def SlotState.calBytes (y : SlotState) (tile : Nat) : List Byte :=
  let r := mget CalRecord.blank tile y.cal
  let column := fun (j : Nat) =>
    let k := r.columns.getD j (0, 0)
    leBytes 4 ((k.1 % 4096).toNat * 2 ^ 20 + (k.2 % 1024).toNat * 2 ^ 10)
  leBytes 8 ((Config.refExpected y.cart tile).toNat * 2 ^ 48 + r.residual % 256 * 2 ^ 40 + r.calTemp % 1024 * 2 ^ 30
      + r.result % 4 * 2 ^ 28 + min r.count (2 ^ 28 - 1))
    ++ ((List.range 258).map column).flatten

/-- The forecast of R170 as it stood at the last powered hour; a figure that U32 does not hold is none (log entry 36). -/
def SlotState.forecast (y : SlotState) (threshold : Nat) : Option Nat :=
  let total := y.ledgerTotal - y.hourNow
  let q := y.hours.foldl (· + ·) 0
  if threshold ≤ total then some 0
  else if q = 0 ∨ y.hoursCovered = 0 then some 0xFFFFFFFF
  else
    let v := (threshold - total) * y.hoursCovered / q
    if v < 2 ^ 32 then some v else none

/-- Calibration records of a slot's tiles calibrated at least once. -/
def SlotState.calibrated (y : SlotState) : List CalRecord := (y.cal.map (·.2)).filter (fun r => decide (0 < r.count))

/-- A quotient as an F32 word. -/
def f32Quot (n : Int) (d : Nat) : Nat := w32 (Fp.divRound fp32 .nearest (Fp.ofInt n) (Fp.ofInt d))

/-- What a slot's entry reads as (Tables 5.8, 6.4 and 18.13); none where the spec states no value: a figure of a cartridge while
the socket is empty, or of no calibrated tile (log entry 36). -/
def Channel.slotValue (h : Channel) (side sub : Nat) : Option Nat :=
  let y := h.slot side
  let ofCart := fun (v : Nat) => if y.present then some v else none
  match sub with
  | 0x01 => ofCart y.ledgerTotal
  | 0x02 => some cartridgeRating
  | 0x03 => some tileRating
  | 0x04 => ofCart (1000 * y.ledgerTotal / cartridgeRating % 65536)
  | 0x05 => ofCart y.thresholds
  | 0x06 => ofCart (y.hours.foldl (· + ·) 0)
  | 0x07 => ofCart y.hoursCovered
  | 0x08 => if y.present then y.forecast 20971520000 else none
  | 0x09 => if y.present then y.forecast 24903680000 else none
  | 0x0A => if y.present then y.forecast 26214400000 else none
  | 0x0B => some (h.slotCensus side 6)
  | 0x0C => some (h.slotCensus side 7)
  | 0x0D => ofCart ((List.range slotEntries).foldl (fun m t => max m (y.count t)) 0)
  | 0x0E => ofCart y.poweredHours
  | 0x0F => some y.status
  | 0x10 => some (match y.temp with
    | some t => f32Quot t 8
    | none => w32 .nan)
  | 0x11 =>
    let l := y.calibrated
    if l.isEmpty then none else some (f32Quot (l.foldl (fun a r => a + r.residual) 0) (32 * l.length))
  | 0x12 =>
    let l := y.calibrated
    if l.isEmpty then none else some (f32Quot (l.foldl (fun a r => max a r.residual) 0) 32)
  | 0x13 => ofCart (y.calibrated.filter (fun r => decide (2 ≤ r.result))).length
  | 0x14 => some y.lastSweepEnd.toNat
  | _ => some (if y.triggerLost then 1 else 0)

/-- Granules that live stashed tensors hold (STASH_IN_USE). -/
def Training.inUse (t : Training) : Nat := t.stash.foldl (fun a k => if k.dropped then a else a + k.granules) 0

/-- What a group entry reads as (Table 11.8); none where no value is stated: the figures of a FREE group (log entry 36). -/
def State.groupValue (s : State) (c : Chan) (sub : Nat) : Option Nat :=
  let h := s.chan c
  let sel := s.ent (kGrp c 0x02)
  match sub with
  | 0x01 => some h.groups.length
  | 0x03 => some (((h.comm sel).map Group.stateWord).getD 0)
  | 0x04 => (h.comm sel).map (fun g => g.epoch.toNat)
  | 0x05 => (h.comm sel).map (fun g => g.features % 65536)
  | 0x06 => (h.comm sel).map (fun g => g.members.length)
  | 0x07 => (h.comm sel).map (fun g => g.rank)
  | 0x08 => some (mget 0 sel h.refusals)
  | _ => some (s.ent (kGrp c sub))

/-- What a port entry reads as (Table 10.14); RTT_NS before a first exchange is not stated (log entry 36). -/
def State.portValue (s : State) (c : Chan) (p sub : Nat) : Option Nat :=
  let l := (s.chan c).link p
  match sub with
  | 0x10 => l.peer.map (fun k => k.rttNs % 2 ^ 32)
  | 0x11 => some ((l.peer.map Capability.peerWord).getD 0)
  | 0x12 => some l.ser.toNat
  | _ => some (s.ent (kPort c p sub))

/-- What a link entry of a channel reads as (Table 10.13). -/
def State.linkValue (s : State) (c : Chan) (sub : Nat) : Nat :=
  if 0x01 ≤ sub ∧ sub ≤ 0x2A then s.planOf c (sub - 1)
  else if 0x41 ≤ sub ∧ sub ≤ 0x6A then
    let l := (s.chan c).link (sub - 0x41)
    l.state % 16 + l.version % 16 * 16 + l.reason % 256 * 256
  else s.ent (kLink c sub)

/-- What an entry of the arrays of a channel reads as (Tables 4.7, 5.7 and 6.3). -/
def State.arrayValue (s : State) (c : Chan) (sub : Nat) : Nat :=
  let h := s.chan c
  if 0x01 ≤ sub ∧ sub ≤ 0x08 then h.census (sub - 1)
  else if sub = 0x54 then h.arrays.folds.length
  else if sub = 0x55 then h.arrays.layers.length
  else if sub = 0x62 then ((List.range (2 * slotEntries)).filter (fun e => s.calDue c e)).length
  else s.ent (kArr c sub)

/-- What an entry of the firmware area of a channel reads as (Tables 15.9 and 19.7). -/
def State.fwValue (s : State) (c : Chan) (sub : Nat) : Nat :=
  let f := (s.chan c).fw
  let set := (f.bank f.active).image
  match sub with
  | 0x01 => f.active
  | 0x02 => setVersion set
  | 0x03 => f.inactiveVersion
  | 0x04 => f.securityMin
  | 0x05 => s.versionRange set 12
  | 0x06 => s.versionRange set 16
  | 0x07 => s.versionRange set 20
  | 0x13 => f.state
  | 0x14 => f.result
  | 0x32 => (s.chan c).power.safeCause
  | _ => s.ent (kFw c sub)

/-- What a scalar entry reads as on a path; none where the value is not stated or is a measurement, and is free.
Log entry 36. -/
def State.entryStated (s : State) (p : ReqPath) (index sub : Nat) : Option Nat :=
  let a := odArea index
  let c : Chan := Fin.ofNat 4 a.2
  let h := s.chan c
  let held := s.ent (odKey index sub)
  if sub = 0 then some (odTopSub index)
  else match a.1 with
    | 0x1000 => some (match sub with
      | 0x03 => Config.moduleSerial.toNat
      | 0x04 => Config.boardIssue.toNat
      | 0x05 => Config.manufactureDate.toNat
      | 0x06 => Config.fieldMac.toNat % 2 ^ 48
      | _ => s.channelStates)
    | 0x1010 => (match sub with
      | 0x06 => some s.module.sessions.length
      | 0x07 => none
      | _ => some held)
    | 0x1100 => some (match sub with
      | 0x01 => s.roleOf p
      | 0x15 => s.module.fw.securityMin
      | 0x16 => s.module.fw.revoked
      | 0x21 => s.module.audit.head.toNat
      | _ => held)
    | 0x1110 => some (match sub with
      | 0x02 => h.fw.revoked
      | 0x04 => h.fw.debugState
      | 0x05 => h.fw.debugCount
      | 0x06 => h.fw.bootState
      | 0x21 => h.audit.head.toNat
      | _ => held)
    | 0x1120 =>
      let y := (s.chan (Fin.ofNat 4 (a.2 / 2))).slot (a.2 % 2)
      (match sub with
        | 0x02 => if y.present && y.authResult != 0 then some y.serial.toNat else none
        | _ => some y.authResult)
    | 0x2000 => (match sub with
      | 0x02 => none
      | 0x06 => some (s.limitStatus c)
      | 0x07 => some (f32Ratio h.power.junctionTemp 8)
      | 0x08 => none
      | _ => some held)
    | 0x2800 =>
      if 0x01 ≤ sub ∧ sub ≤ 0x04 then some (s.chan (Fin.ofNat 4 (sub - 1))).power.commandByte
      else (match sub with
        | 0x10 => none
        | 0x11 => some (f32Ratio s.module.inputMilliamp 1000)
        | _ => some held)
    | 0x4010 => (s.chan (Fin.ofNat 4 (a.2 / 2))).slotValue (a.2 % 2) sub
    | 0x4100 => some (s.arrayValue c sub)
    | 0x5000 => some (if sub = 0x02 then (if s.degraded then 1 else 0) else held)
    | 0x5010 => s.groupValue c sub
    | 0x5020 => some (match sub with
      | 0x05 => h.coll.phase
      | 0x06 => h.coll.plans.length
      | 0x07 => h.coll.slots.length
      | _ => held)
    | 0x5100 => some (s.linkValue c sub)
    | 0x5800 => s.portValue (Fin.ofNat 4 (a.2 / 256)) (a.2 % 256) sub
    | 0x6100 => some (match sub with
      | 0x42 => h.training.inUse
      | 0x44 => h.training.weights.length
      | _ => held)
    | 0x7000 => some (match sub with
      | 0x01 => setVersion (s.module.fw.bank s.module.fw.active).image
      | 0x02 => s.module.fw.inactiveVersion
      | _ => s.module.fw.state)
    | 0x7100 => some (s.fwValue c sub)
    | _ => some held

/-- The measurement that a scalar entry reads as, or a free value (log entries 6 and 36): `n` numbers it. -/
def entryMeasured (index sub n : Nat) : Nat :=
  let a := odArea index
  let c := a.2 % 4
  match a.1, sub with
  | 0x2000, 0x02 => Config.coreVoltageNow n c
  | 0x2000, 0x08 => f32Quot (Config.branchPower n c) 1
  | 0x2800, 0x10 => (Config.inputVoltage n).toNat
  | 0x1010, 0x07 => Config.fresh n % 8
  | _, _ => Config.fresh n

/-- What a scalar entry reads as, and the state after the read. Log entry 36. -/
def State.entryValue (s : State) (p : ReqPath) (index sub : Nat) : Nat × State :=
  match s.entryStated p index sub with
  | some v => (v, s)
  | none =>
    let r := s.drawFree
    (entryMeasured index sub r.1, r.2)

/-! ### STR, DOMAIN and KEY entries -/

/-- FLAGS of a directory record (Table 17.4). -/
def OdRow.flags (r : OdRow) : Nat :=
  bitIf 0 r.persistent + bitIf 1 (servedBy r.index == some none) + bitIf 2 (decide (r.stride ≠ 0) || r.index == 0x5800)

/-- The record of an entry (Table 17.4). -/
def directoryRecord (index sub ty : Nat) (access : Nat × Nat × Nat) (flags : Nat) : List Byte :=
  leBytes 2 index ++ leBytes 1 sub ++ leBytes 1 ty ++ leBytes 1 access.1 ++ leBytes 1 access.2.1 ++ leBytes 1 access.2.2
    ++ leBytes 1 flags

/-- Indices that DIRECTORY lists: those of channel 0 and slot 0, ascending (Table 17.2). Log entry 37. -/
def directoryIndices : List Nat :=
  [0x1000, 0x1010, 0x1100, 0x1110, 0x1120, 0x2000, 0x2800, 0x3000, 0x4010, 0x4100, 0x5000, 0x5010, 0x5020, 0x5030, 0x5100]
    ++ (List.range 42).map (fun p => 0x5800 + p) ++ [0x5C00, 0x6100, 0x7000, 0x7100, 0x8000]

/-- DIRECTORY: every entry, subindex 0 of each index among them, ascending (Table 17.3; log entry 37). -/
def directoryBytes : List Byte :=
  directoryIndices.flatMap (fun index =>
    (List.range 256).flatMap (fun sub =>
      match odFind index sub with
      | some r => directoryRecord index sub r.ty r.access r.flags
      | none =>
        if sub = 0 then
          directoryRecord index 0 2 (1, 1, 1) (((odTable.find? (fun r => (r.owner index).isSome)).map
            (fun r => r.flags - r.flags % 2)).getD 0)
        else []))

/-- The record of an audit log's ring at a place: 48 bytes, zero where none was written (R518). -/
def AuditLog.slotBytes (l : AuditLog) (i : Nat) : List Byte :=
  match mget none i l.records with
  | some (q, r) => r.body (BitVec.ofNat 32 q) ++ (r.chain ++ List.replicate 12 0#8).take 12
  | none => List.replicate 48 0#8

/-- An entry of the block uplink table as its word (Table 11.2). -/
def Uplink.word (u : Uplink) : Nat :=
  2 ^ 31 + u.remote % 1024 * 2 ^ 21 + u.position % 32 * 2 ^ 9 + u.channel % 4 * 2 ^ 7 + u.port % 8 * 2 ^ 4

/-- Bytes of a list from an offset, zero beyond its end. -/
def pieceOf (l : List Byte) (offset n : Nat) : List Byte := (List.range n).map (fun k => l.getD (offset + k) 0#8)

/-- The whole length of a STR, DOMAIN or KEY entry. -/
def State.wholeLength (s : State) (index sub : Nat) : Nat :=
  let a := odArea index
  match a.1, sub with
  | 0x1000, 0x01 => 16
  | 0x1000, 0x02 => 8
  | 0x1000, 0x08 => (stringOf (s.ent (odKey 0x1000 0x08))).length
  | 0x1000, 0x20 => directoryBytes.length
  | 0x1100, 0x10 => (certificateOf 0x1100 0 0x10).length
  | 0x1100, 0x11 => (certificateOf 0x1100 0 0x11).length
  | 0x1100, 0x12 => (certificateOf 0x1100 0 0x12).length
  | 0x1100, 0x13 => (certificateOf 0x1100 0 0x13).length
  | 0x1110, 0x01 => (certificateOf 0x1110 a.2 0x01).length
  | 0x1120, 0x01 => ((s.chan (Fin.ofNat 4 (a.2 / 2))).slot (a.2 % 2)).certificate.length
  | 0x5030, 0x07 => 4 * (s.chan (Fin.ofNat 4 a.2)).safety.lostRanks.length
  | _, _ => entryLength index sub 9

/-- A string as bytes. -/
def vendorName : List Byte := ascii "Abawegor Devices"

/-- PART_NUMBER (Table 17.3). -/
def partNumber : List Byte := ascii "KLN-3240"

/-- `n` bytes from `offset` of a STR, DOMAIN or KEY entry that reads may reach. -/
def State.domainPiece (s : State) (index sub offset n : Nat) : List Byte :=
  let a := odArea index
  let c : Chan := Fin.ofNat 4 a.2
  let h := s.chan c
  let y := (s.chan (Fin.ofNat 4 (a.2 / 2))).slot (a.2 % 2)
  match a.1, sub with
  | 0x1000, 0x01 => pieceOf vendorName offset n
  | 0x1000, 0x02 => pieceOf partNumber offset n
  | 0x1000, 0x08 => pieceOf (stringOf (s.ent (odKey 0x1000 0x08))) offset n
  | 0x1000, 0x20 => pieceOf directoryBytes offset n
  | 0x1100, 0x20 => recordBytes 48 s.module.audit.slotBytes offset n
  | 0x1100, 0x22 => pieceOf s.module.audit.checkpoint offset n
  | 0x1100, _ => pieceOf (certificateOf 0x1100 0 sub) offset n
  | 0x1110, 0x10 => pieceOf h.attest.nonce offset n
  | 0x1110, 0x11 => pieceOf (h.attest.report.getD []) offset n
  | 0x1110, 0x20 => recordBytes 48 h.audit.slotBytes offset n
  | 0x1110, 0x22 => pieceOf h.audit.checkpoint offset n
  | 0x1110, _ => pieceOf (certificateOf 0x1110 a.2 sub) offset n
  | 0x1120, 0x01 => pieceOf y.certificate offset n
  | 0x1120, _ => pieceOf y.ledgerDigest offset n
  | 0x4100, 0x40 => recordBytes 8 (fun e => leBytes 8 (h.entryWord e)) offset n
  | 0x4100, _ =>
    let t := s.ent (kArr c 0x63)
    pieceOf ((h.slot (t / slotEntries)).calBytes (t % slotEntries)) offset n
  | 0x5010, _ => recordBytes 4 (fun i => leBytes 4 ((h.net.uplinks[i]?.map Uplink.word).getD 0)) offset n
  | 0x5020, _ => pieceOf (s.lastCommit c) offset n
  | 0x5030, _ => pieceOf (h.safety.lostRanks.flatMap (fun r => leBytes 4 r)) offset n
  | 0x6100, _ => h.training.readWatches offset n
  | _, _ => List.replicate n 0#8

/-! ### Serving a read -/

/-- What a read of an entry that the role may read answers: status, whole length, data, and the state after it (R477, R478). -/
def State.readEntry (s : State) (p : ReqPath) (r : OdRow) (index sub offset length : Nat) : Nat × Nat × List Byte × State :=
  let hidden : Bool := r.code (s.roleOf p) == 3
  if r.ty < 8 then
    let n := odSize r.ty
    if offset ≠ 0 then (0x03, n, [], s)
    else if length ≠ n then (0x06, n, [], s)
    else if hidden then (0x00, n, List.replicate n 0#8, s)
    else
      let v := s.entryValue p index sub
      (0x00, n, leBytes n v.1, v.2)
  else
    let whole := s.wholeLength index sub
    let offset := if r.ty = 8 then 0 else offset
    let n := if r.ty = 8 then whole else min length (whole - offset)
    if whole < offset then (0x03, whole, [], s)
    else if hidden then (0x00, whole, List.replicate n 0#8, s)
    else if r.index = 0x1110 ∧ sub = 0x11 ∧ (s.chan (Fin.ofNat 4 (index - 0x1110))).attest.report.isNone then (0x05, whole, [], s)
    else if index = 0x1100 ∧ sub = 0x02 then
      let ch := s.newChallenge p
      (0x00, whole, pieceOf ch.1 offset n, ch.2)
    else (0x00, whole, s.domainPiece index sub offset n, s)

/-- A request to read: checked, served and answered. Log entry 44. -/
def State.readRequest (s : State) (p : ReqPath) (index sub offset length : Nat) : State :=
  let k := s.requestCheck p false index sub length
  match k.2 with
  | some r =>
    if k.1 ≠ 0 then s.reply p k.1 r.ty 0 offset []
    else
      let v := s.readEntry p r index sub offset length
      v.2.2.2.reply p v.1 r.ty v.2.1 offset v.2.2.1
  | none => s.reply p k.1 0 0 offset []

end Sys2Proof.Machine
end

