-- ==== Sys2Proof/Machine/Dictionary.lean ====
section
/-!
DEFINITION. Writes of the object dictionary, the rule of every writable entry, and the requests of both paths
(14 R428 to R432; 17 R475 to R479, R489, R490; 18 R514).
-/

namespace Sys2Proof.Machine

/-! ### Rules of entries -/

/-- An accepted write that stores its value. -/
def State.keep (s : State) (index sub v : Nat) : State × Nat := (s.storeEnt index sub v, 0x00)

/-- Whether a value is an aligned address of `n` bytes in HBM. Log entry 44. -/
def areaOk (align n v : Nat) : Bool := v % align == 0 && inHbm v n

/-- Whether the fields of OPEN_WIRE_MODE are modes of R470. -/
def openWireOk (v : Nat) : Bool := (List.range 6).all (fun i => decide (v / 2 ^ (3 * i) % 8 ≤ 4))

/-- A write of 1 bits to a W1C entry (Table 0.3). Log entry 55. -/
def State.clearBits (s : State) (key v : Nat) : State := s.setEnt key (s.ent key - (s.ent key &&& v))

/-- A write to a counter: with zero its overflow bit clears too (R15, R138). Log entry 55. -/
def State.writeCounter (s : State) (key v : Nat) : State :=
  let s := s.setEnt key (min v (odCounterMax key))
  match odOverflow key with
  | some (ov, bit) => if v = 0 then s.clearBits ov (2 ^ bit) else s
  | none => s

/-- Whether an entry is a counter: an RW U64 or U32 entry that has an overflow bit (R14). -/
def OdRow.isCounter (r : OdRow) (key : Nat) : Bool :=
  r.access == (2, 2, 2) && (match odOverflow key with
    | some (ov, _) => decide (ov < key) && (odFind (ov / 256) (ov % 256)).any (fun q => q.access == (4, 4, 4))
        && (r.ty == 5 || r.ty == 4)
    | none => false)

/-- A write of an entry whose table states no rule of its own. -/
def State.plainWrite (s : State) (index sub v : Nat) : State × Nat :=
  let key := odKey index sub
  match odFind index sub with
  | some r =>
    if r.access == (4, 4, 4) then (s.clearBits key v, 0x00)
    else if r.isCounter key then (s.writeCounter key v, 0x00)
    else s.keep index sub v
  | none => (s, 0x01)

/-- The rule of LIMIT_STATUS: ones in [7:4] clear TRIPPED (Table 16.7). -/
def State.clearTripped (s : State) (c : Chan) (v : Nat) : State × Nat :=
  (s.onPower c (fun p => { p with tripped := p.tripped &&& ~~~(BitVec.ofNat 4 (v / 16)) }), 0x00)

/-- The rule of the metrology settings (R468, R470, Table 16.11). -/
def State.setMetrology (s : State) (index sub v : Nat) : State × Nat :=
  let ok : Bool := match sub with
    | 0x01 => v == 50 || v == 60
    | 0x02 => v == 1 || v == 2 || v == 5 || v == 10
    | 0x04 => openWireOk v
    | _ => true
  if ok then s.plainWrite index sub v else (s, 0x03)

/-- The rule of FOLD_STAGING_BASE (Table 5.7): written only while no layer is registered. -/
def State.setStaging (s : State) (c : Chan) (v : Nat) : State × Nat :=
  if !areaOk 65536 0x10000000 v then (s, 0x03)
  else if !(s.chan c).arrays.layers.isEmpty then (s, 0x05)
  else s.keep (0x4100 + 0x100 * c.val) 0x53 v

/-- The rule of RINGMASTER_HEARTBEAT and RINGMASTER_TIMEOUT: the timeout is at least three heartbeats (Table 11.8).
Log entry 44. -/
def State.setHeartbeat (s : State) (c : Chan) (sub v : Nat) : State × Nat :=
  let beat := if sub = 0x10 then v else s.ent (kGrp c 0x10)
  let timeout := if sub = 0x11 then v else s.ent (kGrp c 0x11)
  if timeout < 3 * beat then (s, 0x03) else s.keep (0x5010 + c.val) sub v

/-- The rule of COMMIT_GROUP, COMMIT_AREA and SLOT_AREA (R375). -/
def State.setUpdate (s : State) (c : Chan) (sub v : Nat) : State × Nat :=
  let ok : Bool := match sub with
    | 0x02 => areaOk 256 512 v
    | 0x03 => areaOk 65536 0x2000000 v
    | _ => true
  if !ok then (s, 0x03)
  else if (s.chan c).training.program.isSome || !(s.chan c).coll.plans.isEmpty then (s, 0x05)
  else s.keep (0x5020 + c.val) sub v

/-- The rule of REBUILD_AREA (R400). -/
def State.setRebuild (s : State) (c : Chan) (v : Nat) : State × Nat :=
  if !areaOk 65536 0x28000000 v then (s, 0x03)
  else if !(s.chan c).groups.isEmpty then (s, 0x05)
  else s.keep (0x5030 + c.val) 0x09 v

/-- The rule of NUMERICS_MODE (R284). -/
def State.writeNumerics (s : State) (c : Chan) (v : Nat) : State × Nat :=
  if (s.chan c).numericsIdle then (s.setNumerics c (v % 4), 0x00) else (s, 0x05)

/-- The rule of JOB_SEED (R267, R268). -/
def State.setSeed (s : State) (c : Chan) (v : Nat) : State × Nat :=
  if (s.chan c).training.program.isSome then (s, 0x05)
  else ((s.setEnt (kEng c 0x11) v).onChan c (fun h =>
    { h with training := { h.training with recordSinceSeed := false } }), 0x00)

/-- The rule of STASH_BASE and STASH_BOUND (R256): a dropped KEY is not held (R252). Log entry 103. -/
def State.setStash (s : State) (c : Chan) (sub v : Nat) : State × Nat :=
  if v % 65536 ≠ 0 ∨ hbmSize < v then (s, 0x03)
  else if (s.chan c).training.program.isSome || (s.chan c).training.stash.any (fun k => !k.dropped) then (s, 0x05)
  else s.keep (0x6100 + 0x100 * c.val) sub v

/-- The rule of HOST_INTERFACE_IN_USE (R446). -/
def State.setInterface (s : State) (c : Chan) (v : Nat) : State × Nat :=
  let range := s.fwValue c 0x05
  if v < range % 65536 ∨ range / 65536 < v then (s, 0x03)
  else if (s.chan c).anyEnabled then (s, 0x05)
  else s.keep (0x7100 + 0x100 * c.val) 0x08 v

/-- The rule of ASSET_TAG (Table 17.3). -/
def State.setAssetTag (s : State) (data : List Byte) : State × Nat :=
  if utf8Ok data then s.keep 0x1000 0x08 (stringCode data) else (s, 0x03)

/-- The rule of SILENCE_WATCHES (R271). -/
def State.setWatches (s : State) (c : Chan) (offset : Nat) (data : List Byte) : State × Nat :=
  (s.onChan c (fun h => { h with training := h.training.writeWatches offset data }), 0x00)

/-- The rule of the engine and training entries of a channel (Tables 7.12, 8.8 and 9.8). -/
def State.engineRule (s : State) (c : Chan) (index sub offset : Nat) (data : List Byte) : State × Nat :=
  let v := leNat data
  match sub with
  | 0x10 => noting index sub (fun s => s.writeNumerics c v) s
  | 0x11 => noting index sub (fun s => s.setSeed c v) s
  | 0x18 => s.setWatches c offset data
  | 0x40 => noting index sub (fun s => s.setStash c sub v) s
  | 0x41 => noting index sub (fun s => s.setStash c sub v) s
  | _ => s.plainWrite index sub v

/-- The rule of the power and limit entries of a channel (Table 16.10). -/
def State.powerRule (s : State) (c : Chan) (index sub v : Nat) : State × Nat :=
  match sub with
  | 0x01 => noting index sub (fun s => s.setVoltage c v) s
  | 0x03 => noting index sub (fun s => s.setClamp c v) s
  | 0x04 => noting index sub (fun s => s.setTempLimits c 1 0x04 840 480 40 v) s
  | 0x05 => noting index sub (fun s => s.setTempLimits c 2 0x05 680 320 24 v) s
  | 0x06 => s.clearTripped c v
  | _ => s.plainWrite index sub v

/-- The rule of the module's power entries (Table 16.12). -/
def State.supplyRule (s : State) (sub v : Nat) : State × Nat :=
  if 0x01 ≤ sub ∧ sub ≤ 0x04 then s.commandPower (Fin.ofNat 4 (sub - 1)) v
  else match sub with
    | 0x12 => noting 0x2800 sub (fun s => s.setCurrentLimit false v) s
    | 0x13 => noting 0x2800 sub (fun s => s.setCurrentLimit true v) s
    | _ => s.plainWrite 0x2800 sub v

/-- The rule of the firmware entries of a channel (Tables 15.9 and 19.7). -/
def State.fwRule (s : State) (c : Chan) (index sub v : Nat) : State × Nat :=
  match sub with
  | 0x08 => s.setInterface c v
  | 0x10 => if areaOk 65536 1 v then s.keep index sub v else (s, 0x03)
  | 0x12 => s.fwCommand c v
  | 0x33 => s.startTest c v
  | 0x38 => if areaOk 65536 0x1000000 v then s.keep index sub v else (s, 0x03)
  | _ => s.plainWrite index sub v

/-- The rule of the link entries of a channel (Table 10.13). -/
def State.linkRule (s : State) (c : Chan) (index sub v : Nat) : State × Nat :=
  if 0x01 ≤ sub ∧ sub ≤ 0x2A then s.setPlan c (Fin.ofNat 42 (sub - 1)) v
  else if 0x81 ≤ sub ∧ sub ≤ 0xAA then s.setPortEnable c (Fin.ofNat 42 (sub - 0x81)) v
  else s.plainWrite index sub v

/-- The rule of every writable entry: the state, and the status (R431). -/
def State.entryRule (s : State) (p : ReqPath) (index sub offset : Nat) (data : List Byte) : State × Nat :=
  let a := odArea index
  let c : Chan := Fin.ofNat 4 a.2
  let v := leNat data
  match a.1 with
  | 0x1000 => s.setAssetTag data
  | 0x1100 => (match sub with
    | 0x03 => s.setSecret offset data
    | 0x16 => s.revokeKeys none v
    | _ => s.plainWrite index sub v)
  | 0x1110 => (match sub with
    | 0x02 => s.revokeKeys (some c) v
    | 0x03 => s.setDebug p c v
    | 0x10 => s.setNonce c offset data
    | 0x30 => s.recoveryPiece c offset data
    | _ => s.plainWrite index sub v)
  | 0x2000 => s.powerRule c index sub v
  | 0x2800 => s.supplyRule sub v
  | 0x3000 => s.setMetrology index sub v
  | 0x4100 => (match sub with
    | 0x53 => s.setStaging c v
    | 0x63 => if v < 2 * slotEntries then s.keep index sub v else (s, 0x03)
    | _ => s.plainWrite index sub v)
  | 0x5000 => if sub = 0x01 then s.setModuleNumber v else s.plainWrite index sub v
  | 0x5010 => if sub = 0x10 ∨ sub = 0x11 then s.setHeartbeat c sub v else s.plainWrite index sub v
  | 0x5020 => if sub < 0x04 then noting index sub (fun s => s.setUpdate c sub v) s else s.plainWrite index sub v
  | 0x5030 => (match sub with
    | 0x09 => noting index sub (fun s => s.setRebuild c v) s
    | 0x0A => noting index sub (fun s => s.setWithdraw c v) s
    | _ => s.plainWrite index sub v)
  | 0x5100 => s.linkRule c index sub v
  | 0x6100 => s.engineRule c index sub offset data
  | 0x7000 => if sub = 0x10 then s.portImage offset data else s.portCommand v
  | 0x7100 => s.fwRule c index sub v
  | 0x8000 => s.setPolicy sub v
  | _ => s.plainWrite index sub v

/-- What follows the answer to an accepted write: a reboot (R527), or the boot of a recovered set (R502). -/
def State.afterRule (s : State) (index sub : Nat) (data : List Byte) : State :=
  let a := odArea index
  let c : Chan := Fin.ofNat 4 a.2
  if a.1 = 0x7100 ∧ sub = 0x12 then s.afterFwCommand c (leNat data)
  else if a.1 = 0x1110 ∧ sub = 0x30 then s.afterRecovery c
  else s

/-- Whether BLOCK_DEGRADED may follow from an entry's write as a whole: POWER_COMMAND and DEBUG_ENABLE (R316). -/
def watchesDegraded (index sub : Nat) : Bool :=
  (index == 0x2800 && decide (sub ≤ 0x04)) || (decide (0x1110 ≤ index) && decide (index < 0x1114) && sub == 0x03)

/-- A request to write, served. -/
def State.odWrite (s : State) (p : ReqPath) (index sub offset : Nat) (data : List Byte) : State :=
  let t := s.writeThen p index sub offset data (fun s => s.entryRule p index sub offset data)
    (fun s => s.afterRule index sub data)
  if watchesDegraded index sub then t.watchDegraded s else t

/-- OD_WRITE (R431, R432, R477 to R479). -/
def execOdWrite (path : ReqPath) (index : Half) (sub : Byte) (offset : Nat) (data : List Byte) (s : State) :
    Host.Outcome State Fault Refusal :=
  .next (s.odWrite path index.toNat sub.toNat offset data)

/-- OD_READ (R431, R432, R477, R478). -/
def execOdRead (path : ReqPath) (index : Half) (sub : Byte) (offset length : Nat) (s : State) :
    Host.Outcome State Fault Refusal :=
  .next (if s.pathOpen path then s.readRequest path index.toNat sub.toNat offset length else s)

/-- CHALLENGE_READ (R514): the whole of CHALLENGE is read. -/
def execChallengeRead (path : ReqPath) (s : State) : Host.Outcome State Fault Refusal :=
  .next (if s.pathOpen path then s.readRequest path 0x1100 0x02 0 32 else s)

/-- NUMERICS_MODE_WRITE (R280, R283, R284). -/
def execNumericsModeWrite (path : ReqPath) (c : Chan) (value : Byte) (s : State) : Host.Outcome State Fault Refusal :=
  .next (let index := 0x6100 + 0x100 * c.val
    s.writeScalar path index 0x10 1 value.toNat (noting index 0x10 (fun s => s.writeNumerics c value.toNat)))

/-- SILENCE_WATCH_WRITE (R271). -/
def execSilenceWatchWrite (path : ReqPath) (c : Chan) (offset : Nat) (data : List Byte) (s : State) :
    Host.Outcome State Fault Refusal :=
  .next (s.writeRequest path (0x6100 + 0x100 * c.val) 0x18 offset data (fun s => s.setWatches c offset data))

/-- Serves SUBSCRIBE (R490): the session's subscription replaced; eight bytes of data, and not through the mailbox.
Log entry 46. -/
def State.subscribe (s : State) (p : ReqPath) (data : List Byte) : State :=
  match p with
  | .mailbox => s.reply p 0x08 0 0 0 []
  | .session id =>
    if data.length ≠ 8 then s.reply p 0x08 0 0 0 []
    else
      let s := match s.session id with
        | some q => s.setSession { q with mask := fieldOf data 0 1 % 32, lowCode := fieldOf data 4 2, highCode := fieldOf data 6 2 }
        | none => s
      s.reply p 0x00 0 0 0 []

/-- SUBSCRIBE (R490). -/
def execSubscribe (path : ReqPath) (data : List Byte) (s : State) : Host.Outcome State Fault Refusal :=
  .next (if s.pathOpen path then s.subscribe path data else s)

/-- MALFORMED_REQUEST: a reserved OP or a malformed request is answered with status 0x08 (R431). -/
def execMalformedRequest (path : ReqPath) (s : State) : Host.Outcome State Fault Refusal :=
  .next (if s.pathOpen path then s.reply path 0x08 0 0 0 [] else s)

/-- Serves one request as its header and data stand (R428, R431): a request whose data does not fill LENGTH is malformed.
Log entry 38. -/
def State.serveRequest (s : State) (p : ReqPath) (bytes : List Byte) : State :=
  let op := fieldOf bytes 0 1
  let index := fieldOf bytes 2 2
  let sub := fieldOf bytes 4 1
  let offset := fieldOf bytes 8 4
  let length := fieldOf bytes 12 4
  let data := (bytes.drop 16).take length
  if bytes.length < 16 || (op != 1 && data.length != length) then s.reply p 0x08 0 0 0 []
  else match op with
    | 1 => s.readRequest p index sub offset length
    | 2 => s.odWrite p index sub offset data
    | 3 =>
      let r := s.authenticate p data
      r.1.reply p r.2 0 0 0 []
    | 4 => (s.dropRole p).reply p 0x00 0 0 0 []
    | 5 => s.subscribe p data
    | _ => s.reply p 0x08 0 0 0 []

end Sys2Proof.Machine
end

