-- ==== Sys2Proof/Machine/Miger.lean ====
section
/-!
DEFINITION. The field network: discovery, sessions, session frames and notifications of the Miger protocol
(17 R482 to R491; 18 R509 to R511).
-/

namespace Sys2Proof.Machine

/-! ### Frames (R483 to R485) -/

/-- Whether the port complex answers on the field network. -/
def State.fieldUp (s : State) : Bool := s.module.on && s.module.alive

/-- DICTIONARY_RANGE of the port complex (R484, Table 17.6). -/
def State.portRange (s : State) : Nat := s.versionRange (s.module.fw.bank s.module.fw.active).image 20

/-- Whether the port complex speaks a Miger version (R484). -/
def State.speaks (s : State) (version : Byte) : Bool :=
  decide (s.portRange % 65536 ≤ version.toNat) && decide (version.toNat ≤ s.portRange / 65536)

/-- A frame discarded: FRAMES_DISCARDED advances (R484, R485). -/
def State.discard (s : State) : State := s.bumpPort (odKey 0x1010 0x21)

/-- A frame outside any session, sent in clear and without a TAG (Table 17.6). -/
def State.sendClear (s : State) (ftype : Nat) (body : List Byte) : State := s.emit (.frame ftype 0 0 body [])

/-- Sends SESSION_REFUSE with its reason, which SESSIONS_REFUSED counts (R488). Log entry 45. -/
def State.refuseSession (s : State) (reason : Nat) : State :=
  (s.bumpPort (odKey 0x1010 0x22)).sendClear 0x05 (leBytes 1 reason)

/-- Body of ANNOUNCE (Table 17.6). -/
def State.announceBody (s : State) : List Byte :=
  let n := s.module.sessions.length
  leBytes 8 Config.moduleSerial.toNat ++ leBytes 2 s.moduleNumber ++ leBytes 4 s.portRange ++ leBytes 4 s.channelStates
    ++ leBytes 1 n ++ leBytes 1 (8 - n)

/-- HELLO: answered with ANNOUNCE (R486). -/
def execHello (_ : Nat) (s : State) : Host.Outcome State Fault Refusal :=
  .next (if s.fieldUp then (s.bumpPort (odKey 0x1010 0x20)).sendClear 0x02 s.announceBody else s)

/-! ### Session setup (R487, R509) -/

/-- The lowest SESSION from 1 upward that is not in use (Table 17.7, step 3). Log entry 45. -/
def State.freshSession (s : State) : Nat := (((List.range 9).map (· + 1)).find? (fun i => (s.session i).isNone)).getD 9

/-- Opens a session for a client nonce and a ciphertext: the keys of R509, and SESSION_ACCEPT at SEQUENCE 0. -/
def State.openSession (s : State) (body : List Byte) : State :=
  let r := s.drawFree
  let s := r.2
  let id := s.freshSession
  let nonce := leBytes 32 (Config.fresh r.1)
  let key := kmac256 false (Config.kemDecaps ((s.module.fw.keys.map Keys.kem).getD []) (body.drop 32))
    (body.take 32 ++ nonce ++ leBytes 4 id ++ leBytes 8 Config.moduleSerial.toNat) 128 (ascii "MIGER-KDF")
  let q : Session :=
    { id := id, role := 0, inCipher := key.take 32, inTag := (key.drop 32).take 32, outCipher := (key.drop 64).take 32,
      outTag := (key.drop 96).take 32, lastSeq := 0, lastRequest := none, nextSeq := 0, mask := 0, lowCode := 0, highCode := 0,
      queue := [], lostPending := false, outstanding := none, challenge := none, heard := s.module.clock.timebase }
  let s := { s with module := { s.module with sessions := s.module.sessions ++ [q] } }
  s.sendFrame q 0x04 (nonce ++ [8#8, 0#8] ++ leBytes 2 (s.ent (odKey 0x1010 0x05)))

/-- A part of a SESSION_INIT with its pair: refused when malformed or when eight sessions are open (R487, R492).
Log entry 45. -/
def State.bothParts (s : State) (body : List Byte) : State :=
  if body.length ≠ 1600 then s.refuseSession 3
  else if 8 ≤ s.module.sessions.length then s.refuseSession 1
  else s.openSession body

/-- SESSION_INIT (R484, R487): its two parts, of one client. -/
def execSessionInit (client : Nat) (version part : Byte) (body : List Byte) (s : State) : Host.Outcome State Fault Refusal :=
  .next (
    let i := part.toNat % 16
    if !s.fieldUp then s
    else if !s.speaks version then s.discard.refuseSession 2
    else if part.toNat / 16 ≠ 1 ∨ 1 < i then s.refuseSession 3
    else
      let s := s.bumpPort (odKey 0x1010 0x20)
      let mine := s.module.initParts.filter (fun q => q.client == client && q.part != i)
      let rest := s.module.initParts.filter (fun q => q.client != client)
      match mine with
      | q :: _ =>
        ({ s with module := { s.module with initParts := rest } }).bothParts (if i = 0 then body ++ q.body else q.body ++ body)
      | [] => { s with module := { s.module with initParts := rest ++ [⟨client, i, body⟩] } })

/-- SESSION_INIT_PART_TIMEOUT: 100 ms have passed since the oldest part that waits, and it is discarded (Table 17.7). -/
def execSessionInitPartTimeout (s : State) : Host.Outcome State Fault Refusal :=
  .next { s with module := { s.module with initParts := s.module.initParts.drop 1 } }

/-! ### Acceptance (R485, R511) -/

/-- Whether a SEQUENCE is later than another (R16). -/
def seqLater (a b : Word) : Bool := a != b && decide ((a - b).toNat < 2 ^ 31)

/-- The session of a frame whose SESSION is open and whose TAG verifies (R484, R485). -/
def State.trusted (s : State) (ftype : Nat) (f : Frame) : Option Session :=
  if !s.speaks f.version then none
  else match s.session f.session.toNat with
    | some q => if frameTag q.inTag f.version.toNat ftype f.session f.sequence f.body == f.tag then some q else none
    | none => none

/-- A frame counts as accepted from a session: FRAMES_RECEIVED, its SEQUENCE, and when it came. -/
def State.hear (s : State) (q : Session) (seq : Word) : State :=
  (s.setSession { q with lastSeq := seq, heard := s.module.clock.timebase }).bumpPort (odKey 0x1010 0x20)

/-- Accepts a session frame and acts on its deciphered body, or discards it (R485). Before the client's SEQUENCE would reach
2³¹ the session closes with reason 0 (R511). Log entry 45. -/
def State.acceptFrame (s : State) (ftype : Nat) (f : Frame) (act : State → Session → List Byte → State) : State :=
  if !s.fieldUp then s
  else match s.trusted ftype f with
    | none => s.discard
    | some q =>
      if !seqLater f.sequence q.lastSeq then s.discard
      else if 2 ^ 31 ≤ f.sequence.toNat then s.closeSession q.id (some 0)
      else
        let t := act (s.hear q f.sequence) q (cipher q.inCipher f.session f.sequence f.body)
        if f.sequence.toNat + 1 = 2 ^ 31 then t.closeSession q.id (some 0) else t

/-! ### Session frames (R485, R488, R489, R491) -/

/-- Whether a REQUEST repeats the last accepted one of its session. Log entry 38. -/
def Session.repeats (q : Session) (f : Frame) : Bool :=
  match q.lastRequest with
  | some (seq, _) => seq == f.sequence
  | none => false

/-- REQUEST (R485, R489): served; a repeat of the last one is answered again with the stored RESPONSE and not executed. -/
def execRequest (f : Frame) (s : State) : Host.Outcome State Fault Refusal :=
  .next (match s.fieldUp, s.trusted 0x10 f with
    | true, some q =>
      (match q.repeats f, q.lastRequest with
        | true, some (_, body) => ((s.setSession { q with heard := s.module.clock.timebase }).bumpPort
            (odKey 0x1010 0x20)).sessionFrame q.id 0x11 body
        | _, _ => s.acceptFrame 0x10 f (fun s q bytes => s.serveRequest (.session q.id) bytes))
    | _, _ => s.acceptFrame 0x10 f (fun s _ _ => s))

/-- NOTIFY_ACK: the outstanding NOTIFY that it names is done, and the next is sent (R491). -/
def execNotifyAck (f : Frame) (s : State) : Host.Outcome State Fault Refusal :=
  .next (s.acceptFrame 0x13 f (fun s q bytes =>
    match (s.session q.id).bind (fun q => q.outstanding) with
    | some (seq, _, _) =>
      if fieldOf bytes 0 4 = seq.toNat then
        (match s.session q.id with
          | some q => (s.setSession { q with outstanding := none }).notify q.id
          | none => s)
      else s
    | none => s))

/-- A NOTIFY sent again under its SEQUENCE (R491). -/
def State.resendNotify (s : State) (q : Session) (seq : Word) (body : List Byte) : State :=
  let id := BitVec.ofNat 32 q.id
  let sent := cipher q.outCipher id seq body
  s.emit (.frame 0x12 id seq sent (frameTag q.outTag 1 0x12 id seq sent))

/-- NOTIFY_RESEND: 50 ms have passed since the outstanding NOTIFY was last sent; after five sends its records are dropped and
counted (R491). -/
def execNotifyResend (session : Nat) (s : State) : Host.Outcome State Fault Refusal :=
  .next (match s.session session with
    | some q =>
      (match q.outstanding with
        | some (seq, body, sends) =>
          if sends < 5 then (s.setSession { q with outstanding := some (seq, body, sends + 1) }).resendNotify q seq body
          else
            let r := s.bumpRaw keyNotifyLost (fieldOf body 0 1)
            let s := r.2.setSession { q with outstanding := none, lostPending := true }
            let s := if r.1 then s.raisePort 0 0x0001 (saturatedData keyNotifyLost) else s
            s.notify q.id
        | none => s)
    | none => s)

/-- KEEPALIVE: answered with KEEPALIVE (Table 17.6). -/
def execKeepalive (f : Frame) (s : State) : Host.Outcome State Fault Refusal :=
  .next (s.acceptFrame 0x14 f (fun s q _ => s.sessionFrame q.id 0x14 []))

/-- CLOSE from the client (R488). -/
def execClose (f : Frame) (s : State) : Host.Outcome State Fault Refusal :=
  .next (s.acceptFrame 0x15 f (fun s q _ => s.closeSession q.id none))

/-- SESSION_IDLE_TIMEOUT: the session closes with reason 1 (R488, Table 17.6). Log entry 100. -/
def execSessionIdleTimeout (session : Nat) (s : State) : Host.Outcome State Fault Refusal :=
  .next (s.closeSession session (some 1))

/-- MIGER_FRAME_DISCARDED (R483 to R485): a foreign frame is not counted; a SESSION_INIT of another version, or whose
BODY_LENGTH does not fit, is answered with SESSION_REFUSE. -/
def execMigerFrameDiscarded (_ : Nat) (why : FrameFault) (s : State) : Host.Outcome State Fault Refusal :=
  .next (if !s.fieldUp then s
    else match why with
      | .foreign => s
      | .badVersion true => s.discard.refuseSession 2
      | .badLength true => s.discard.refuseSession 3
      | _ => s.discard)

end Sys2Proof.Machine
end

