-- ==== Sys2Proof/Machine/Registers.lean ====
section
/-!
DEFINITION. BAR0 and BAR2: writes of registers that have no command of their own, and what every register reads as
(14 R405 to R410, R412, R428, R429; 02 R60 to R62; 16 Table 16.6).
-/

namespace Sys2Proof.Machine

/-! ### The map (R405, R406) -/

/-- The channel whose region of BAR0 holds an offset, and the offset within it (Table 14.1). -/
def channelOffset (offset : Nat) : Option (Chan × Nat) :=
  if 0x01000000 ≤ offset ∧ offset < 0x04000000 then
    some (Fin.ofNat 4 ((offset - 0x01000000) / 0x00C00000), (offset - 0x01000000) % 0x00C00000)
  else none

/-- Whether an offset is that of a 64-bit register that can be written (Tables 14.2, 14.3 and 14.6). -/
def wideRegister (offset : Nat) : Bool :=
  match channelOffset offset with
  | some (_, r) => r == 0x18 || r == 0x40 || (decide (0x2000 ≤ r) && decide (r < 0x3000) && (r % 0x40 == 0x08 || r % 0x40 == 0x18))
  | none => offset == 0x20 || offset == 0x28 || offset == 0x30 || offset == 0x38 || offset == 0x50

/-- TIMEBASE_STATUS (Table 2.4); `ref` says whether the reference clock is present. -/
def TbStatus.word (t : TbStatus) (ref : Bool) : Nat :=
  t.loadGeneration.toNat * 256 + bitIf 7 t.loadArmed + bitIf 4 t.alignError + bitIf 3 t.holdover + bitIf 2 t.refLost
    + bitIf 1 t.loaded + bitIf 0 ref

/-- A write of TIMEBASE_STATUS (Table 2.4). -/
def TbStatus.write (t : TbStatus) (v : Nat) : TbStatus :=
  { t with loadArmed := v.testBit 7, alignError := t.alignError && !v.testBit 4, refLost := t.refLost && !v.testBit 2 }

/-! ### Context blocks (R412) -/

/-- A register of a context block that may be written only while ENABLED reads 0: otherwise ignored, with event 0x0004. -/
def State.writeContext (s : State) (c : Chan) (x off : Nat) (f : Context → Context) : State :=
  let k := (s.chan c).context x
  if k.enabled then s.raise c 0x0004 (leBytes 4 (chBase c + 0x2000 + 0x40 * x + off))
  else s.onChan c (fun h => h.setContext x (f k))

/-- CTX_STATUS (Table 14.6). -/
def Context.statusWord (k : Context) : Nat :=
  bitIf 0 k.enabled + bitIf 1 k.draining + bitIf 2 k.cqFull + bitIf 3 k.configError

/-- A 32-bit write in a context block (Table 14.6). -/
def State.writeContextWord (s : State) (c : Chan) (x off v : Nat) : State :=
  match off with
  | 0x00 => s.controlContext c x (v / 2 % 4) (v.testBit 0)
  | 0x04 => s.onChan c (fun h =>
      let k := h.context x
      h.setContext x { k with configError := k.configError && !v.testBit 3 })
  | 0x10 => s.writeContext c x off (fun k => { k with sqSize := v % 65536, cqSize := v / 65536 % 65536 })
  | 0x14 => s.writeContext c x off (fun k => { k with vector := v % 512 })
  | 0x28 => s.onChan c (fun h => h.setContext x { h.context x with coalesceReg := BitVec.ofNat 32 v &&& 0xFFFF00FF#32 })
  | _ => s

/-! ### Writes of a channel's region -/

/-- A 32-bit write in the register page of a channel (Tables 14.3 and 16.6). -/
def State.writeChannelWord (s : State) (c : Chan) (r v : Nat) : State :=
  let base := chBase c
  if 0x2000 ≤ r ∧ r < 0x3000 then s.writeContextWord c ((r - 0x2000) / 0x40) (r % 0x40) v
  else if 0x10000 ≤ r ∧ r < 0x50000 then
    let x := (r - 0x10000) / 0x1000
    (if r % 0x1000 = 0 then s.writeTail c x v else if r % 0x1000 = 4 then s.writeHead c x v else s)
  else match r with
    | 0x10 => s.onChan c (fun h => { h with clock := { h.clock with status := h.clock.status.write v } })
    | 0x20 =>
      if v.testBit 0 && !(s.chan c).perf.busy then
        s.onChan c (fun h => { h with perf := { h.perf with snapshot := h.captureWords, busy := true } })
      else s
    | 0x48 => s.writeEventControl c (BitVec.ofNat 32 v)
    | 0x50 => s.writeEventHead c v
    | 0x800 => s.writeRegister c (base + r) (fun s => s.setVoltage c (v % 65536))
    | 0x808 => s.writeRegister c (base + r) (fun s => s.setClamp c (v % 65536))
    | 0x80C => s.writeRegister c (base + r) (fun s => s.setTempLimits c 1 0x04 840 480 40 v)
    | 0x810 => s.writeRegister c (base + r) (fun s => s.setTempLimits c 2 0x05 680 320 24 v)
    | 0x814 => s.onPower c (fun p => { p with tripped := p.tripped &&& ~~~(BitVec.ofNat 4 (v / 16)) })
    | _ => s

/-- A whole write of a 64-bit register of a channel (Tables 14.3 and 14.6). The base of an enabled event carousel is not
written (log entry 39). -/
def State.writeChannelWide (s : State) (c : Chan) (r v : Nat) : State :=
  if 0x2000 ≤ r ∧ r < 0x3000 then
    (if r % 0x40 = 0x08 then s.writeContext c ((r - 0x2000) / 0x40) 0x08 (fun k => { k with sqBase := v })
      else s.writeContext c ((r - 0x2000) / 0x40) 0x18 (fun k => { k with cqBase := v }))
  else if r = 0x18 then s.onChan c (fun h => { h with clock := { h.clock with epochLoad := BitVec.ofNat 64 v } })
  else if (s.chan c).host.events.enabled then s.raise c 0x0004 (leBytes 4 (chBase c + r))
  else s.onChan c (fun h => { h with host := { h.host with events := { h.host.events with base := v } } })

/-- What a 64-bit register of a channel holds. -/
def State.channelWide (s : State) (c : Chan) (r : Nat) : Nat :=
  let h := s.chan c
  if 0x2000 ≤ r ∧ r < 0x3000 then
    let k := h.context ((r - 0x2000) / 0x40)
    (if r % 0x40 = 0x08 then k.sqBase else k.cqBase)
  else if r = 0x18 then h.clock.epochLoad.toNat
  else h.host.events.base

/-! ### Writes of the module's registers -/

/-- Bytes of an aperture: a quarter of BAR2 (R409). -/
def Endpoint.apertureSize (e : Endpoint) : Nat := e.bar2 * 2 ^ 30 / 4

/-- A whole write of a 64-bit module register (Table 14.2, R409). -/
def State.writeModuleWide (s : State) (r v : Nat) : State :=
  if r = 0x50 then { s with module := { s.module with clock := { s.module.clock with epochLoad := BitVec.ofNat 64 v } } }
  else if v % s.module.endpoint.apertureSize ≠ 0 ∨ hbmSize ≤ v then s
  else s.onEndpoint (fun e => { e with apertures := mset 0 ((r - 0x20) / 8) v e.apertures })

/-- What a 64-bit module register holds. -/
def State.moduleWide (s : State) (r : Nat) : Nat :=
  if r = 0x50 then s.module.clock.epochLoad.toNat else mget 0 ((r - 0x20) / 8) s.module.endpoint.apertures

/-- A write of MAILBOX_CONTROL: SIGNAL, and GO, which starts a request while BUSY reads 0 (R428, R429; log entry 40). -/
def Mailbox.control (m : Mailbox) (v : Nat) : Mailbox := { m with signal := v.testBit 1, busy := m.busy || v.testBit 0 }

/-- Writes four bytes of the request buffer. -/
def Mailbox.putRequest (m : Mailbox) (at' v : Nat) : Mailbox :=
  { m with request := (leBytes 4 v).zipIdx.foldl (fun q p => mset 0#8 (at' + p.2) p.1 q) m.request }

/-- A 32-bit word of an MSI-X table entry written. Log entry 47. -/
def MsixEntry.write (m : MsixEntry) (word v : Nat) : MsixEntry :=
  match word with
  | 0 => { m with address := m.address.extractLsb' 32 32 ++ BitVec.ofNat 32 v }
  | 1 => { m with address := BitVec.ofNat 32 v ++ m.address.extractLsb' 0 32 }
  | 2 => { m with data := BitVec.ofNat 32 v }
  | _ => { m with masked := v.testBit 0 }

/-- A word of an MSI-X table entry. -/
def MsixEntry.word (m : MsixEntry) (word : Nat) : Nat :=
  match word with
  | 0 => m.address.toNat % 2 ^ 32
  | 1 => m.address.toNat / 2 ^ 32
  | 2 => m.data.toNat
  | _ => bitIf 0 m.masked

/-- A 32-bit write of a module register, of the mailbox or of the MSI-X table (Tables 14.1 and 14.2, R428, R410).
Log entry 47. -/
def State.writeModuleWord (s : State) (r v : Nat) : State :=
  let mail := fun (f : Mailbox → Mailbox) => s.onEndpoint (fun e => { e with mailbox := f e.mailbox })
  if 0x11000 ≤ r ∧ r < 0x12000 then mail (fun m => m.putRequest (r - 0x11000) v)
  else if 0x20000 ≤ r ∧ r < 0x28000 then
    let i := (r - 0x20000) / 16
    (s.onEndpoint (fun e => { e with
      msix := mset MsixEntry.reset i ((mget MsixEntry.reset i e.msix).write (r / 4 % 4) v) e.msix })).firePending i
  else match r with
    | 0x08 => s.onEndpoint (fun e => { e with eventChannel := v % 4 })
    | 0x14 => s.onEndpoint (fun e => { e with eventRead := v % 65536 })
    | 0x48 => { s with module := { s.module with clock := { s.module.clock with status := s.module.clock.status.write v } } }
    | 0x10000 => mail (fun m => m.control v)
    | 0x10004 => mail (fun m => { m with done := m.done && !v.testBit 1 })
    | _ => s

/-! ### Writes of BAR0 and BAR2 (R406, R407, R409) -/

/-- A 32-bit write that no half of a 64-bit register takes. -/
def State.writeWord (s : State) (offset v : Nat) : State :=
  match channelOffset offset with
  | some (c, r) => s.writeChannelWord c r v
  | none => s.writeModuleWord offset v

/-- A whole write of a 64-bit register. -/
def State.writeWide (s : State) (offset v : Nat) : State :=
  match channelOffset offset with
  | some (c, r) => s.writeChannelWide c r v
  | none => s.writeModuleWide offset v

/-- What a 64-bit register holds. -/
def State.wideValue (s : State) (offset : Nat) : Nat :=
  match channelOffset offset with
  | some (c, r) => s.channelWide c r
  | none => s.moduleWide offset

/-- A 32-bit write: the lower half of a 64-bit register is held until its upper half is written; an upper half alone keeps the
lower half that the register holds (R406). Log entry 47. -/
def State.writeHalf (s : State) (offset v : Nat) : State :=
  if wideRegister offset then
    s.onEndpoint (fun e => { e with halves := mset none offset (some (BitVec.ofNat 32 v)) e.halves })
  else if 4 ≤ offset && wideRegister (offset - 4) then
    let low := match mget none (offset - 4) s.module.endpoint.halves with
      | some w => w.toNat
      | none => s.wideValue (offset - 4) % 2 ^ 32
    (s.onEndpoint (fun e => { e with halves := mset none (offset - 4) none e.halves })).writeWide (offset - 4) (v * 2 ^ 32 + low)
  else s.writeWord offset v

/-- Whether the region that holds an offset takes writes: that of an unavailable channel ignores them (R407). -/
def State.takesWrites (s : State) (offset : Nat) : Bool :=
  match channelOffset offset with
  | some (c, _) => s.available c
  | none => true

/-- A naturally aligned write of 32 or 64 bits in BAR0; another is ignored (R406). -/
def State.writeBar0 (s : State) (offset : Nat) (wide : Bool) (v : Nat) : State :=
  if offset % (if wide then 8 else 4) ≠ 0 || !s.takesWrites offset then s
  else if !wide then s.writeHalf offset (v % 2 ^ 32)
  else if wideRegister offset then
    (s.onEndpoint (fun e => { e with halves := mset none offset none e.halves })).writeWide offset v
  else (s.writeHalf offset (v % 2 ^ 32)).writeHalf (offset + 4) (v / 2 ^ 32)

/-- First offset of BAR2 in the operand of REGISTER_WRITE: BAR0 is 64 MiB (R403; log entry 41). -/
def bar2Base : Nat := 0x04000000

/-- The channel and the HBM address of a byte of BAR2 (R409). -/
def Endpoint.apertureByte (e : Endpoint) (o : Nat) : Option (Chan × Nat) :=
  let c := o / e.apertureSize
  if h : c < 4 then some (⟨c, h⟩, mget 0 c e.apertures + o % e.apertureSize) else none

/-- Whether BAR2 reaches a byte of HBM: below the retransmit area (R308, R409). -/
def apertureReaches (a : Nat) : Bool := hbmFree a 1

/-- A byte written where an aperture reaches; what it does not reach, and what an unavailable channel holds, is ignored
(R308, R409). A status record there takes every byte as written (log entry 113); each byte crosses the port link (log entry 112). -/
def State.writeReached (s : State) (place : Option (Chan × Nat)) (b : Byte) : State :=
  match place with
  | some (c, a) => if s.available c && apertureReaches a then (s.memWrite c a [b]).perfAdd c 78 1 else s
  | none => s

/-- A byte written through BAR2. -/
def State.writeBar2 (s : State) (o : Nat) (b : Byte) : State := s.writeReached (s.module.endpoint.apertureByte o) b

/-- REGISTER_WRITE (R406, R407, R409, R412): a write of BAR0, or of BAR2 from 64 MiB upward. Log entry 41. -/
def execRegisterWrite (offset : Nat) (wide : Bool) (value : DWord) (s : State) : Host.Outcome State Fault Refusal :=
  .next (if !s.hostReaches then s
    else if offset < bar2Base then s.writeBar0 offset wide value.toNat
    else (leBytes (if wide then 8 else 4) value.toNat).zipIdx.foldl (fun s p => s.writeBar2 (offset - bar2Base + p.2) p.1) s)

/-! ### What BAR0 reads as (R405 to R408, R428)

No command reads a register but those that change something by it; these functions say what the others return. -/

/-- CHANNEL_STATUS (Table 14.4). -/
def Channel.statusWord (h : Channel) : Nat :=
  h.power.state.toNat + bitIf 4 h.power.ready + bitIf 5 h.safe + bitIf 6 (!h.power.fuseClosed)
    + bitIf 7 h.training.program.isSome + ((List.range 64).filter (fun x => (h.context x).enabled)).length * 256

/-- The 32-bit word at `i` of a 64-bit value. -/
def halfOf (v i : Nat) : Nat := v / 2 ^ (32 * i) % 2 ^ 32

/-- What a word of a context block reads as (Table 14.6). -/
def Context.readWord (k : Context) (off : Nat) : Nat :=
  match off with
  | 0x00 => bitIf 0 (k.enabled && !k.draining) + k.priority % 4 * 2
  | 0x04 => k.statusWord
  | 0x08 => halfOf k.sqBase 0
  | 0x0C => halfOf k.sqBase 1
  | 0x10 => k.sqSize + k.cqSize * 65536
  | 0x14 => k.vector
  | 0x18 => halfOf k.cqBase 0
  | 0x1C => halfOf k.cqBase 1
  | 0x20 => k.sqHead
  | 0x24 => k.cqTail
  | 0x28 => k.coalesceReg.toNat
  | _ => 0

/-- What a word of a channel's region reads as (Tables 14.3 and 16.6); WO registers and reserved words read as zero. -/
def State.readChannelWord (s : State) (c : Chan) (r : Nat) : Nat :=
  let h := s.chan c
  if r = 0 then h.statusWord
  else if !s.available c then 0xFFFFFFFF
  else if 0x2000 ≤ r ∧ r < 0x3000 then (h.context ((r - 0x2000) / 0x40)).readWord (r % 0x40)
  else if 0x1000 ≤ r ∧ r < 0x1800 then halfOf (mget 0 ((r - 0x1000) / 8) h.perf.snapshot) (r / 4 % 2)
  else if 0x400000 ≤ r ∧ r < 0x800000 then halfOf (h.entryWord ((r - 0x400000) / 8)) (r / 4 % 2)
  else match r with
    | 0x08 => h.clock.timebase.toNat % 2 ^ 32
    | 0x0C => h.clock.high.toNat
    | 0x10 => h.clock.status.word s.module.refPresent
    | 0x18 => halfOf h.clock.epochLoad.toNat 0
    | 0x1C => halfOf h.clock.epochLoad.toNat 1
    | 0x20 => bitIf 1 h.perf.busy
    | 0x28 => halfOf (mget 0 2 h.perf.counters) 0
    | 0x2C => halfOf (mget 0 2 h.perf.counters) 1
    | 0x40 => halfOf h.host.events.base 0
    | 0x44 => halfOf h.host.events.base 1
    | 0x48 => h.host.events.control.toNat
    | 0x4C => h.host.events.tail
    | 0x58 => halfOf (h.host.eventsLost.read 63) 0
    | 0x5C => halfOf (h.host.eventsLost.read 63) 1
    | 0x60 => halfOf (h.host.doorbellErrors.read 63) 0
    | 0x64 => halfOf (h.host.doorbellErrors.read 63) 1
    | 0x68 => halfOf (h.host.cqFullWaits.read 63) 0
    | 0x6C => halfOf (h.host.cqFullWaits.read 63) 1
    | 0x800 => s.ent (kPow c 0x01)
    | 0x804 => Config.coreVoltageNow s.free c.val % 65536
    | 0x808 => s.ent (kPow c 0x03)
    | 0x80C => s.ent (kPow c 0x04)
    | 0x810 => s.ent (kPow c 0x05)
    | 0x814 => s.limitStatus c
    | 0x818 => h.power.junctionTemp % 65536
    | 0x81C => Config.branchPower s.free c.val % 65536
    | _ => 0

/-- The record that MODULE_EVENTS shows in a slot: the newest that was written there (Table 14.2, R427). -/
def Endpoint.fifoSlot (e : Endpoint) (j : Nat) : List Byte :=
  let last := (e.eventWrite + 2 ^ 32 - 1) % 2 ^ 32
  let back := (last + fifoSize - j) % fifoSize
  let seq := (last + 2 ^ 32 - back) % 2 ^ 32
  match e.fifo[back]? with
  | some ev => ev.record (seq / fifoSize % 2 == 0) seq
  | none => List.replicate 32 0#8

/-- MAILBOX_STATUS (R428). -/
def Mailbox.statusWord (m : Mailbox) : Nat := bitIf 0 m.busy + bitIf 1 m.done + m.role * 256

/-- What a word of the module's part of BAR0 reads as (Tables 14.1 and 14.2, R428). -/
def State.readModuleWord (s : State) (r : Nat) : Nat :=
  let e := s.module.endpoint
  let k := s.module.clock
  if 0x800 ≤ r ∧ r < 0x1000 then leNat (pieceOf (e.fifoSlot ((r - 0x800) / 32)) (r % 32) 4)
  else if 0x20 ≤ r ∧ r < 0x40 then halfOf (mget 0 ((r - 0x20) / 8) e.apertures) (r / 4 % 2)
  else if 0x11000 ≤ r ∧ r < 0x12000 then leNat ((List.range 4).map (fun i => mget 0#8 (r - 0x11000 + i) e.mailbox.request))
  else if 0x12000 ≤ r ∧ r < 0x13000 then leNat (pieceOf e.mailbox.response (r - 0x12000) 4)
  else if 0x20000 ≤ r ∧ r < 0x28000 then (mget MsixEntry.reset ((r - 0x20000) / 16) e.msix).word (r / 4 % 4)
  else if 0x28000 ≤ r ∧ r < 0x28100 then
    (List.range 32).foldl (fun v i => v + bitIf i (mget false (8 * (r - 0x28000) + i) e.pending)) 0
  else match r with
    | 0x00 => 0x00010000
    | 0x04 => s.channelStates
    | 0x08 => e.eventChannel
    | 0x10 => e.eventWrite % 65536
    | 0x14 => e.eventRead
    | 0x18 => e.moduleEventsLost.read 31
    | 0x40 => k.timebase.toNat % 2 ^ 32
    | 0x44 => k.high.toNat
    | 0x48 => k.status.word s.module.refPresent
    | 0x50 => halfOf k.epochLoad.toNat 0
    | 0x54 => halfOf k.epochLoad.toNat 1
    | 0x10000 => bitIf 1 e.mailbox.signal
    | 0x10004 => e.mailbox.statusWord
    | _ => 0

/-- What a naturally aligned 32-bit read of BAR0 returns; another alignment returns zero (R406). Log entry 47. -/
def State.readBar0 (s : State) (offset : Nat) : Nat :=
  if offset % 4 ≠ 0 then 0
  else match channelOffset offset with
    | some (c, r) => s.readChannelWord c r
    | none => s.readModuleWord offset

/-- What a byte of BAR2 reads as (R308, R409). Log entry 47. -/
def State.readBar2 (s : State) (o : Nat) : Byte :=
  match s.module.endpoint.apertureByte o with
  | some (c, a) => if !s.available c then 0xFF#8 else if apertureReaches a then (s.chan c).byte a else 0#8
  | none => 0#8

end Sys2Proof.Machine
end

