-- ==== Sys2Proof/Machine/Dispatch.lean ====
section
/-!
DEFINITION. One arm per command: each calls its meaning.
-/

namespace Sys2Proof.Machine

/-- The effect of a command on everything but the queue. -/
def exec (i : Instr) (s : State) : Host.Outcome State Fault Refusal :=
  match i with
  | .modulePowerOn inputMillivolt selfTestPass => Sys2Proof.Machine.execModulePowerOn inputMillivolt selfTestPass s
  | .modulePowerOff => Sys2Proof.Machine.execModulePowerOff s
  | .supplyFault inputMillivolt => Sys2Proof.Machine.execSupplyFault inputMillivolt s
  | .branchFuseOpen c => Sys2Proof.Machine.execBranchFuseOpen c s
  | .portComplexRestart cause selfTestPass => Sys2Proof.Machine.execPortComplexRestart cause selfTestPass s
  | .portComplexFailure => Sys2Proof.Machine.execPortComplexFailure s
  | .pcieReset kind => Sys2Proof.Machine.execPcieReset kind s
  | .pcieLinkUp => Sys2Proof.Machine.execPcieLinkUp s
  | .msixVectorUnmask v => Sys2Proof.Machine.execMsixVectorUnmask v s
  | .latchOpened slot => Sys2Proof.Machine.execLatchOpened slot s
  | .powerCommand path c target => Sys2Proof.Machine.execPowerCommand path c target s
  | .powerRampStart branchShort => Sys2Proof.Machine.execPowerRampStart branchShort s
  | .transitionStepComplete c authA authB => Sys2Proof.Machine.execTransitionStepComplete c authA authB s
  | .channelStartup c found => Sys2Proof.Machine.execChannelStartup c found s
  | .limitTrip kind value => Sys2Proof.Machine.execLimitTrip kind value s
  | .currentTripRecheck stillAbove value => Sys2Proof.Machine.execCurrentTripRecheck stillAbove value s
  | .throttleTick sample => Sys2Proof.Machine.execThrottleTick sample s
  | .coreVoltageSet via c value => Sys2Proof.Machine.execCoreVoltageSet via c value s
  | .limitRegisterWrite via reg value => Sys2Proof.Machine.execLimitRegisterWrite via reg value s
  | .metrologyConversionEnd c raw => Sys2Proof.Machine.execMetrologyConversionEnd c raw s
  | .epochPulse => Sys2Proof.Machine.execEpochPulse s
  | .referenceLost => Sys2Proof.Machine.execReferenceLost s
  | .referenceReturned => Sys2Proof.Machine.execReferenceReturned s
  | .timebaseLowRead c => Sys2Proof.Machine.execTimebaseLowRead c s
  | .portTimebaseLowRead => Sys2Proof.Machine.execPortTimebaseLowRead s
  | .perfSnapshot c => Sys2Proof.Machine.execPerfSnapshot c s
  | .snapshotComplete c => Sys2Proof.Machine.execSnapshotComplete c s
  | .arrayLayerExecute c job => Sys2Proof.Machine.execArrayLayerExecute c job s
  | .tileReadIssue c => Sys2Proof.Machine.execTileReadIssue c s
  | .tileReadComplete c read => Sys2Proof.Machine.execTileReadComplete c read s
  | .vectorDelivery c job => Sys2Proof.Machine.execVectorDelivery c job s
  | .deferredOutlierServe c => Sys2Proof.Machine.execDeferredOutlierServe c s
  | .programDescriptor c job => Sys2Proof.Machine.execProgramDescriptor c job s
  | .programRelease c job => Sys2Proof.Machine.execProgramRelease c job s
  | .tileProgramStart c => Sys2Proof.Machine.execTileProgramStart c s
  | .tileProgramComplete c prog verified => Sys2Proof.Machine.execTileProgramComplete c prog verified s
  | .factorRefresh c => Sys2Proof.Machine.execFactorRefresh c s
  | .poweredHour slot => Sys2Proof.Machine.execPoweredHour slot s
  | .tileCalibrationStart c => Sys2Proof.Machine.execTileCalibrationStart c s
  | .tileCalibrationComplete c cal => Sys2Proof.Machine.execTileCalibrationComplete c cal s
  | .linkEyeMeasure c p width height islandTemp ser => Sys2Proof.Machine.execLinkEyeMeasure c p width height islandTemp ser s
  | .linkRecalStart c p answer => Sys2Proof.Machine.execLinkRecalStart c p answer s
  | .linkRecalRequest c a => Sys2Proof.Machine.execLinkRecalRequest c a s
  | .linkRecalRetry c p answer => Sys2Proof.Machine.execLinkRecalRetry c p answer s
  | .linkRecalForced c p answer => Sys2Proof.Machine.execLinkRecalForced c p answer s
  | .productDescriptor c job => Sys2Proof.Machine.execProductDescriptor c job s
  | .engineTileComplete c job tile => Sys2Proof.Machine.execEngineTileComplete c job tile s
  | .transposeDescriptor c job => Sys2Proof.Machine.execTransposeDescriptor c job s
  | .rowDescriptor c job => Sys2Proof.Machine.execRowDescriptor c job s
  | .rasterDescriptor c job => Sys2Proof.Machine.execRasterDescriptor c job s
  | .accumulateWrite c burst mask increments => Sys2Proof.Machine.execAccumulateWrite c burst mask increments s
  | .readClear c burst => Sys2Proof.Machine.execReadClear c burst s
  | .clear c addr length => Sys2Proof.Machine.execClear c addr length s
  | .weightDescriptor c job => Sys2Proof.Machine.execWeightDescriptor c job s
  | .weightRelease c job => Sys2Proof.Machine.execWeightRelease c job s
  | .versionBuild c => Sys2Proof.Machine.execVersionBuild c s
  | .programLoad c job => Sys2Proof.Machine.execProgramLoad c job s
  | .programEntryStart c entry => Sys2Proof.Machine.execProgramEntryStart c entry s
  | .descriptorComplete c job => Sys2Proof.Machine.execDescriptorComplete c job s
  | .stashOut c job => Sys2Proof.Machine.execStashOut c job s
  | .stashOutResume c => Sys2Proof.Machine.execStashOutResume c s
  | .stashIn c job => Sys2Proof.Machine.execStashIn c job s
  | .recomputeDescriptor c job => Sys2Proof.Machine.execRecomputeDescriptor c job s
  | .numericsModeWrite path c value => Sys2Proof.Machine.execNumericsModeWrite path c value s
  | .silenceWatchWrite path c offset data => Sys2Proof.Machine.execSilenceWatchWrite path c offset data s
  | .signalDetected c p => Sys2Proof.Machine.execSignalDetected c p s
  | .trainingRateSwitch c p => Sys2Proof.Machine.execTrainingRateSwitch c p s
  | .pmdTrainingComplete c p locked => Sys2Proof.Machine.execPmdTrainingComplete c p locked s
  | .capabilityMessage c a cap => Sys2Proof.Machine.execCapabilityMessage c a cap s
  | .discoveryTimeout c p => Sys2Proof.Machine.execDiscoveryTimeout c p s
  | .trainingRetry c p => Sys2Proof.Machine.execTrainingRetry c p s
  | .dataFlit c p f => Sys2Proof.Machine.execDataFlit c p f s
  | .idleFlit c p f => Sys2Proof.Machine.execIdleFlit c p f s
  | .badFlit c p why => Sys2Proof.Machine.execBadFlit c p why s
  | .replayTimeout c p => Sys2Proof.Machine.execReplayTimeout c p s
  | .fastRetrainEnd c p => Sys2Proof.Machine.execFastRetrainEnd c p s
  | .fastRetrainTimeout c p => Sys2Proof.Machine.execFastRetrainTimeout c p s
  | .ticketReturnTimer c p => Sys2Proof.Machine.execTicketReturnTimer c p s
  | .packetStart c p => Sys2Proof.Machine.execPacketStart c p s
  | .packetForward c pkt => Sys2Proof.Machine.execPacketForward c pkt s
  | .dataPacket c pkt => Sys2Proof.Machine.execDataPacket c pkt s
  | .unknownPacketType c p pkt => Sys2Proof.Machine.execUnknownPacketType c p pkt s
  | .segAck c pkt => Sys2Proof.Machine.execSegAck c pkt s
  | .segAckTimer c seg => Sys2Proof.Machine.execSegAckTimer c seg s
  | .e2eTimeout c seg seq => Sys2Proof.Machine.execE2eTimeout c seg seq s
  | .unreachable c pkt => Sys2Proof.Machine.execUnreachable c pkt s
  | .linkFailure c p lossOfLock => Sys2Proof.Machine.execLinkFailure c p lossOfLock s
  | .goodbye c a => Sys2Proof.Machine.execGoodbye c a s
  | .goodbyeWaitEnd c => Sys2Proof.Machine.execGoodbyeWaitEnd c s
  | .portEnableWrite path c p value => Sys2Proof.Machine.execPortEnableWrite path c p value s
  | .planWrite path c p value => Sys2Proof.Machine.execPlanWrite path c p value s
  | .moduleNumberWrite path value => Sys2Proof.Machine.execModuleNumberWrite path value s
  | .uplinkNotice c a notice => Sys2Proof.Machine.execUplinkNotice c a notice s
  | .groupDescriptor c job => Sys2Proof.Machine.execGroupDescriptor c job s
  | .groupRelease c job => Sys2Proof.Machine.execGroupRelease c job s
  | .groupFree c group => Sys2Proof.Machine.execGroupFree c group s
  | .join c pkt => Sys2Proof.Machine.execJoin c pkt s
  | .joinRepeat c group => Sys2Proof.Machine.execJoinRepeat c group s
  | .blockReady c pkt => Sys2Proof.Machine.execBlockReady c pkt s
  | .admitMsg c pkt => Sys2Proof.Machine.execAdmitMsg c pkt s
  | .refuse c pkt => Sys2Proof.Machine.execRefuse c pkt s
  | .groupFormTimeout c group => Sys2Proof.Machine.execGroupFormTimeout c group s
  | .heartbeatSend c group => Sys2Proof.Machine.execHeartbeatSend c group s
  | .heartbeat c pkt => Sys2Proof.Machine.execHeartbeat c pkt s
  | .ringmasterTimeout c group => Sys2Proof.Machine.execRingmasterTimeout c group s
  | .takeoverRequest c pkt => Sys2Proof.Machine.execTakeoverRequest c pkt s
  | .newEpoch c pkt => Sys2Proof.Machine.execNewEpoch c pkt s
  | .planDescriptor c job => Sys2Proof.Machine.execPlanDescriptor c job s
  | .planRelease c job => Sys2Proof.Machine.execPlanRelease c job s
  | .bucketConvert c group bucket => Sys2Proof.Machine.execBucketConvert c group bucket s
  | .partialPkt c pkt => Sys2Proof.Machine.execPartialPkt c pkt s
  | .slotWaitResume c => Sys2Proof.Machine.execSlotWaitResume c s
  | .param c pkt => Sys2Proof.Machine.execParam c pkt s
  | .bankWriteResume c => Sys2Proof.Machine.execBankWriteResume c s
  | .normPart c pkt => Sys2Proof.Machine.execNormPart c pkt s
  | .norm c pkt => Sys2Proof.Machine.execNorm c pkt s
  | .reduced c pkt => Sys2Proof.Machine.execReduced c pkt s
  | .preparedSend c => Sys2Proof.Machine.execPreparedSend c s
  | .prepared c pkt => Sys2Proof.Machine.execPrepared c pkt s
  | .sealed c pkt => Sys2Proof.Machine.execSealed c pkt s
  | .digestUp c pkt => Sys2Proof.Machine.execDigestUp c pkt s
  | .digestDown c pkt => Sys2Proof.Machine.execDigestDown c pkt s
  | .recorded c pkt => Sys2Proof.Machine.execRecorded c pkt s
  | .commit c pkt => Sys2Proof.Machine.execCommit c pkt s
  | .abort c pkt => Sys2Proof.Machine.execAbort c pkt s
  | .stepTimeout c => Sys2Proof.Machine.execStepTimeout c s
  | .statusQuery c pkt => Sys2Proof.Machine.execStatusQuery c pkt s
  | .status c pkt => Sys2Proof.Machine.execStatus c pkt s
  | .statusQueryTimeout c => Sys2Proof.Machine.execStatusQueryTimeout c s
  | .barrierDescriptor c job => Sys2Proof.Machine.execBarrierDescriptor c job s
  | .barrierArrive c pkt => Sys2Proof.Machine.execBarrierArrive c pkt s
  | .barrierRelease c pkt => Sys2Proof.Machine.execBarrierRelease c pkt s
  | .replicaDescriptor c job => Sys2Proof.Machine.execReplicaDescriptor c job s
  | .replicaRelease c job => Sys2Proof.Machine.execReplicaRelease c job s
  | .replica c pkt => Sys2Proof.Machine.execReplica c pkt s
  | .replicaEnd c pkt => Sys2Proof.Machine.execReplicaEnd c pkt s
  | .replicaVerified c pkt => Sys2Proof.Machine.execReplicaVerified c pkt s
  | .secure c pkt => Sys2Proof.Machine.execSecure c pkt s
  | .secured c pkt => Sys2Proof.Machine.execSecured c pkt s
  | .unwind c pkt => Sys2Proof.Machine.execUnwind c pkt s
  | .memberHeartbeatTimeout c rank => Sys2Proof.Machine.execMemberHeartbeatTimeout c rank s
  | .memberLost c pkt => Sys2Proof.Machine.execMemberLost c pkt s
  | .spareClaim c pkt => Sys2Proof.Machine.execSpareClaim c pkt s
  | .spareAccept c pkt => Sys2Proof.Machine.execSpareAccept c pkt s
  | .spareClaimTimeout c => Sys2Proof.Machine.execSpareClaimTimeout c s
  | .spareRescan c => Sys2Proof.Machine.execSpareRescan c s
  | .replace c pkt => Sys2Proof.Machine.execReplace c pkt s
  | .fillDescriptor c job => Sys2Proof.Machine.execFillDescriptor c job s
  | .fillRequest c pkt => Sys2Proof.Machine.execFillRequest c pkt s
  | .paramResend c pkt => Sys2Proof.Machine.execParamResend c pkt s
  | .filled c pkt => Sys2Proof.Machine.execFilled c pkt s
  | .rebuilt c pkt => Sys2Proof.Machine.execRebuilt c pkt s
  | .shardsLost c pkt => Sys2Proof.Machine.execShardsLost c pkt s
  | .withdraw path c value => Sys2Proof.Machine.execWithdraw path c value s
  | .resetDescriptor c job => Sys2Proof.Machine.execResetDescriptor c job s
  | .resetMsg c pkt => Sys2Proof.Machine.execResetMsg c pkt s
  | .resetDone c pkt => Sys2Proof.Machine.execResetDone c pkt s
  | .resetRelease c pkt => Sys2Proof.Machine.execResetRelease c pkt s
  | .contextEnable c x priority => Sys2Proof.Machine.execContextEnable c x priority s
  | .contextDrain c x priority => Sys2Proof.Machine.execContextDrain c x priority s
  | .sqTail c x value => Sys2Proof.Machine.execSqTail c x value s
  | .cqHead c x value => Sys2Proof.Machine.execCqHead c x value s
  | .eventHead c value => Sys2Proof.Machine.execEventHead c value s
  | .eventControlWrite c value => Sys2Proof.Machine.execEventControlWrite c value s
  | .entryFetch c => Sys2Proof.Machine.execEntryFetch c s
  | .fence c job => Sys2Proof.Machine.execFence c job s
  | .abandon c job => Sys2Proof.Machine.execAbandon c job s
  | .nop c job => Sys2Proof.Machine.execNop c job s
  | .invalidEntry c job => Sys2Proof.Machine.execInvalidEntry c job s
  | .coalesceTimeout c x => Sys2Proof.Machine.execCoalesceTimeout c x s
  | .hostTransfer c job => Sys2Proof.Machine.execHostTransfer c job s
  | .moverPiece hostData => Sys2Proof.Machine.execMoverPiece hostData s
  | .rcRegisterRead reg => Sys2Proof.Machine.execRcRegisterRead reg s
  | .registerWrite offset wide value => Sys2Proof.Machine.execRegisterWrite offset wide value s
  | .odRead path index sub offset length => Sys2Proof.Machine.execOdRead path index sub offset length s
  | .odWrite path index sub offset data => Sys2Proof.Machine.execOdWrite path index sub offset data s
  | .authenticate path data => Sys2Proof.Machine.execAuthenticate path data s
  | .authLockoutEnd mailbox => Sys2Proof.Machine.execAuthLockoutEnd mailbox s
  | .drop path => Sys2Proof.Machine.execDrop path s
  | .subscribe path data => Sys2Proof.Machine.execSubscribe path data s
  | .challengeRead path => Sys2Proof.Machine.execChallengeRead path s
  | .challengeExpiry path => Sys2Proof.Machine.execChallengeExpiry path s
  | .hello client => Sys2Proof.Machine.execHello client s
  | .sessionInit client version part body => Sys2Proof.Machine.execSessionInit client version part body s
  | .sessionInitPartTimeout => Sys2Proof.Machine.execSessionInitPartTimeout s
  | .request f => Sys2Proof.Machine.execRequest f s
  | .notifyAck f => Sys2Proof.Machine.execNotifyAck f s
  | .notifyResend session => Sys2Proof.Machine.execNotifyResend session s
  | .keepalive f => Sys2Proof.Machine.execKeepalive f s
  | .close f => Sys2Proof.Machine.execClose f s
  | .sessionIdleTimeout session => Sys2Proof.Machine.execSessionIdleTimeout session s
  | .migerFrameDiscarded client why => Sys2Proof.Machine.execMigerFrameDiscarded client why s
  | .coreWatchdog c core => Sys2Proof.Machine.execCoreWatchdog c core s
  | .fwStage path c => Sys2Proof.Machine.execFwStage path c s
  | .fwVerifyComplete c => Sys2Proof.Machine.execFwVerifyComplete c s
  | .fwWriteComplete c ok => Sys2Proof.Machine.execFwWriteComplete c ok s
  | .fwActivate path c => Sys2Proof.Machine.execFwActivate path c s
  | .fwConfirm path c => Sys2Proof.Machine.execFwConfirm path c s
  | .reboot path c => Sys2Proof.Machine.execReboot path c s
  | .trialTimeout c => Sys2Proof.Machine.execTrialTimeout c s
  | .portImage path offset data => Sys2Proof.Machine.execPortImage path offset data s
  | .portStage path => Sys2Proof.Machine.execPortStage path s
  | .portActivate path => Sys2Proof.Machine.execPortActivate path s
  | .portConfirm path => Sys2Proof.Machine.execPortConfirm path s
  | .servicePolicyWrite path which value => Sys2Proof.Machine.execServicePolicyWrite path which value s
  | .recoveryImage path c offset data => Sys2Proof.Machine.execRecoveryImage path c offset data s
  | .fwKeyRevoke path c value => Sys2Proof.Machine.execFwKeyRevoke path c value s
  | .attestNonce path c nonce => Sys2Proof.Machine.execAttestNonce path c nonce s
  | .attestReportSigned c => Sys2Proof.Machine.execAttestReportSigned c s
  | .installerSecret path secret => Sys2Proof.Machine.execInstallerSecret path secret s
  | .auditFlush c => Sys2Proof.Machine.execAuditFlush c s
  | .debugEnable path c value => Sys2Proof.Machine.execDebugEnable path c value s
  | .selfTestCommand path c value => Sys2Proof.Machine.execSelfTestCommand path c value s
  | .selfTestComplete c failUnit restored => Sys2Proof.Machine.execSelfTestComplete c failUnit restored s
  | .internalFault c => Sys2Proof.Machine.execInternalFault c s
  | .linkRecalibrationComplete c p ok width height => Sys2Proof.Machine.execLinkRecalibrationComplete c p ok width height s
  | .busMasterEnable value => Sys2Proof.Machine.execBusMasterEnable value s
  | .latchClosed slot => Sys2Proof.Machine.execLatchClosed slot s
  | .malformedRequest path => Sys2Proof.Machine.execMalformedRequest path s

end Sys2Proof.Machine
end

