-- ==== Sys2Proof/Safety.lean ====
section
/-!
DEFINITION. The terms in which the claims of this model are said: the canonical form of the memories, and how a state
compares with another one outside the parts that a command writes.
-/

namespace Sys2Proof.Machine

/-- Every channel's memory is in its canonical form (log entry 7). -/
def State.memOk (s : State) : Prop := ∀ c : Chan, Memory.wf (s.chan c).mem = true

/-- No field fuse of a die is undone: revocation bits stay, and the two counts do not fall (R494, R503, R504, R521). -/
def Firmware.fusesKept (f g : Firmware) : Prop :=
  (∀ k, f.revoked.testBit k = true → g.revoked.testBit k = true) ∧ f.securityMin ≤ g.securityMin ∧ f.debugCount ≤ g.debugCount

/-- No field fuse of the module is undone. -/
def State.fusesKept (s t : State) : Prop :=
  s.module.fw.fusesKept t.module.fw ∧ ∀ c : Chan, (s.chan c).fw.fusesKept (t.chan c).fw

/-- The fuses of a die are as Table 18.1 has them: four revocation bits of which one slot is left, and at most 16 debug
enables (R503, R521). -/
def Firmware.fusesOk (f : Firmware) : Prop := f.revoked < 15 ∧ f.debugCount ≤ 16

/-- The fuses of every die are as Table 18.1 has them. -/
def State.fusesOk (s : State) : Prop := s.module.fw.fusesOk ∧ ∀ c : Chan, (s.chan c).fw.fusesOk

/-- Nothing of a channel but the parts named by `f` differs: the other channels and the module are as they were. -/
def State.onlyChan (s t : State) (c : Chan) : Prop :=
  t.module = s.module ∧ ∀ d : Chan, d ≠ c → t.chan d = s.chan d

/-- Every byte of a channel's memory outside [a, a + n) reads as before. -/
def Channel.keepsOutside (h g : Channel) (a n : Nat) : Prop :=
  ∀ k : Nat, (k < a ∨ a + n ≤ k) → g.byte k = h.byte k

/-- Every byte of every channel's memory reads as before. -/
def State.keepsMemory (s t : State) : Prop := ∀ (c : Chan) (k : Nat), (t.chan c).byte k = (s.chan c).byte k

/-! ### The terms of the obligations -/

/-- Job `j` is taken up as `x`: it holds `x`, loaded before, or it holds nothing and `loaded` says that it loads `x` now (R200). -/
def Job.takesUp (j : Job) (x : Held) (loaded : Prop) : Prop := j.phase = .held x ∨ ((∀ y, j.phase ≠ .held y) ∧ loaded)

/-- `t` is what taking up job `j` as `x` gives: its work `go` where it starts or has started, a wait, or a refusal (R156, R162, R235,
R240). -/
def State.startsAs (s : State) (c : Chan) (j : Job) (x : Held) (go : State → State) (t : State) : Prop :=
  ((s.chan c).entryStarted j = true ∧ t = go s) ∨
  ((s.chan c).entryStarted j = false ∧
    ((s.heldWait c j x = .ok none ∧ t = go (s.markStarted c j)) ∨
     (∃ kind key, s.heldWait c j x = .ok (some (kind, key)) ∧ t = s.holdJob c j x kind key) ∨
     ∃ r, s.heldWait c j x = .error r ∧ t = s.refuseJob c j r))

/-- `n` more bytes leave a channel's count of bytes received (word 78 of Table 14.5), a map in canonical form, short of saturation, or
find it saturated. -/
def Channel.bytesRoom (h : Channel) (n : Nat) : Prop :=
  mapWf 0 h.perf.counters = true ∧ (mget 0 78 h.perf.counters = 2 ^ 64 - 1 ∨ mget 0 78 h.perf.counters + n < 2 ^ 64 - 1)

/-- Nothing of a state changes but what raising an event reaches: carousels in memory and their part of the host interface,
the endpoint, the sessions, the dictionary's counters, the drawn counter and the trace. -/
def State.eventsOnly (s t : State) : Prop :=
  t.pending = s.pending ∧
  { t.module with endpoint := s.module.endpoint, sessions := s.module.sessions } = s.module ∧
  ∀ c : Chan, { t.chan c with mem := (s.chan c).mem, storeErr := (s.chan c).storeErr, host := (s.chan c).host } = s.chan c

/-- Channel `c` takes packet `k`, a control message `msg`, as one of a group it holds: `t` is the state once the packet is
taken and its checks have passed, and `g` the group in that state (R304, R340, R373). -/
def State.delivered (s : State) (c : Chan) (k : Packet) (msg : Nat) (exempt : Bool) (t : State) (g : Group) : Prop :=
  k.ptype = 0x05 ∧ k.msg = msg ∧ s.receive c k exempt = (t, true) ∧ (t.chan c).comm k.group = some g

/-- Channel `c` does not take packet `k` as a control message `msg` of a group it holds. -/
def State.undelivered (s : State) (c : Chan) (k : Packet) (msg : Nat) (exempt : Bool) : Prop :=
  ∀ (t : State) (g : Group), ¬ s.delivered c k msg exempt t g

/-- The state once packet `k` has been taken as a control message `msg` and its checks are over, without the message's own effect; a
packet that is no such message is not taken. -/
def State.taken (s : State) (c : Chan) (k : Packet) (msg : Nat) (exempt : Bool) : State :=
  if k.ptype = 0x05 ∧ k.msg = msg then (s.receive c k exempt).1 else s

/-- A request to write passes the checks of R431 and R478: the path is open, the entry `r` exists and may be written by the
role of the path, and the value is of its type and range; `who` serves the entry. -/
def State.passes (s : State) (p : ReqPath) (index sub offset : Nat) (data : List Byte) (who : Option Chan) (r : OdRow) : Prop :=
  s.pathOpen p = true ∧ s.requestCheck p true index sub data.length = (0, some r) ∧
  r.writeStatus index sub offset data = 0 ∧ servedBy index = some who

/-- What follows an accepted write: with `u` what the entry's own rule made of `s`, the write is recorded in the audit log of
the core that serves the entry and answered with status 0x00 (R432, R478, R517). -/
def State.answered (s u : State) (p : ReqPath) (index sub offset : Nat) (data : List Byte) (who : Option Chan) (r : OdRow) :
    State :=
  (u.auditRecord who ⟨1, s.roleOf p, pathCode p, 0, index, sub, offset, data.length, pathSession p,
    auditValue index sub r.ty data, []⟩).reply p 0 r.ty (entryLength index sub r.ty) offset []

/-- The one channel whose resources a command may change, as Table 1.2 gives them (R19): the channel that a command names, or
none for a command of the module, of the port complex, of a session or of a cartridge that a hand moves. -/
def commandChannel : Instr → Option Chan
  | .modulePowerOn _ _ => none
  | .modulePowerOff => none
  | .supplyFault _ => none
  | .branchFuseOpen c => some c
  | .portComplexRestart _ _ => none
  | .portComplexFailure => none
  | .pcieReset _ => none
  | .pcieLinkUp => none
  | .msixVectorUnmask _ => none
  | .latchOpened slot => some slot.owner
  | .powerCommand _ c _ => some c
  | .powerRampStart _ => none
  | .transitionStepComplete c _ _ => some c
  | .channelStartup c _ => some c
  | .limitTrip _ _ => none
  | .currentTripRecheck _ _ => none
  | .throttleTick _ => none
  | .coreVoltageSet _ c _ => some c
  | .limitRegisterWrite _ _ _ => none
  | .metrologyConversionEnd c _ => some c
  | .epochPulse => none
  | .referenceLost => none
  | .referenceReturned => none
  | .timebaseLowRead c => some c
  | .portTimebaseLowRead => none
  | .perfSnapshot c => some c
  | .snapshotComplete c => some c
  | .arrayLayerExecute c _ => some c
  | .tileReadIssue c => some c
  | .tileReadComplete c _ => some c
  | .vectorDelivery c _ => some c
  | .deferredOutlierServe c => some c
  | .programDescriptor c _ => some c
  | .programRelease c _ => some c
  | .tileProgramStart c => some c
  | .tileProgramComplete c _ _ => some c
  | .factorRefresh c => some c
  | .poweredHour slot => some slot.owner
  | .tileCalibrationStart c => some c
  | .tileCalibrationComplete c _ => some c
  | .linkEyeMeasure c _ _ _ _ _ => some c
  | .linkRecalStart c _ _ => some c
  | .linkRecalRequest c _ => some c
  | .linkRecalRetry c _ _ => some c
  | .linkRecalForced c _ _ => some c
  | .productDescriptor c _ => some c
  | .engineTileComplete c _ _ => some c
  | .transposeDescriptor c _ => some c
  | .rowDescriptor c _ => some c
  | .rasterDescriptor c _ => some c
  | .accumulateWrite c _ _ _ => some c
  | .readClear c _ => some c
  | .clear c _ _ => some c
  | .weightDescriptor c _ => some c
  | .weightRelease c _ => some c
  | .versionBuild c => some c
  | .programLoad c _ => some c
  | .programEntryStart c _ => some c
  | .descriptorComplete c _ => some c
  | .stashOut c _ => some c
  | .stashOutResume c => some c
  | .stashIn c _ => some c
  | .recomputeDescriptor c _ => some c
  | .numericsModeWrite _ c _ => some c
  | .silenceWatchWrite _ c _ _ => some c
  | .signalDetected c _ => some c
  | .trainingRateSwitch c _ => some c
  | .pmdTrainingComplete c _ _ => some c
  | .capabilityMessage c _ _ => some c
  | .discoveryTimeout c _ => some c
  | .trainingRetry c _ => some c
  | .dataFlit c _ _ => some c
  | .idleFlit c _ _ => some c
  | .badFlit c _ _ => some c
  | .replayTimeout c _ => some c
  | .fastRetrainEnd c _ => some c
  | .fastRetrainTimeout c _ => some c
  | .ticketReturnTimer c _ => some c
  | .packetStart c _ => some c
  | .packetForward c _ => some c
  | .dataPacket c _ => some c
  | .unknownPacketType c _ _ => some c
  | .segAck c _ => some c
  | .segAckTimer c _ => some c
  | .e2eTimeout c _ _ => some c
  | .unreachable c _ => some c
  | .linkFailure c _ _ => some c
  | .goodbye c _ => some c
  | .goodbyeWaitEnd c => some c
  | .portEnableWrite _ c _ _ => some c
  | .planWrite _ c _ _ => some c
  | .moduleNumberWrite _ _ => none
  | .uplinkNotice c _ _ => some c
  | .groupDescriptor c _ => some c
  | .groupRelease c _ => some c
  | .groupFree c _ => some c
  | .join c _ => some c
  | .joinRepeat c _ => some c
  | .blockReady c _ => some c
  | .admitMsg c _ => some c
  | .refuse c _ => some c
  | .groupFormTimeout c _ => some c
  | .heartbeatSend c _ => some c
  | .heartbeat c _ => some c
  | .ringmasterTimeout c _ => some c
  | .takeoverRequest c _ => some c
  | .newEpoch c _ => some c
  | .planDescriptor c _ => some c
  | .planRelease c _ => some c
  | .bucketConvert c _ _ => some c
  | .partialPkt c _ => some c
  | .slotWaitResume c => some c
  | .param c _ => some c
  | .bankWriteResume c => some c
  | .normPart c _ => some c
  | .norm c _ => some c
  | .reduced c _ => some c
  | .preparedSend c => some c
  | .prepared c _ => some c
  | .sealed c _ => some c
  | .digestUp c _ => some c
  | .digestDown c _ => some c
  | .recorded c _ => some c
  | .commit c _ => some c
  | .abort c _ => some c
  | .stepTimeout c => some c
  | .statusQuery c _ => some c
  | .status c _ => some c
  | .statusQueryTimeout c => some c
  | .barrierDescriptor c _ => some c
  | .barrierArrive c _ => some c
  | .barrierRelease c _ => some c
  | .replicaDescriptor c _ => some c
  | .replicaRelease c _ => some c
  | .replica c _ => some c
  | .replicaEnd c _ => some c
  | .replicaVerified c _ => some c
  | .secure c _ => some c
  | .secured c _ => some c
  | .unwind c _ => some c
  | .memberHeartbeatTimeout c _ => some c
  | .memberLost c _ => some c
  | .spareClaim c _ => some c
  | .spareAccept c _ => some c
  | .spareClaimTimeout c => some c
  | .spareRescan c => some c
  | .replace c _ => some c
  | .fillDescriptor c _ => some c
  | .fillRequest c _ => some c
  | .paramResend c _ => some c
  | .filled c _ => some c
  | .rebuilt c _ => some c
  | .shardsLost c _ => some c
  | .withdraw _ c _ => some c
  | .resetDescriptor c _ => some c
  | .resetMsg c _ => some c
  | .resetDone c _ => some c
  | .resetRelease c _ => some c
  | .contextEnable c _ _ => some c
  | .contextDrain c _ _ => some c
  | .sqTail c _ _ => some c
  | .cqHead c _ _ => some c
  | .eventHead c _ => some c
  | .eventControlWrite c _ => some c
  | .entryFetch c => some c
  | .fence c _ => some c
  | .abandon c _ => some c
  | .nop c _ => some c
  | .invalidEntry c _ => some c
  | .coalesceTimeout c _ => some c
  | .hostTransfer c _ => some c
  | .moverPiece _ => none
  | .rcRegisterRead _ => none
  | .registerWrite _ _ _ => none
  | .odRead _ _ _ _ _ => none
  | .odWrite _ _ _ _ _ => none
  | .authenticate _ _ => none
  | .authLockoutEnd _ => none
  | .drop _ => none
  | .subscribe _ _ => none
  | .challengeRead _ => none
  | .challengeExpiry _ => none
  | .hello _ => none
  | .sessionInit _ _ _ _ => none
  | .sessionInitPartTimeout => none
  | .request _ => none
  | .notifyAck _ => none
  | .notifyResend _ => none
  | .keepalive _ => none
  | .close _ => none
  | .sessionIdleTimeout _ => none
  | .migerFrameDiscarded _ _ => none
  | .coreWatchdog c _ => some c
  | .fwStage _ c => some c
  | .fwVerifyComplete c => some c
  | .fwWriteComplete c _ => some c
  | .fwActivate _ c => some c
  | .fwConfirm _ c => some c
  | .reboot _ c => some c
  | .trialTimeout c => some c
  | .portImage _ _ _ => none
  | .portStage _ => none
  | .portActivate _ => none
  | .portConfirm _ => none
  | .servicePolicyWrite _ _ _ => none
  | .recoveryImage _ c _ _ => some c
  | .fwKeyRevoke _ c _ => c
  | .attestNonce _ c _ => some c
  | .attestReportSigned c => some c
  | .installerSecret _ _ => none
  | .auditFlush c => c
  | .debugEnable _ c _ => some c
  | .selfTestCommand _ c _ => some c
  | .selfTestComplete c _ _ => some c
  | .internalFault c => some c
  | .linkRecalibrationComplete c _ _ _ _ => some c
  | .busMasterEnable _ => none
  | .latchClosed _ => none
  | .malformedRequest _ => none

end Sys2Proof.Machine
end

