-- ==== Sys2Proof/Certificates/Slice0/Obligations.lean ====
section
/-!
DEFINITION. The statements about this model, one definition for each row of OBLIGATIONS.json.
-/

set_option linter.all false

open Sys2Proof Sys2Proof.Machine

/-- A step runs the command at the front of the queue. For every command i, queue rest l and state s: the step at s with i in
front of l is exec of i at s with the queue l. The queue is the block's form (log entry 1), no rule of the spec. Derived from
20_electrical_and_mechanical.md, 14_host_interface.md. -/
def Obligations.StepRunsFrontCommand : Prop :=
  ∀ (i : Instr) (l : List Instr) (s : State),
    step { s with pending := i :: l } = exec i { s with pending := l }

/-- On an empty queue a step lets 10 ns pass (the model's choice, log entry 1). With an empty queue the step answers the state
one tick later. The timebase of the port complex advances by one while the module is on, that of each channel that is up
advances by one, and no other clock field changes; an unpowered module does not change. That an empty queue ticks is a DESIGN
CHOICE, log entry 1; that a timebase advances by one at each edge is R55. Derived from 02_self_timed_logic.md. -/
def Obligations.EmptyQueueTicks : Prop :=
  ∀ s : State, s.pending = [] →
    step s = .next s.tick ∧ (s.module.on = false → s.tick = s) ∧
    (s.module.on = true →
      s.tick.module.clock = { s.module.clock with timebase := s.module.clock.timebase + 1 } ∧
      ∀ c : Chan, (s.tick.chan c).clock =
        (if (s.chan c).up then { (s.chan c).clock with timebase := (s.chan c).clock.timebase + 1 } else (s.chan c).clock))

/-- What reset leaves. At reset the module is off and its port complex has not started; every channel is in P4 with target P4,
not safe, not ready, with no supply to its cartridges; its contexts, layer table, weight table, stash, fold table, plans,
groups, replica and program are empty; every entry of the object dictionary is at its default and no command waits. The
queue, the drawn counter and the trace are the model's own (log entries 1, 5, 8). Derived from 19_reset_and_self_test.md,
01_module_and_channels.md, 13_safety_net.md. -/
def Obligations.ResetState : Prop :=
  State.reset.pending = [] ∧ State.reset.od = [] ∧ State.reset.module.on = false ∧ State.reset.module.alive = false ∧
    State.reset.module.sessions = [] ∧ State.reset.module.endpoint.linkUp = false ∧
    ∀ c : Chan,
      (State.reset.chan c).power.state = .p4 ∧ (State.reset.chan c).power.target = .p4 ∧
      (State.reset.chan c).power.inTransition = false ∧ (State.reset.chan c).power.safeCause = 0 ∧
      (State.reset.chan c).power.ready = false ∧ (State.reset.chan c).power.cartSupply = false ∧
      (State.reset.chan c).host.contexts = [] ∧ (State.reset.chan c).host.events.control = 0 ∧
      (State.reset.chan c).jobs = [] ∧
      (State.reset.chan c).training.weights = [] ∧ (State.reset.chan c).training.program = none ∧
      (State.reset.chan c).training.stash = [] ∧ (State.reset.chan c).training.watches = [] ∧
      (State.reset.chan c).arrays.layers = [] ∧ (State.reset.chan c).arrays.folds = [] ∧
      (State.reset.chan c).coll.plans = [] ∧ (State.reset.chan c).groups = [] ∧
      (State.reset.chan c).safety.replica = none ∧ (State.reset.chan c).clock.status = TbStatus.reset ∧
      (State.reset.chan c).audit.records = []

/-- The reset state meets the invariants. At reset every channel's memory is in its canonical form (rising addresses, no byte
equal to what an unlisted address reads as; log entry 7), and the fuses of every die are as Table 18.1 lets them be. Derived
from 18_security_and_roles.md, 07_digital_engines.md. -/
def Obligations.ResetMeetsInvariants : Prop :=
  State.reset.memOk ∧ State.reset.fusesOk

/-- Every step keeps the canonical form of every memory. From every state whose four memories are in canonical form, not only
from those that a run reaches, a step that answers a next state gives one whose four memories are in that form. The form is
the model's (log entry 7): it makes equal memories equal data. Derived from 07_digital_engines.md. -/
def Obligations.MemoryFormKept : Prop :=
  ∀ s t : State, s.memOk → step s = .next t → t.memOk

/-- No command changes the queue. For every command, when exec answers a next state, its queue of waiting commands is the one
before: only the step takes from it. Derived from 14_host_interface.md. -/
def Obligations.CommandsLeaveQueue : Prop :=
  ∀ (i : Instr) (s t : State), exec i s = .next t → t.pending = s.pending

/-- No step undoes a fuse, and the fuses stay within Table 18.1. Across every step from every state: a revocation bit that is
blown stays blown, and the fused security version and the debug count do not fall, for the port complex and for each channel.
If at least one FW_KEY slot is left and at most 16 debug enables are blown before the step, so it is after it. Derived from
18_security_and_roles.md. -/
def Obligations.FusesOnlyAdded : Prop :=
  ∀ s t : State, step s = .next t → s.fusesKept t ∧ (s.fusesOk → t.fusesOk)

/-- A command of one channel changes nothing of the other three. For every command that names one channel (171 of the 219), every
state and every outcome that is a next state: each of the other three channels, its memories, arrays, links, groups, clock,
power, firmware and logs, is the one before. It says of writing what R19 says (no other channel reads, writes, powers or
resets what a channel owns). The commands of the module, the port complex, a session or the hand that fits a cartridge are
not of one channel (commandChannel lists them). Derived from 01_module_and_channels.md. -/
def Obligations.ChannelsKeptApart : Prop :=
  ∀ (i : Instr) (c : Chan) (s t : State), commandChannel i = some c → exec i s = .next t →
    ∀ d : Chan, d ≠ c → t.chan d = s.chan d

/-- What raising an event leaves unchanged. An event of a channel or of the port complex reaches carousels, the event FIFO, MSI-X
vectors, sessions and the counters of dropped records alone: the module's power, clock, logs, firmware and credentials, and
of every channel all but its memory, its store errors and its host part, stay as they were; the memory of the other channels
is untouched by an event of a channel. Derived from 14_host_interface.md, 17_object_dictionary.md. -/
def Obligations.EventLeavesTheRest : Prop :=
  ∀ (s : State) (code : Nat) (data : List Byte),
    (∀ c : Chan, s.eventsOnly (s.raise c code data) ∧
      ∀ d : Chan, d ≠ c → ((s.raise c code data).chan d).mem = (s.chan d).mem) ∧
    (∀ c : Nat, s.eventsOnly (s.raisePort c code data) ∧
      ∀ d : Chan, ((s.raisePort c code data).chan d) = s.chan d)

/-- A read of TIMEBASE_LOW returns the low half and latches the high half. For a channel that is served: TIMEBASE_LOW_READ
returns bits [31:0] of its timebase, its TIMEBASE_HIGH then holds bits [63:32], and nothing else but the trace of answers
changes. A read of TIMEBASE_HIGH (offset 0x0C) returns what is latched. The same of the port complex with PORT_TIMEBASE_LOW,
and a channel that is not served answers all ones. Formalises R60. -/
def Obligations.TimebaseLowRead : Prop :=
  (∀ (c : Chan) (s : State), s.hostReaches = true → s.available c = true →
    exec (.timebaseLowRead c) s = .next ((s.onChan c (fun h => { h with clock :=
      { (s.chan c).clock with high := (s.chan c).clock.timebase.extractLsb' 32 32 } })).emit
        (.readData (((s.chan c).clock.timebase.extractLsb' 0 32).setWidth 64)))) ∧
  (∀ (c : Chan) (s : State), s.available c = true → s.readChannelWord c 0x0C = (s.chan c).clock.high.toNat) ∧
  (∀ (c : Chan) (s : State), s.hostReaches = true → s.available c = false →
    exec (.timebaseLowRead c) s = .next (s.emit (.readData 0xFFFFFFFF#64))) ∧
  (∀ s : State, s.hostReaches = true →
    exec .portTimebaseLowRead s = .next (({ s with module := { s.module with clock :=
      { s.module.clock with high := s.module.clock.timebase.extractLsb' 32 32 } } }).emit
        (.readData ((s.module.clock.timebase.extractLsb' 0 32).setWidth 64))))

/-- An EPOCH pulse loads an armed timebase or checks it against the previous capture. EPOCH_PULSE completes in every state with
the module on. The clock of the port complex, and of each channel that is up, becomes what R56 and R57 give; a channel that
is not up keeps its clock. Of a clock in holdover nothing changes. An armed clock takes EPOCH_LOAD_VALUE as its timebase and
as its capture, LOAD_ARMED and ALIGN_ERROR clear, LOADED is set and LOAD_GENERATION advances. Another clock captures its
timebase, and ALIGN_ERROR is set if it is loaded and the difference from the previous capture is not 100,000,000 ticks.
Derived from 02_self_timed_logic.md. -/
def Obligations.EpochPulseLoadsOrChecks : Prop :=
  (∀ s : State, s.module.on = true → ∃ t : State, exec .epochPulse s = .next t ∧
    t.module.clock = s.module.clock.pulse.1 ∧
    ∀ c : Chan, (t.chan c).clock = (if (s.chan c).up then (s.chan c).clock.pulse.1 else (s.chan c).clock)) ∧
  (∀ k : Clock, k.status.holdover = true → k.pulse.1 = k) ∧
  (∀ k : Clock, k.status.holdover = false → k.status.loadArmed = true →
    k.pulse.1 = ⟨k.epochLoad, ⟨k.status.loadGeneration + 1, false, false, false, k.status.refLost, true⟩, k.epochLoad, k.high,
      some k.epochLoad⟩) ∧
  (∀ k : Clock, k.status.holdover = false → k.status.loadArmed = false →
    k.pulse.1 = { k with capture := some k.timebase, status := { k.status with alignError := k.status.alignError ||
      (match k.capture with
        | some p => k.status.loaded && k.timebase - p != 100000000#64
        | none => false) } })

/-- The loss and the return of the rack reference, and performance snapshots. While the reference runs, REFERENCE_LOST marks it
absent; on a module that is on, the clock of the port complex goes to holdover with REF_LOST and event 0x0012, and so does
every channel that is up. REFERENCE_RETURNED marks it present; holdover ends with ALIGN_ERROR and event 0x0013. On a module
that is off only the mark changes. PERF_SNAPSHOT on a served channel that is not busy stores the words of Table 14.5, with
word 0 the timebase and word 1 LOAD_GENERATION, and sets SNAPSHOT_BUSY, and nothing else changes; while it is 1 the write
changes nothing. SNAPSHOT_COMPLETE clears it and changes nothing else. Derived from 02_self_timed_logic.md,
14_host_interface.md. -/
def Obligations.ReferenceLossAndSnapshots : Prop :=
  (∀ s : State, s.module.refPresent = true → s.module.on = true →
    exec .referenceLost s = .next
      ((({ s with module := { s.module with refPresent := false } }).portClock s.module.clock.lost
        (some (0x0012, leBytes 8 s.module.clock.timebase.toNat))).eachUp (fun s c =>
          s.chanClock c (s.chan c).clock.lost (some (0x0012, leBytes 8 (s.chan c).clock.timebase.toNat))))) ∧
  (∀ s : State, s.module.refPresent = false → s.module.on = true →
    exec .referenceReturned s = .next
      ((({ s with module := { s.module with refPresent := true } }).portClock s.module.clock.returned
        (some (0x0013, leBytes 8 s.module.clock.timebase.toNat))).eachUp (fun s c =>
          s.chanClock c (s.chan c).clock.returned (some (0x0013, leBytes 8 (s.chan c).clock.timebase.toNat))))) ∧
  (∀ s : State, s.module.refPresent = true → s.module.on = false →
    exec .referenceLost s = .next { s with module := { s.module with refPresent := false } }) ∧
  (∀ s : State, s.module.refPresent = false → s.module.on = false →
    exec .referenceReturned s = .next { s with module := { s.module with refPresent := true } }) ∧
  (∀ k : Clock, k.lost.status.holdover = true ∧ k.lost.status.refLost = true ∧ k.lost.timebase = k.timebase ∧
    k.returned.status.holdover = false ∧ k.returned.status.alignError = true ∧ k.returned.timebase = k.timebase) ∧
  (∀ (c : Chan) (s : State), s.hostServed c = true → (s.chan c).perf.busy = false →
    exec (.perfSnapshot c) s = .next (s.onChan c (fun h => { h with perf :=
      { h.perf with snapshot := (s.chan c).captureWords, busy := true } })) ∧
    mget 0 0 (s.chan c).captureWords = (s.chan c).clock.timebase.toNat ∧
    mget 0 1 (s.chan c).captureWords = (s.chan c).clock.status.loadGeneration.toNat) ∧
  (∀ (c : Chan) (s : State), s.hostServed c = true → (s.chan c).perf.busy = true → exec (.perfSnapshot c) s = .next s) ∧
  (∀ (c : Chan) (s : State),
    exec (.snapshotComplete c) s = .next (s.onChan c (fun h => { h with perf := { h.perf with busy := false } })))

/-- Module power-on and power-off. With the module off and an input of 36.0 to 60.0 V, MODULE_POWER_ON resets the volatile module
entries and the shared parts, keeps the port complex's log, firmware and secrets, sets its timebase to 0 and starts it
(R530); where the rack reference is absent, it is first found lost, with event 0x0012 (R58). With the module on,
MODULE_POWER_OFF takes every channel to P4 with its reset power state, but for a branch fuse that is open, and resets the
shared parts (R526, R547); the port complex's keys go with its power. What the log had not stored is a free value (log entry
5). Derived from 19_reset_and_self_test.md, 01_module_and_channels.md. -/
def Obligations.ModulePowerOnAndOff : Prop :=
  (∀ (mv : Nat) (pass : Bool) (s u : State), s.module.on = false → 36000 ≤ mv → mv ≤ 60000 →
    u = { s.resetModuleEntries.drawFree.2 with module := { Module.reset with
      on := true, refPresent := s.module.refPresent,
      audit := s.module.audit.restart portAuditSize (Config.fresh s.free), fw := s.module.fw,
      creds := { s.module.creds with challenge := none } } } →
    (s.module.refPresent = true → exec (.modulePowerOn mv pass) s = .next (u.startPort false pass)) ∧
    (s.module.refPresent = false → exec (.modulePowerOn mv pass) s = .next
      ((u.portClock Clock.reset.lost (some (0x0012, leBytes 8 0))).startPort false pass))) ∧
  (∀ s : State, s.module.on = true → ∃ u : State,
    u = ([0, 1, 2, 3] : List Chan).foldl (fun (s : State) (c : Chan) => (s.goDark c .p4).onPower c (fun p =>
      { Power.reset with fuseClosed := p.fuseClosed })) s.loseRecent ∧
    exec .modulePowerOff s = .next { u with module := { Module.reset with
      refPresent := u.module.refPresent, audit := u.module.audit, fw := { u.module.fw with keys := none }, creds := u.module.creds } })

/-- Module power-on starts the port complex and leaves every channel as it is. With the module off and the input in range,
MODULE_POWER_ON completes with the module on, its timebase at 0 and its queue of power-up requests empty, and every channel
is exactly as before. Derived from 19_reset_and_self_test.md. -/
def Obligations.PowerOnLeavesChannels : Prop :=
  ∀ (mv : Nat) (pass : Bool) (s : State), s.module.on = false → 36000 ≤ mv → mv ≤ 60000 →
    ∃ t : State, exec (.modulePowerOn mv pass) s = .next t ∧ t.module.on = true ∧ t.module.clock.timebase = 0 ∧
      t.module.rampQueue = [] ∧ ∀ c : Chan, t.chan c = s.chan c

/-- Restart and failure of the port complex. While the port complex runs: a restart by its watchdog loses the entries written
less than 10 ms before; one by ACTIVATE needs a trial that is due, one by rollback a running trial, and both close the
sessions first; each then ends host transfers, resets the volatile module entries and starts the port complex again.
PORT_COMPLEX_FAILURE on a module that is on ends transfers and sessions, takes the link away, and leaves every channel in its
present power state: a power-up that waits in the queue is not ramped (R28). Derived from 19_reset_and_self_test.md,
01_module_and_channels.md. -/
def Obligations.PortComplexRestartAndFailure : Prop :=
  (∀ (pass : Bool) (s : State), s.module.on = true → s.module.alive = true →
    exec (.portComplexRestart .watchdog pass) s = .next (s.loseRecent.restartPort pass)) ∧
  (∀ (pass : Bool) (s : State), s.module.on = true → s.module.alive = true → s.module.fw.trial = 1 →
    exec (.portComplexRestart .activate pass) s = .next (s.beforeRestart.restartPort pass)) ∧
  (∀ (pass : Bool) (s : State), s.module.on = true → s.module.alive = true → s.module.fw.state = 4 →
    exec (.portComplexRestart .rollback pass) s = .next (s.beforeRestart.restartPort pass)) ∧
  (∀ s u : State, s.module.on = true →
    u = s.loseRecent.endTransfers.module.rampQueue.foldl (fun (s : State) (c : Chan) =>
      s.onPower c (fun p => { p with inTransition := false, stepTo := p.state })) s.loseRecent.endTransfers →
    exec .portComplexFailure s = .next { u with module := { u.module with
      alive := false, rampQueue := [], sessions := [], initParts := [], endpoint := u.module.endpoint.linkReset } })

/-- A branch fault and a supply fault open fuses. With the module on and the fuse of a channel closed, BRANCH_FUSE_OPEN takes
that channel to P4 with its fuse open and event 0x0020. With the module on, its port complex alive, and an input of 36.0 V or
more that lies below 39.0 V or above 60.0 V, SUPPLY_FAULT opens all four fuses, advances SUPPLY_FAULTS and raises event
0x0095 with 0 for low and 1 for high and the voltage. Otherwise neither changes anything: a port complex that has failed
leaves every channel in its power state (R28; log entry 110). Derived from 01_module_and_channels.md,
16_power_and_metrology.md. -/
def Obligations.PowerLossOpensFuses : Prop :=
  (∀ (c : Chan) (s : State), s.module.on = true → (s.chan c).power.fuseClosed = true →
    exec (.branchFuseOpen c) s = .next (((s.cutBranch c).raisePort c.val 0x0020 (leBytes 1 c.val)).watchDegraded s)) ∧
  (∀ (mv : Nat) (s : State), s.module.on = true → s.module.alive = true → 36000 ≤ mv → (mv < 39000 ∨ 60000 < mv) →
    exec (.supplyFault mv) s = .next
      ((((([0, 1, 2, 3] : List Chan).foldl (fun (s : State) (c : Chan) => s.cutBranch c) s).bumpPort (odKey 0x2800 0x20)).raisePort 0 0x0095
        (leBytes 1 (if mv < 39000 then 0 else 1) ++
          leBytes 4 (w32 (Fp.divRound fp32 .nearest (Fp.ofInt mv) (Fp.ofInt 1000))))).watchDegraded s)) ∧
  (∀ (c : Chan) (s : State), s.module.on = false ∨ (s.chan c).power.fuseClosed = false → exec (.branchFuseOpen c) s = .next s) ∧
  (∀ (mv : Nat) (s : State), s.module.on = false ∨ s.module.alive = false ∨ mv < 36000 ∨ (39000 ≤ mv ∧ mv ≤ 60000) →
    exec (.supplyFault mv) s = .next s)

/-- A branch fault takes one channel to P4 and leaves the others as they are. With the module on and the fuse of channel c
closed, BRANCH_FUSE_OPEN completes; in the next state channel c is in P4 with an open fuse, no supply to its cartridges,
READY 0, no job, no program and an empty memory, and every other channel is exactly as before. Derived from
01_module_and_channels.md. -/
def Obligations.BranchFaultStaysInItsChannel : Prop :=
  ∀ (c : Chan) (s : State), s.module.on = true → (s.chan c).power.fuseClosed = true →
    ∃ t : State, exec (.branchFuseOpen c) s = .next t ∧
      (t.chan c).power.state = .p4 ∧ (t.chan c).power.fuseClosed = false ∧ (t.chan c).power.cartSupply = false ∧
      (t.chan c).power.ready = false ∧ (t.chan c).jobs = [] ∧ (t.chan c).training.program = none ∧ (t.chan c).mem = [] ∧
      ∀ d : Chan, d ≠ c → t.chan d = s.chan d

/-- Limit trips, watchdogs and internal faults put a channel into its safe state. A junction trip of a channel that is up, in its
safe state or not, a cartridge trip of a powered slot of it, and an input-current trip of the channel with the highest branch
current (a free value, log entry 6) set the TRIPPED bit, count, raise 0x0094 and enter the safe state with cause 1;
CURRENT_TRIP_RECHECK above the trip value trips the next one. CORE_WATCHDOG on a channel that is up counts, raises 0x00B5
with the core and enters the safe state with cause 2. INTERNAL_FAULT enters it with cause 8. Of a channel that is not up, a
slot without supply or cartridge, or a module that is off, a trip changes nothing. Derived from 16_power_and_metrology.md,
15_firmware.md, 19_reset_and_self_test.md. -/
def Obligations.ProtectionTrips : Prop :=
  (∀ (c : Chan) (v : Word) (s : State), (s.chan c).up = true →
    exec (.limitTrip (.junction c) v) s = .next ((s.trip c 1 0xFF v).watchDegraded s)) ∧
  (∀ (x : Slot) (v : Word) (s : State), (s.chan x.owner).up = true →
    (s.chan x.owner).power.cartSupply = true → ((s.chan x.owner).slot x.side.val).present = true →
    exec (.limitTrip (.cartridge x) v) s = .next ((s.trip x.owner 2 x.side.val v).watchDegraded s)) ∧
  (∀ (v : Word) (s : State), s.module.on = true →
    exec (.limitTrip .inputCurrent v) s = .next (s.currentTrip v) ∧
    exec (.currentTripRecheck true v) s = .next (s.currentTrip v)) ∧
  (∀ (v : Word) (s : State), exec (.currentTripRecheck false v) s = .next s) ∧
  (∀ (b : Bool) (v : Word) (s : State), s.module.on = false →
    exec (.limitTrip .inputCurrent v) s = .next s ∧ exec (.currentTripRecheck b v) s = .next s) ∧
  (∀ (c : Chan) (k : CoreKind) (v : Word) (s : State), (s.chan c).up = false →
    exec (.limitTrip (.junction c) v) s = .next s ∧ exec (.coreWatchdog c k) s = .next s) ∧
  (∀ (x : Slot) (v : Word) (s : State), (s.chan x.owner).up = false ∨ (s.chan x.owner).power.cartSupply = false ∨
    ((s.chan x.owner).slot x.side.val).present = false → exec (.limitTrip (.cartridge x) v) s = .next s) ∧
  (∀ (c : Chan) (k : CoreKind) (s : State), (s.chan c).up = true →
    exec (.coreWatchdog c k) s = .next ((((s.bump c (kFw c 0x22)).raise c 0x00B5
      (leBytes 1 (coreCode k).1 ++ leBytes 1 (coreCode k).2)).enterSafe c 2).watchDegraded s)) ∧
  (∀ (c : Chan) (s : State), exec (.internalFault c) s = .next ((s.enterSafe c 8).watchDegraded s))

/-- What a channel that enters its safe state is left with. A channel that is up and not yet safe, on an internal fault: the next
state has SAFE with cause 8, READY 0, no transition and no start-up under way, nothing waiting for calibration or training,
the cartridge supply removed, no cell programming and no calibration, and the core rail at 600 mV; the channel is out of the
power sequencer's queue. On a channel that is not up, or already safe, only a change of the degraded state could follow, and
none does: the state is the same. Derived from 19_reset_and_self_test.md. -/
def Obligations.SafeStateEntered : Prop :=
  (∀ (c : Chan) (s : State), (s.chan c).up = true → (s.chan c).safe = false →
    ∃ t : State, exec (.internalFault c) s = .next t ∧
      (t.chan c).power.safeCause = 8 ∧ (t.chan c).power.ready = false ∧ (t.chan c).power.inTransition = false ∧
      (t.chan c).power.stepTo = (t.chan c).power.state ∧ (t.chan c).power.waiting = 0 ∧
      (t.chan c).power.booting = none ∧ (t.chan c).power.cartSupply = false ∧ (t.chan c).power.coreMillivolt = 600 ∧
      (t.chan c).arrays.progs = [] ∧ (t.chan c).arrays.cals = [] ∧ t.module.rampQueue.contains c = false) ∧
  (∀ (c : Chan) (s : State), (s.chan c).safe = true ∨ (s.chan c).up = false → exec (.internalFault c) s = .next s)

/-- One run of the throttle logic. THROTTLE_TICK on a module that is on runs the current kind and then both temperature kinds of
each channel. A kind at or above its throttle loses two sixteenths down to 2 and its quiet count returns to 0; below the
hysteresis each tenth quiet run gives one sixteenth back, up to 16; in between only the quiet count returns to 0. From a
fraction of 2 to 16 and a quiet count of at most 9 every run gives the same bounds. Derived from 16_power_and_metrology.md. -/
def Obligations.ThrottleRun : Prop :=
  (∀ (x : ThrottleSample) (s : State), s.module.on = true →
    exec (.throttleTick x) s = .next (([0, 1, 2, 3] : List Chan).foldl (fun (s : State) (c : Chan) =>
      s.throttleChannel c (x.junction.getD c.val 0) (x.slots.getD (2 * c.val) 0) (x.slots.getD (2 * c.val + 1) 0))
      (s.throttleCurrent x.currentMilliamp))) ∧
  (∀ (k : Throttle) (below : Bool), k.run true below = ⟨max (k.f - 2) 2, 0⟩) ∧
  (∀ k : Throttle, k.quiet < 9 → k.run false true = ⟨k.f, k.quiet + 1⟩) ∧
  (∀ k : Throttle, 9 ≤ k.quiet → k.run false true = ⟨min (k.f + 1) 16, 0⟩) ∧
  (∀ k : Throttle, k.run false false = ⟨k.f, 0⟩) ∧
  (∀ (k : Throttle) (atOrAbove below : Bool), 2 ≤ k.f → k.f ≤ 16 → k.quiet ≤ 9 →
    2 ≤ (k.run atOrAbove below).f ∧ (k.run atOrAbove below).f ≤ 16 ∧ (k.run atOrAbove below).quiet ≤ 9)

/-- PCI Express resets, link-up, Bus Master Enable and the unmasking of a vector. While the port complex runs, each of the four
resets ends the host transfers in progress with status 0x03, resets the MSI-X table, the apertures and the mailbox role and
takes the link down. PCIE_LINK_UP brings the link up and fires every pending vector that is unmasked. With the host reaching
BAR0, MSIX_VECTOR_UNMASK clears the mask of its vector and fires it if it is pending, and BUS_MASTER_ENABLE sets the bit and
fires what may go. Derived from 14_host_interface.md, 01_module_and_channels.md. -/
def Obligations.PcieLinkAndVectors : Prop :=
  (∀ (k : PcieReset) (s : State), s.module.on = true → s.module.alive = true →
    exec (.pcieReset k) s = .next (s.endTransfers.onEndpoint Endpoint.linkReset)) ∧
  (∀ s : State, s.module.on = true → s.module.alive = true → s.module.endpoint.linkUp = false →
    exec .pcieLinkUp s = .next (s.onEndpoint (fun e => { e with linkUp := true })).fireAllPending) ∧
  (∀ (v : Fin 2048) (s : State), s.hostReaches = true →
    exec (.msixVectorUnmask v) s = .next ((s.onEndpoint (fun e => { e with
      msix := mset MsixEntry.reset v.val { (mget MsixEntry.reset v.val e.msix) with masked := false } e.msix })).firePending v.val)) ∧
  (∀ (b : Bool) (s : State), s.hostReaches = true →
    exec (.busMasterEnable b) s = .next (s.onEndpoint (fun e => { e with busMaster := b })).fireAllPending) ∧
  (∀ e : Endpoint, e.linkReset.msix = [] ∧ e.linkReset.apertures = [] ∧ e.linkReset.mailbox.role = 0 ∧
    e.linkReset.pending = e.pending ∧ e.linkReset.fifo = e.fifo)

/-- No PCI Express event but the end of a host transfer changes a channel. With no host transfer in progress on any channel, a
PCI Express reset of each kind, PCIE_LINK_UP, MSIX_VECTOR_UNMASK and BUS_MASTER_ENABLE complete and leave all four channels
exactly as they were. Derived from 01_module_and_channels.md, 14_host_interface.md. -/
def Obligations.PcieEventsKeepChannels : Prop :=
  ∀ (i : Instr) (s : State),
    ((∃ k, i = .pcieReset k) ∨ i = .pcieLinkUp ∨ (∃ v, i = .msixVectorUnmask v) ∨ (∃ b, i = .busMasterEnable b)) →
    (∀ c : Chan, (s.chan c).transfer = none) →
    ∃ t : State, exec i s = .next t ∧ ∀ c : Chan, t.chan c = s.chan c

/-- A latch closes and opens. LATCH_CLOSED on an open latch puts a cartridge into the socket with SLOT_STATUS 1; which one is a
free value (DESIGN CHOICE, log entry 11). LATCH_OPENED on a closed latch of an unpowered channel marks it open and ends the
work that needed the cartridge. On a powered one the supply of both slots is removed first, event 0x0022 names the slot and
the channel enters its safe state with cause 3. Derived from 01_module_and_channels.md, 20_electrical_and_mechanical.md. -/
def Obligations.CartridgeLatches : Prop :=
  (∀ (x : Slot) (s : State), ((s.chan x.owner).slot x.side.val).latchClosed = false →
    exec (.latchClosed x) s = .next ((s.drawFree.2.fit x.owner x.side.val (Config.cartridge s.free + 1)).onChan x.owner (fun h =>
      h.setSlot x.side.val { (h.slot x.side.val) with latchClosed := true, present := true, status := 1 }))) ∧
  (∀ (x : Slot) (s u : State), ((s.chan x.owner).slot x.side.val).latchClosed = true →
    (s.chan x.owner).power.cartSupply = false →
    u = s.onChan x.owner (fun h => h.setSlot x.side.val { ((s.chan x.owner).slot x.side.val) with latchClosed := false }) →
    exec (.latchOpened x) s = .next (u.loseWork x.owner x.side.val)) ∧
  (∀ (x : Slot) (s u : State), ((s.chan x.owner).slot x.side.val).latchClosed = true →
    (s.chan x.owner).power.cartSupply = true →
    u = s.onChan x.owner (fun h => h.setSlot x.side.val { ((s.chan x.owner).slot x.side.val) with latchClosed := false }) →
    exec (.latchOpened x) s = .next (((((u.cutSupply x.owner).raiseBoth x.owner 0x0022 (leBytes 1 x.val)).enterSafe x.owner 3).loseWork
      x.owner x.side.val).watchDegraded u))

/-- Power commands, ramps, transition steps and start-ups. POWER_COMMAND that passes the checks of a request and whose rule
accepts the target is recorded and answered. While the port complex is alive, POWER_RAMP_START takes the first channel of the
queue and closes its fuse, or on a short leaves it open with events 0x0021 and 0x00D1, a channel of P3 then in P4; with no
channel waiting, or a port complex that has failed, nothing is ramped (R28). TRANSITION_STEP_COMPLETE ends the step in
progress: P0 to P1, P1 to P0, P1 to P2, P2 to P1, P2 to P3 and P3 to P4, each under the conditions of R456, R457 and Table
16.3. CHANNEL_STARTUP runs the secure boot and then steps 3 to 5 of Table 19.3, or ends in the safe state with cause 5.
Derived from 16_power_and_metrology.md, 19_reset_and_self_test.md, 01_module_and_channels.md. -/
def Obligations.PowerCommandsAndSteps : Prop :=
  (∀ (p : ReqPath) (c : Chan) (v : Byte) (s u : State) (r : OdRow),
    s.passes p 0x2800 (1 + c.val) 0 (leBytes 1 v.toNat) none r → s.commandPower c v.toNat = (u, 0) →
    exec (.powerCommand p c v) s = .next ((s.answered u p 0x2800 (1 + c.val) 0 (leBytes 1 v.toNat) none r).watchDegraded s)) ∧
  (∀ (b : Bool) (s : State), s.module.on = false ∨ s.module.alive = false ∨ s.module.rampQueue = [] →
    exec (.powerRampStart b) s = .next s) ∧
  (∀ (c : Chan) (l : List Chan) (s : State), s.module.rampQueue = c :: l → s.module.on = true → s.module.alive = true →
    exec (.powerRampStart false) s = .next ((s.leaveQueue c).onPower c (fun p => { p with
      fuseClosed := true, booting := some (if (s.chan c).power.state = .p4 then .cold else .warm) })) ∧
    ((s.chan c).power.state = .p3 → exec (.powerRampStart true) s = .next
      (((((s.leaveQueue c).reachDark c .p4 true).onPower c (fun p => { p with
        fuseClosed := false, inTransition := false, stepTo := p.state })).raisePort
          c.val 0x0021 (leBytes 1 c.val)).raisePort c.val 0x00D1 (leBytes 1 1 ++ leBytes 3 0))) ∧
    ((s.chan c).power.state ≠ .p3 → exec (.powerRampStart true) s = .next
      ((((s.leaveQueue c).onPower c (fun p => { p with fuseClosed := false, inTransition := false, stepTo := p.state })).raisePort
        c.val 0x0021 (leBytes 1 c.val)).raisePort c.val 0x00D1 (leBytes 1 1 ++ leBytes 3 0)))) ∧
  (∀ (c : Chan) (a b : AuthAnswer) (s : State), (s.chan c).power.waiting = 0 → (s.chan c).power.inTransition = true →
    s.starting c = false → (s.chan c).safe = false →
    ((s.chan c).power.state = .p0 → (s.chan c).power.stepTo = .p1 → (s.chan c).jobs.any Job.running = false →
      exec (.transitionStepComplete c a b) s = .next
        (((s.onPower c (fun p => { p with coreMillivolt := 600 })).reach c .p1).watchDegraded s)) ∧
    ((s.chan c).power.state = .p1 → (s.chan c).power.stepTo = .p0 → (s.chan c).selfTest = none →
      exec (.transitionStepComplete c a b) s = .next
        (((s.onPower c (fun p => { p with coreMillivolt := s.coreSetting c })).reach c .p0).watchDegraded s)) ∧
    ((s.chan c).power.state = .p1 → (s.chan c).power.stepTo = .p2 → (s.chan c).selfTest = none →
      (s.chan c).arrays.progs = [] → (s.chan c).arrays.cals = [] →
      exec (.transitionStepComplete c a b) s = .next (((s.onChan c Channel.parkSlots).reach c .p2).watchDegraded s)) ∧
    ((s.chan c).power.state = .p2 → (s.chan c).power.stepTo = .p1 →
      exec (.transitionStepComplete c a b) s = .next
        (((((s.powerSlots c a b false).1).onPower c (fun p => { p with waiting := 2 })).settleStart c).watchDegraded s)) ∧
    ((s.chan c).power.state = .p2 → (s.chan c).power.stepTo = .p3 →
      exec (.transitionStepComplete c a b) s = .next (((s.intoP3 c).headFor c).watchDegraded s)) ∧
    ((s.chan c).power.state = .p3 → (s.chan c).power.stepTo = .p4 →
      exec (.transitionStepComplete c a b) s = .next (((s.reachDark c .p4 true).headFor c).watchDegraded s))) ∧
  (∀ (c : Chan) (f : StartupFindings) (kind : StartKind) (s : State), (s.chan c).power.booting = some kind →
    exec (.channelStartup c f) s = .next
      ((if ((s.beginStart c kind).secureBoot (some c)).2.1 then
          (if ((s.beginStart c kind).secureBoot (some c)).2.2 then
            ((s.beginStart c kind).secureBoot (some c)).1.startFailed c 2 0 0
          else ((s.beginStart c kind).secureBoot (some c)).1).startSteps c f
        else (((s.beginStart c kind).secureBoot (some c)).1.startFailed c 2 5 0).enterSafe c 5).watchDegraded s))

/-- Targets that POWER_COMMAND does not accept. A target of 5 or more has status 0x03 and changes nothing. While SAFE reads 1,
targets P0, P1 and P2 have status 0x05, and P3 of a channel in P4 has status 0x05; each raises event 0x0091 with the target
and its reason, and no channel's power state changes. The present state while no transition is in progress and SAFE reads 0
has status 0x00 and no effect. Derived from 16_power_and_metrology.md. -/
def Obligations.PowerTargetsRefused : Prop :=
  (∀ (c : Chan) (v : Nat) (s : State), 5 ≤ v → s.commandPower c v = (s, 0x03)) ∧
  (∀ (c : Chan) (v : Nat) (s : State), v < 3 → (s.chan c).safe = true →
    (s.commandPower c v).2 = 0x05 ∧ ∀ d : Chan, ((s.commandPower c v).1.chan d).power = (s.chan d).power) ∧
  (∀ (c : Chan) (s : State), (s.chan c).power.state = .p4 →
    (s.commandPower c 3).2 = 0x05 ∧ ∀ d : Chan, ((s.commandPower c 3).1.chan d).power = (s.chan d).power) ∧
  (∀ (c : Chan) (v : Nat) (s : State), v < 5 → (s.chan c).power.state = PState.ofTarget v →
    (s.chan c).power.inTransition = false → (s.chan c).safe = false → s.commandPower c v = (s, 0x00))

/-- Writes of CORE_VOLTAGE_SET and of the limit registers. Through BAR0 to a served channel, a CORE_VOLTAGE_SET of 600 to 850 mV
in multiples of 5 is stored, and the rail of a channel in P0 follows at the lower of setting and clamp; any other value
changes nothing but event 0x0004 with the register's offset. By a request that passes its checks the same rules hold and the
write is recorded and answered. VOLTAGE_CLAMP, JUNCTION_LIMITS, CARTRIDGE_LIMITS and the two input-current registers take
their writes by the rules of R438 and R464 in the same way. Derived from 16_power_and_metrology.md. -/
def Obligations.CoreVoltageAndLimitWrites : Prop :=
  (∀ (c : Chan) (v : Word) (s : State), s.hostServed c = true → 600 ≤ v.toNat % 65536 → v.toNat % 65536 ≤ 850 →
    v.toNat % 65536 % 5 = 0 →
    exec (.coreVoltageSet .bar0 c v) s = .next ((s.setEnt (kPow c 0x01) (v.toNat % 65536)).applyVoltage c)) ∧
  (∀ (c : Chan) (v : Word) (s : State), s.hostServed c = true →
    (v.toNat % 65536 < 600 ∨ 850 < v.toNat % 65536 ∨ v.toNat % 65536 % 5 ≠ 0) →
    exec (.coreVoltageSet .bar0 c v) s = .next (s.raise c 0x0004 (leBytes 4 (chBase c + 0x800)))) ∧
  (∀ (p : ReqPath) (c : Chan) (v : Word) (s u : State) (r : OdRow),
    s.passes p (0x2000 + 0x100 * c.val) 0x01 0 (leBytes 2 (v.toNat % 65536)) (some c) r →
    s.setVoltage c (v.toNat % 65536) = (u, 0) →
    exec (.coreVoltageSet (.od p) c v) s = .next
      (s.answered u p (0x2000 + 0x100 * c.val) 0x01 0 (leBytes 2 (v.toNat % 65536)) (some c) r)) ∧
  (∀ (c : Chan) (v : Word) (s u : State), s.hostServed c = true →
    (s.setClamp c (v.toNat % 65536) = (u, 0) → exec (.limitRegisterWrite .bar0 (.voltageClamp c) v) s = .next u) ∧
    (s.setTempLimits c 1 0x04 840 480 40 v.toNat = (u, 0) →
      exec (.limitRegisterWrite .bar0 (.junctionLimits c) v) s = .next u) ∧
    (s.setTempLimits c 2 0x05 680 320 24 v.toNat = (u, 0) →
      exec (.limitRegisterWrite .bar0 (.cartridgeLimits c) v) s = .next u)) ∧
  (∀ (p : ReqPath) (v : Word) (s u : State) (r : OdRow),
    (s.passes p 0x2800 0x12 0 (leBytes 4 v.toNat) none r → s.setCurrentLimit false v.toNat = (u, 0) →
      exec (.limitRegisterWrite (.od p) .currentThrottle v) s = .next (s.answered u p 0x2800 0x12 0 (leBytes 4 v.toNat) none r)) ∧
    (s.passes p 0x2800 0x13 0 (leBytes 4 v.toNat) none r → s.setCurrentLimit true v.toNat = (u, 0) →
      exec (.limitRegisterWrite (.od p) .currentTrip v) s = .next (s.answered u p 0x2800 0x13 0 (leBytes 4 v.toNat) none r)))

/-- The end of a conversion. On a channel that is up with input i under conversion: an open-wire check is evaluated, or the
result is reported, and the converter goes on to the next enabled input. The value that an input converts to is a free value
where R469 takes factory constants (log entry 12). Derived from 16_power_and_metrology.md. -/
def Obligations.MetrologyConversion : Prop :=
  ∀ (c : Chan) (raw : BitVec 24) (s : State), (s.chan c).up = true → (s.chan c).metro.input ≠ 0 →
    ((s.chan c).metro.check = true → exec (.metrologyConversionEnd c raw) s =
      .next ((s.openWireCheck c (s.chan c).metro.input raw).nextConversion c (s.chan c).metro.input)) ∧
    ((s.chan c).metro.check = false → exec (.metrologyConversionEnd c raw) s =
      .next ((s.reportResult c (s.chan c).metro.input raw).nextConversion c (s.chan c).metro.input))

/-- Writes of BAR0: alignment, halves of a 64-bit register, and words. While the host reaches BAR0: a write that is not naturally
aligned changes nothing, and a 32-bit read at such an offset returns zero. Where the region takes writes, the lower half of a
64-bit register is held and the register keeps its value; the upper half then gives the register the whole value; an aligned
64-bit write gives it at once. Another aligned 32-bit write goes to the register word at its offset. Derived from
14_host_interface.md. -/
def Obligations.RegisterWrites : Prop :=
  (∀ (o : Nat) (wide : Bool) (v : DWord) (s : State), s.hostReaches = true → o < bar2Base →
    o % (if wide then 8 else 4) ≠ 0 → exec (.registerWrite o wide v) s = .next s) ∧
  (∀ (o : Nat) (s : State), o % 4 ≠ 0 → s.readBar0 o = 0) ∧
  (∀ (o : Nat) (v : DWord) (s : State), s.hostReaches = true → o < bar2Base → o % 4 = 0 → s.takesWrites o = true →
    wideRegister o = true →
    exec (.registerWrite o false v) s = .next (s.onEndpoint (fun e => { e with
      halves := mset none o (some (BitVec.ofNat 32 (v.toNat % 2 ^ 32))) e.halves }))) ∧
  (∀ (o : Nat) (v : DWord) (w : Word) (s : State), s.hostReaches = true → o + 4 < bar2Base → o % 4 = 0 →
    s.takesWrites (o + 4) = true → wideRegister (o + 4) = false → wideRegister o = true →
    mget none o s.module.endpoint.halves = some w →
    exec (.registerWrite (o + 4) false v) s = .next ((s.onEndpoint (fun e => { e with halves := mset none o none e.halves })).writeWide
      o (v.toNat % 2 ^ 32 * 2 ^ 32 + w.toNat))) ∧
  (∀ (o : Nat) (v : DWord) (s : State), s.hostReaches = true → o < bar2Base → o % 8 = 0 → s.takesWrites o = true →
    wideRegister o = true →
    exec (.registerWrite o true v) s = .next
      ((s.onEndpoint (fun e => { e with halves := mset none o none e.halves })).writeWide o v.toNat)) ∧
  (∀ (o : Nat) (v : DWord) (s : State), s.hostReaches = true → o < bar2Base → o % 4 = 0 → s.takesWrites o = true →
    wideRegister o = false → (o < 4 ∨ wideRegister (o - 4) = false) →
    exec (.registerWrite o false v) s = .next (s.writeWord o (v.toNat % 2 ^ 32)))

/-- A write through BAR2 changes no byte but those it reaches. From every state whose memories are in canonical form, with the
host reaching BAR2: a write at or above 64 MiB of the operand (log entry 41) completes. Unless it carries a channel's count
of bytes received into saturation, which raises an event of its own (R14), every byte of a channel's memory that no byte of
the write maps to reads as before, and the module and the dictionary are as before. A byte of it that maps to an available
channel below the retransmit area is stored there and counted as received (log entry 112), and reads as what was written; one
that maps elsewhere changes nothing. Derived from 14_host_interface.md. -/
def Obligations.ApertureWriteFrame : Prop :=
  (∀ (o : Nat) (wide : Bool) (v : DWord) (s : State), s.hostReaches = true → bar2Base ≤ o →
    ∃ t : State, exec (.registerWrite o wide v) s = .next t ∧
      (s.memOk → (∀ d : Chan, (s.chan d).bytesRoom 8) → t.module = s.module ∧ t.od = s.od ∧
        ∀ (d : Chan) (k : Nat),
          (∀ i, i < (if wide then 8 else 4) → s.module.endpoint.apertureByte (o - bar2Base + i) ≠ some (d, k)) →
          (t.chan d).byte k = (s.chan d).byte k)) ∧
  (∀ (o : Nat) (b : Byte) (d : Chan) (k : Nat) (s : State),
    s.module.endpoint.apertureByte o = some (d, k) →
    ((s.available d = true ∧ apertureReaches k = true) →
      s.writeBar2 o b = (s.memWrite d k [b]).perfAdd d 78 1 ∧
      (s.memOk → (s.chan d).bytesRoom 1 → ((s.writeBar2 o b).chan d).byte k = b)) ∧
    ((s.available d = false ∨ apertureReaches k = false) → s.writeBar2 o b = s))

/-- What the port complex serves of an unavailable channel. Of a channel that is not served or whose fuse is open, CHANNEL_STATUS
is served, every other word reads 0xFFFFFFFF, and every write is ignored, doorbells and context controls included. A channel
held in its safe state is served as one that is up: its fuse closed, it is available. Derived from 14_host_interface.md. -/
def Obligations.UnavailableChannelRegisters : Prop :=
  (∀ (c : Chan) (s : State), s.available c = false →
    s.readChannelWord c 0 = (s.chan c).statusWord ∧ ∀ r, r ≠ 0 → s.readChannelWord c r = 0xFFFFFFFF) ∧
  (∀ (c : Chan) (r : Nat) (wide : Bool) (v : DWord) (s : State), s.hostReaches = true → s.available c = false →
    chBase c ≤ r → r < chBase c + 0x00C00000 → exec (.registerWrite r wide v) s = .next s) ∧
  (∀ (c : Chan) (x : Ctx) (v : Word) (p : BitVec 2) (s : State), s.available c = false →
    exec (.sqTail c x v) s = .next s ∧ exec (.cqHead c x v) s = .next s ∧ exec (.eventHead c v) s = .next s ∧
    exec (.eventControlWrite c v) s = .next s ∧ exec (.contextEnable c x p) s = .next s ∧
    exec (.contextDrain c x p) s = .next s ∧ exec (.perfSnapshot c) s = .next s) ∧
  (∀ (c : Chan) (s : State), (s.chan c).safe = true → (s.chan c).power.fuseClosed = true → s.available c = true)

/-- Which doorbell writes are accepted, and what happens to the others. On a served channel, with the indices below their sizes:
on an enabled context that does not drain, SQ_TAIL and CQ_HEAD take the index in bits [15:0] where the two conditions of R416
hold, computed as the rule writes them with the modulo of signed numbers; EVENT_HEAD takes bits [12:0] by the rule of CQ_HEAD
with 8,192 entries. Accepting SQ_TAIL changes the tail alone; accepting CQ_HEAD sets the head and then writes held
completions into the free slots. Any other write changes the counter DOORBELL_ERRORS and raises 0x0005, and on a context that
is not enabled or drains every write is such a write. The registers read as zero. Formalises R416. -/
def Obligations.DoorbellRule : Prop :=
  (∀ (c : Chan) (x : Ctx) (v : Word) (s : State) (k : Context) (T : Nat), s.hostServed c = true →
    k = (s.chan c).context x.val → T = v.toNat % 65536 → k.enabled = true → k.draining = false →
    (k.sqTail < k.sqSize → k.sqHead < k.sqSize → exec (.sqTail c x v) s = .next
      (if T < k.sqSize ∧ ((T : Int) - k.sqTail) % k.sqSize ≤ ((k.sqHead : Int) - 1 - k.sqTail) % k.sqSize then
        s.onChan c (fun h => h.setContext x.val { k with sqTail := T })
      else s.doorbellError c x.val 0 v.toNat)) ∧
    (k.cqTail < k.cqSize → k.cqHead < k.cqSize → exec (.cqHead c x v) s = .next
      (if T < k.cqSize ∧ ((T : Int) - k.cqHead) % k.cqSize ≤ ((k.cqTail : Int) - k.cqHead) % k.cqSize then
        (s.onChan c (fun h => h.setContext x.val { k with cqHead := T })).flushHeld c x.val
      else s.doorbellError c x.val 1 v.toNat))) ∧
  (∀ (c : Chan) (v : Word) (s : State) (k : Carousel) (H : Nat), s.hostServed c = true → k = (s.chan c).host.events →
    H = v.toNat % 8192 → k.tail < 8192 → k.head < 8192 →
    exec (.eventHead c v) s = .next
      (if ((H : Int) - k.head) % 8192 ≤ ((k.tail : Int) - k.head) % 8192 then
        s.onChan c (fun h => { h with host := { h.host with events := { k with head := H } } })
      else s.doorbellError c 0xFF 2 v.toNat)) ∧
  (∀ (c : Chan) (x : Ctx) (v : Word) (s : State), s.hostServed c = true →
    (((s.chan c).context x.val).enabled = false ∨ ((s.chan c).context x.val).draining = true) →
    exec (.sqTail c x v) s = .next (s.doorbellError c x.val 0 v.toNat) ∧
    exec (.cqHead c x v) s = .next (s.doorbellError c x.val 1 v.toNat)) ∧
  (∀ (c : Chan) (x reg v : Nat) (s : State), (s.chan c).host.doorbellErrors.value + 1 < 2 ^ 63 - 1 →
    s.doorbellError c x reg v = (s.onChan c (fun h => { h with host := { h.host with doorbellErrors :=
      { h.host.doorbellErrors with value := h.host.doorbellErrors.value + 1 } } })).raise c 0x0005
        (leBytes 1 x ++ leBytes 1 reg ++ leBytes 4 v)) ∧
  (∀ (c : Chan) (x : Ctx) (s : State), s.available c = true →
    s.readChannelWord c (0x10000 + 0x1000 * x.val) = 0 ∧ s.readChannelWord c (0x10004 + 0x1000 * x.val) = 0 ∧
    s.readChannelWord c 0x50 = 0)

/-- Enabling and draining a context, enabling the event carousel, and coalesced messages that are due. On a served channel:
CONTEXT_ENABLE of a disabled context whose carousels are valid sets ENABLED, the four indices to 0 and the phase to 1; of
carousels that are not valid it sets CONFIG_ERROR and raises 0x0006; of an enabled one it sets the priority alone.
CONTEXT_DRAIN drains. EVENT_CONTROL_WRITE with ENABLE clear, or while enabled, sets the fields; enabling a valid carousel
writes the held records. COALESCE_TIMEOUT of a gathered count requests the vector and empties the count. Derived from
14_host_interface.md. -/
def Obligations.ContextsAndEventCarousel : Prop :=
  (∀ (c : Chan) (x : Ctx) (p : BitVec 2) (s u : State), s.hostServed c = true →
    u = s.onChan c (fun h => h.setContext x.val { h.context x.val with priority := p.toNat }) →
    (((u.chan c).context x.val).enabled = false → (u.chan c).contextOk x.val = true →
      exec (.contextEnable c x p) s = .next (u.onChan c (fun h => h.setContext x.val { ((u.chan c).context x.val) with
        enabled := true, sqHead := 0, sqTail := 0, cqTail := 0, cqHead := 0, phase := true }))) ∧
    (((u.chan c).context x.val).enabled = false → (u.chan c).contextOk x.val = false →
      exec (.contextEnable c x p) s = .next ((u.onChan c (fun h => h.setContext x.val { ((u.chan c).context x.val) with
        configError := true })).raise c 0x0006 (leBytes 1 x.val))) ∧
    (((u.chan c).context x.val).enabled = true → exec (.contextEnable c x p) s = .next u) ∧
    exec (.contextDrain c x p) s = .next (u.drainContext c x.val)) ∧
  (∀ (c : Chan) (v : Word) (s : State), s.hostServed c = true →
    ((v &&& 0xFFFFFF01#32).getLsbD 0 = false ∨ (s.chan c).host.events.enabled = true →
      exec (.eventControlWrite c v) s = .next (s.onChan c (fun h => { h with host := { h.host with
        events := { h.host.events with control := v &&& 0xFFFFFF01#32 } } }))) ∧
    ((v &&& 0xFFFFFF01#32).getLsbD 0 = true → (s.chan c).host.events.enabled = false →
      (s.chan c).host.events.base % 4096 = 0 → hbmFree (s.chan c).host.events.base (32 * 8192) = true →
      ((s.chan c).carousels none).any (overlapRange (s.chan c).host.events.span) = false →
      exec (.eventControlWrite c v) s = .next (s.enableEvents c (v &&& 0xFFFFFF01#32)))) ∧
  (∀ (c : Chan) (x : Ctx) (s : State), ((s.chan c).context x.val).gathered.count ≠ 0 →
    ((s.chan c).context x.val).coalesceReg.extractLsb' 16 16 ≠ 0 →
    exec (.coalesceTimeout c (some x)) s = .next ((s.onChan c (fun h => h.setContext x.val { ((s.chan c).context x.val) with
      gathered := ⟨0, none⟩ })).requestCompletion c ((s.chan c).context x.val).vector)) ∧
  (∀ (c : Chan) (s : State), (s.chan c).host.events.gathered.count ≠ 0 →
    (s.chan c).host.events.control.extractLsb' 16 16 ≠ 0 →
    exec (.coalesceTimeout c none) s = .next ((s.onChan c (fun h => { h with host := { h.host with
      events := { ((s.chan c).host.events) with gathered := ⟨0, none⟩ } } })).requestVector (512 * c.val + 448)))

/-- Fetching, FENCE, ABANDON, NOP, invalid entries and refused addresses. On a served channel that is not safe ENTRY_FETCH takes
the next entry of the context that is due into the jobs. A NOP that may begin completes. A FENCE completes when no earlier
entry of its context is left and waits otherwise. ABANDON completes at once with no program loaded, and abandons a loaded one
with status 0x03. An invalid entry completes with status 0x04, and one with a refused DESC address is refused. Derived from
14_host_interface.md. -/
def Obligations.EntriesThatNameNoWork : Prop :=
  (∀ (c : Chan) (x : Nat) (s : State), (s.chan c).served = true → (s.chan c).safe = false → (s.chan c).nextFetch = some x →
    (s.onChan c (fun h => h.fetch x)).ready c (s.chan c).nextId tyBadAddress = none →
    exec (.entryFetch c) s = .next (s.onChan c (fun h => h.fetch x))) ∧
  (∀ (c : Chan) (n : Nat) (j : Job) (s : State), s.ready c n tyNop = some j →
    exec (.nop c n) s = .next (s.completeJob c j 0 0)) ∧
  (∀ (c : Chan) (n : Nat) (j : Job) (s : State), s.ready c n tyFence = some j →
    exec (.fence c n) s = .next (if (s.chan c).earlier j then s.beginJob c j else s.completeJob c j 0 0)) ∧
  (∀ (c : Chan) (n : Nat) (j : Job) (s : State), s.ready c n tyAbandon = some j → (s.chan c).training.program = none →
    exec (.abandon c n) s = .next (s.completeJob c j 0 0)) ∧
  (∀ (c : Chan) (n : Nat) (j : Job) (p : Program) (s : State), s.ready c n tyAbandon = some j →
    (s.chan c).training.program = some p → (j.phase == .begun) = false →
    exec (.abandon c n) s = .next ((s.beginJob c j).abandonByHost c)) ∧
  (∀ (c : Chan) (n : Nat) (j : Job) (s : State), s.ready c n tyInvalid = some j →
    (s.failJob c j 0x04 0 0).ready c n tyBadAddress = none →
    exec (.invalidEntry c n) s = .next (s.failJob c j 0x04 0 0)) ∧
  (∀ (c : Chan) (n : Nat) (j : Job) (s : State), s.ready c n tyInvalid = none → s.ready c n tyBadAddress = some j →
    exec (.invalidEntry c n) s = .next (s.refuseJob c j (badAddress j.addr)))

/-- Host transfers, the pieces of the mover, and read-clear registers. HOST_TRANSFER of a valid descriptor becomes a transfer in
progress, last of its channel's jobs. MOVER_PIECE serves the next channel with a transfer: to the host it emits the bytes of
the piece, counted as sent, and changes no memory; from the host, data of the piece's length is written at the channel
address and counted as received (log entry 112), and data of another length leaves the state. The last piece completes the
job with LENGTH; one before it leaves the transfer moved on. A read of a read-clear register returns it and sets it to zero.
Derived from 14_host_interface.md. -/
def Obligations.HostTransfersAndCounters : Prop :=
  (∀ (c : Chan) (n : Nat) (j : Job) (s : State), s.ready c n 0xA0 = some j → (s.chan c).transferOffence j.addr = none →
    s.moverOpen = true →
    exec (.hostTransfer c n) s = .next (s.onChan c (fun h => { h with jobs := (h.dropJob j.id).jobs ++ [{ j with
      phase := .transfer ((s.chan c).nat (j.addr + 2) 1 == 1) ((s.chan c).nat (j.addr + 8) 8) ((s.chan c).nat (j.addr + 16) 8)
        ((s.chan c).nat (j.addr + 24) 8) 0 }] }))) ∧
  (∀ (c : Chan) (j : Job) (host chan length moved n : Nat) (data : List Byte) (s : State), s.moverOpen = true →
    s.nextMoved = some c → (s.chan c).transfer = some j → n = pieceLength length moved →
    (∀ (toHost : Bool) (u : State), j.phase = .transfer toHost host chan length moved → (toHost = false → data.length = n) →
      u = (if toHost then ((s.onEndpoint (fun e => { e with lastMoved := c.val })).emit
          (.hostWrite (BitVec.ofNat 64 (host + moved)) ((s.chan c).bytes (chan + moved) n))).perfAdd c 79 n
        else (((s.onEndpoint (fun e => { e with lastMoved := c.val })).emit (.hostRead (BitVec.ofNat 64 (host + moved)) n)).onChan c
          (fun h => h.write (chan + moved) data)).perfAdd c 78 n) →
      (moved + n = length → exec (.moverPiece data) s = .next (u.completeJob c j length 0)) ∧
      (moved + n ≠ length → exec (.moverPiece data) s = .next (u.onChan c (fun h =>
        h.setJob { j with phase := .transfer toHost host chan length (moved + n) })))) ∧
    (j.phase = .transfer false host chan length moved → data.length ≠ n → exec (.moverPiece data) s = .next s)) ∧
  (∀ s : State, s.hostReaches = true →
    exec (.rcRegisterRead .moduleEventsLost) s = .next ((s.onEndpoint (fun e => { e with moduleEventsLost := ⟨0, false⟩ })).emit
      (.readData (BitVec.ofNat 64 (s.module.endpoint.moduleEventsLost.read 31)))) ∧
    ∀ c : Chan, s.available c = true →
      exec (.rcRegisterRead (.eventsLost c)) s = .next ((s.onChan c (fun h => { h with host := { h.host with
        eventsLost := ⟨0, false⟩ } })).emit (.readData (BitVec.ofNat 64 ((s.chan c).host.eventsLost.read 63)))) ∧
      exec (.rcRegisterRead (.doorbellErrors c)) s = .next ((s.onChan c (fun h => { h with host := { h.host with
        doorbellErrors := ⟨0, false⟩ } })).emit (.readData (BitVec.ofNat 64 ((s.chan c).host.doorbellErrors.read 63)))) ∧
      exec (.rcRegisterRead (.cqFullWaits c)) s = .next ((s.onChan c (fun h => { h with host := { h.host with
        cqFullWaits := ⟨0, false⟩ } })).emit (.readData (BitVec.ofNat 64 ((s.chan c).host.cqFullWaits.read 63)))))

/-- OD_WRITE, OD_READ, CHALLENGE_READ, SUBSCRIBE and malformed requests. On an open path: OD_WRITE of an entry without a
follow-up whose checks pass and whose rule accepts is recorded and answered with status 0x00. OD_READ of an entry that the
role may read answers what the entry holds. CHALLENGE_READ stores fresh bytes (a free value, log entry 5) as the challenge of
the path and answers them. SUBSCRIBE of eight bytes on a session replaces its subscription. A malformed request is answered
with 0x08. Each changes nothing else. Derived from 17_object_dictionary.md, 14_host_interface.md. -/
def Obligations.RequestsServed : Prop :=
  (∀ (p : ReqPath) (i : Half) (b : Byte) (o : Nat) (d : List Byte) (who : Option Chan) (r : OdRow) (s u : State),
    s.passes p i.toNat b.toNat o d who r → s.entryRule p i.toNat b.toNat o d = (u, 0) → watchesDegraded i.toNat b.toNat = false →
    (odArea i.toNat).1 ≠ 0x7100 → (odArea i.toNat).1 ≠ 0x1110 →
    exec (.odWrite p i b o d) s = .next (s.answered u p i.toNat b.toNat o d who r)) ∧
  (∀ (p : ReqPath) (i : Half) (b : Byte) (o n : Nat) (r : OdRow) (s : State), s.pathOpen p = true →
    s.requestCheck p false i.toNat b.toNat n = (0, some r) → r.ty < 8 → o = 0 → n = odSize r.ty → r.code (s.roleOf p) ≠ 3 →
    exec (.odRead p i b o n) s = .next ((s.entryValue p i.toNat b.toNat).2.reply p 0 r.ty (odSize r.ty) 0
      (leBytes (odSize r.ty) (s.entryValue p i.toNat b.toNat).1))) ∧
  (∀ (p : ReqPath) (r : OdRow) (s : State), s.pathOpen p = true → s.requestCheck p false 0x1100 0x02 32 = (0, some r) →
    r.ty = 9 → r.index = 0x1100 → r.code (s.roleOf p) ≠ 3 →
    exec (.challengeRead p) s = .next ((s.drawFree.2.setChallenge p (some (leBytes 32 (Config.fresh s.free)))).reply p 0 9 32 0
      (pieceOf (leBytes 32 (Config.fresh s.free)) 0 32))) ∧
  (∀ (id : Nat) (d : List Byte) (q : Session) (s : State), s.pathOpen (.session id) = true → s.session id = some q →
    d.length = 8 → exec (.subscribe (.session id) d) s = .next ((s.setSession { q with
      mask := fieldOf d 0 1 % 32, lowCode := fieldOf d 4 2, highCode := fieldOf d 6 2 }).reply (.session id) 0x00 0 0 0 [])) ∧
  (∀ (p : ReqPath) (s : State), s.pathOpen p = true → exec (.malformedRequest p) s = .next (s.reply p 0x08 0 0 0 []))

/-- A write that fails its checks is answered and has no other effect. For every command that writes an entry by a request, on an
open path: when the check of the request answers a status other than 0x00, the next state is the answer with that status and
nothing else. Of an entry of the port complex that a role may not write (access code none or RO), that status is 0x02.
Derived from 17_object_dictionary.md. -/
def Obligations.RefusedRequestsChangeNothing : Prop :=
  (∀ (i : Instr) (p : ReqPath) (index sub offset n : Nat) (d : List Byte) (k : Option OdRow) (s : State),
    ((∃ (a : Half) (b : Byte), i = .odWrite p a b offset d ∧ index = a.toNat ∧ sub = b.toNat) ∨
      (∃ (c : Chan) (v : Byte), i = .powerCommand p c v ∧ index = 0x2800 ∧ sub = 1 + c.val ∧ offset = 0 ∧ d = leBytes 1 v.toNat) ∨
      (∃ (c : Chan) (x : Port) (v : Word), i = .planWrite p c x v ∧ index = 0x5100 + 0x100 * c.val ∧ sub = 1 + x.val ∧ offset = 0 ∧
        d = leBytes 4 v.toNat) ∨
      (∃ v : Half, i = .moduleNumberWrite p v ∧ index = 0x5000 ∧ sub = 1 ∧ offset = 0 ∧ d = leBytes 2 v.toNat) ∨
      (∃ (c : Chan) (v : Byte), i = .numericsModeWrite p c v ∧ index = 0x6100 + 0x100 * c.val ∧ sub = 0x10 ∧ offset = 0 ∧
        d = leBytes 1 v.toNat) ∨
      (∃ c : Chan, i = .fwActivate p c ∧ index = 0x7100 + 0x100 * c.val ∧ sub = 0x12 ∧ offset = 0 ∧ d = leBytes 1 2) ∨
      (i = .portImage p offset d ∧ index = 0x7000 ∧ sub = 0x10) ∨
      (∃ c : Chan, i = .recoveryImage p c offset d ∧ index = 0x1110 + c.val ∧ sub = 0x30) ∨
      (∃ (c : Chan) (v : Byte), i = .debugEnable p c v ∧ index = 0x1110 + c.val ∧ sub = 0x03 ∧ offset = 0 ∧ d = leBytes 1 v.toNat) ∨
      (i = .installerSecret p d ∧ index = 0x1100 ∧ sub = 0x03 ∧ offset = 0)) →
    s.pathOpen p = true → s.requestCheck p true index sub d.length = (n, k) → n ≠ 0 →
    exec i s = .next (s.reply p n ((k.map (fun r => r.ty)).getD 0) ((k.map (fun r => entryLength index sub r.ty)).getD 0) offset [])) ∧
  (∀ (p : ReqPath) (index sub : Nat) (d : List Byte) (r : OdRow) (s : State), d.length ≤ 1408 → servedBy index = some none →
    sub ≠ 0 → odFind index sub = some r → (r.code (s.roleOf p) = 0 ∨ r.code (s.roleOf p) = 1) →
    s.requestCheck p true index sub d.length = (0x02, some r))

/-- PLAN, PORT_ENABLE, MODULE_NUMBER, NUMERICS_MODE, SILENCE_WATCHES, the policy entries and WITHDRAW written. By a request that
passes its checks, each of these is carried out by its own rule, recorded in the audit log and answered with status 0x00:
MODULE_NUMBER and each policy entry always; PORT_ENABLE always; PLAN when its fields name a peer that the port may have;
SILENCE_WATCHES always; NUMERICS_MODE while nothing that uses it runs; WITHDRAW by a live member with no program loaded, a
committed and secured last step and no step under way, which reports itself lost with reason 3. Derived from
17_object_dictionary.md, 10_fabric_links.md, 11_topology_and_groups.md, 13_safety_net.md, 09_training_numerics.md,
15_firmware.md. -/
def Obligations.EntriesWritten : Prop :=
  (∀ (p : ReqPath) (v : Half) (r : OdRow) (s : State), s.passes p 0x5000 0x01 0 (leBytes 2 v.toNat) none r →
    exec (.moduleNumberWrite p v) s = .next
      (s.answered (s.setModuleNumber v.toNat).1 p 0x5000 0x01 0 (leBytes 2 v.toNat) none r)) ∧
  (∀ (p : ReqPath) (w : Policy) (v : Byte) (r : OdRow) (s : State), s.passes p 0x8000 (policySub w) 0 (leBytes 1 v.toNat) none r →
    exec (.servicePolicyWrite p w v) s = .next (s.answered ((s.storeEnt 0x8000 (policySub w) v.toNat).raisePort 0 0x00B7
      (leBytes 1 ((s.storeEnt 0x8000 (policySub w) v.toNat).ent (odKey 0x8000 0x01)) ++
        leBytes 1 ((s.storeEnt 0x8000 (policySub w) v.toNat).ent (odKey 0x8000 0x02))))
      p 0x8000 (policySub w) 0 (leBytes 1 v.toNat) none r)) ∧
  (∀ (p : ReqPath) (c : Chan) (x : Port) (v : Byte) (r : OdRow) (s : State),
    s.passes p (0x5100 + 0x100 * c.val) (0x81 + x.val) 0 (leBytes 1 v.toNat) (some c) r →
    exec (.portEnableWrite p c x v) s = .next (s.answered (s.setPortEnable c x v.toNat).1 p (0x5100 + 0x100 * c.val)
      (0x81 + x.val) 0 (leBytes 1 v.toNat) (some c) r)) ∧
  (∀ (p : ReqPath) (c : Chan) (x : Port) (v : Word) (r : OdRow) (s u : State),
    s.passes p (0x5100 + 0x100 * c.val) (1 + x.val) 0 (leBytes 4 v.toNat) (some c) r → s.setPlan c x v.toNat = (u, 0) →
    exec (.planWrite p c x v) s = .next (s.answered u p (0x5100 + 0x100 * c.val) (1 + x.val) 0 (leBytes 4 v.toNat) (some c) r)) ∧
  (∀ (p : ReqPath) (c : Chan) (o : Nat) (d : List Byte) (r : OdRow) (s : State),
    s.passes p (0x6100 + 0x100 * c.val) 0x18 o d (some c) r →
    exec (.silenceWatchWrite p c o d) s = .next (s.answered (s.onChan c (fun h => { h with
      training := h.training.writeWatches o d })) p (0x6100 + 0x100 * c.val) 0x18 o d (some c) r)) ∧
  (∀ (p : ReqPath) (c : Chan) (v : Byte) (r : OdRow) (s : State),
    s.passes p (0x6100 + 0x100 * c.val) 0x10 0 (leBytes 1 v.toNat) (some c) r → (s.chan c).numericsIdle = true →
    exec (.numericsModeWrite p c v) s = .next (s.answered (s.setNumerics c (v.toNat % 4)) p (0x6100 + 0x100 * c.val) 0x10 0
      (leBytes 1 v.toNat) (some c) r)) ∧
  (∀ (p : ReqPath) (c : Chan) (v : Byte) (g : Group) (r : OdRow) (s : State),
    s.passes p (0x5030 + c.val) 0x0A 0 (leBytes 1 v.toNat) (some c) r → v ≠ 0#8 → s.commitGroup c = some g → g.live = true →
    (s.chan c).training.program = none → (s.chan c).training.recordSinceSeed = true →
    s.ent (kSafe c 2) = (s.chan c).lastStep → (s.chan c).coll.steps = [] →
    exec (.withdraw p c v) s = .next (s.answered (s.reportLost c g g.rank 3) p (0x5030 + c.val) 0x0A 0 (leBytes 1 v.toNat)
      (some c) r))

/-- Staging, verification, writing, activation, confirmation and reboot of a channel's firmware. FW_STAGE in IDLE, STAGED or
FAILED takes the set named by the staging entries into VERIFY. FW_VERIFY_COMPLETE marks the inactive bank unverified and goes
on to WRITE where the check of R441 passes, and fails with its result and 0x00B1 otherwise. FW_WRITE_COMPLETE writes the bank
and stages it with 0x00B0, or fails with result 5. FW_ACTIVATE of a bank that may be activated on a channel that is free
makes the next boot a trial and reboots; FW_CONFIRM in TRIAL makes the running bank active; REBOOT reboots a channel that
may; TRIAL_TIMEOUT of a running trial reboots into the previous bank. What a signature check answers is Config's (log entry
12). Derived from 15_firmware.md, 18_security_and_roles.md, 19_reset_and_self_test.md. -/
def Obligations.ChannelFirmwareUpdate : Prop :=
  (∀ (p : ReqPath) (c : Chan) (r : OdRow) (s : State), s.passes p (0x7100 + 0x100 * c.val) 0x12 0 (leBytes 1 1) (some c) r →
    (s.chan c).fw.mayStage = true →
    exec (.fwStage p c) s = .next (s.answered (s.onChan c (fun h => { h with fw := { h.fw with
      state := 1, staged := h.bytes (s.ent (kFw c 0x10)) (s.ent (kFw c 0x11)) } })) p (0x7100 + 0x100 * c.val) 0x12 0 (leBytes 1 1)
      (some c) r)) ∧
  (∀ (c : Chan) (n k : Nat) (f : Firmware) (s : State), f = (s.chan c).fw → f.state = 1 → (s.chan c).up = true →
    checkSet c.val f.revoked f.securityMin f.staged = (n, k) →
    exec (.fwVerifyComplete c) s = .next
      (if n = 0 then s.onChan c (fun h => { h with fw := { (f.unverify (1 - f.active)) with state := 2 } })
      else (s.onChan c (fun h => { h with fw := { f with state := 5, result := n, staged := [] } })).raise c 0x00B1 (leBytes 1 n))) ∧
  (∀ (c : Chan) (f : Firmware) (s : State), f = (s.chan c).fw → f.state = 2 → (s.chan c).up = true → (s.chan c).safe = false →
    exec (.fwWriteComplete c true) s = .next ((s.onChan c (fun h => { h with fw := { (f.setBank (1 - f.active)
      (verifiedBank f.staged ((setKey c.val f.revoked f.staged).getD 0))) with state := 3, staged := [] } })).raise c 0x00B0
        (leBytes 1 (1 - f.active) ++ leBytes 4 (setVersion f.staged))) ∧
    exec (.fwWriteComplete c false) s = .next (s.onChan c (fun h => { h with fw := { ((f.unverify (1 - f.active)).refuse 5) with
      incoming := [] } }))) ∧
  (∀ (p : ReqPath) (c : Chan) (r : OdRow) (s : State), s.passes p (0x7100 + 0x100 * c.val) 0x12 0 (leBytes 1 2) (some c) r →
    (s.chan c).fw.mayActivate = true → (s.chan c).free = true → (s.chan c).safe = false → s.othersHoldGroup c = false →
    exec (.fwActivate p c) s = .next (((s.answered (s.onChan c (fun h => { h with fw := { (s.chan c).fw with trial := 1 } })) p
      (0x7100 + 0x100 * c.val) 0x12 0 (leBytes 1 2) (some c) r).reboot c).watchDegraded
      (s.answered (s.onChan c (fun h => { h with fw := { (s.chan c).fw with trial := 1 } })) p (0x7100 + 0x100 * c.val) 0x12 0
        (leBytes 1 2) (some c) r))) ∧
  (∀ (p : ReqPath) (c : Chan) (r : OdRow) (s u : State), s.passes p (0x7100 + 0x100 * c.val) 0x12 0 (leBytes 1 3) (some c) r →
    (s.chan c).fw.state = 4 → s.confirm (some c) = (u, 0) →
    exec (.fwConfirm p c) s = .next (s.answered u p (0x7100 + 0x100 * c.val) 0x12 0 (leBytes 1 3) (some c) r)) ∧
  (∀ (p : ReqPath) (c : Chan) (r : OdRow) (s : State), s.passes p (0x7100 + 0x100 * c.val) 0x12 0 (leBytes 1 4) (some c) r →
    (s.chan c).mayReboot = true →
    exec (.reboot p c) s = .next (((s.answered s p (0x7100 + 0x100 * c.val) 0x12 0 (leBytes 1 4) (some c) r).reboot c).watchDegraded
      (s.answered s p (0x7100 + 0x100 * c.val) 0x12 0 (leBytes 1 4) (some c) r))) ∧
  (∀ (c : Chan) (s : State), (s.chan c).fw.trial = 2 → (s.chan c).up = true →
    exec (.trialTimeout c) s = .next (((s.onChan c (fun h => { h with fw := { h.fw with trial := 3 } })).reboot c).watchDegraded s))

/-- The port complex's firmware, recovery of a boot-held channel, and key revocation. By a request that passes its checks:
PORT_IMAGE puts a piece into the inactive bank, which is then not verified; PORT_STAGE stages a set that passes the check of
R441, and fails with 0x00B1 otherwise; PORT_ACTIVATE makes the next start a trial; PORT_CONFIRM in TRIAL confirms.
RECOVERY_IMAGE of a boot-held channel takes pieces of ascending offset, and the first one erases the bank. FW_KEY_REVOKE sets
bits that leave a slot, and raises 0x00C5 for each new one. Bytes between pieces are free values (log entry 33). Derived from
15_firmware.md, 18_security_and_roles.md. -/
def Obligations.PortFirmwareRecoveryAndKeys : Prop :=
  (∀ (p : ReqPath) (o : Nat) (d : List Byte) (f : Firmware) (r : OdRow) (s : State), s.passes p 0x7000 0x10 o d none r →
    f = s.module.fw → f.mayStage = true →
    exec (.portImage p o d) s = .next (s.answered (s.drawFree.2.setDieFw none { (f.setBank (1 - f.active)
      ⟨writePiece (f.bank (1 - f.active)).image o s.free d, false, (f.bank (1 - f.active)).keySlot⟩) with
        state := if f.state = 3 then 0 else f.state }) p 0x7000 0x10 o d none r)) ∧
  (∀ (p : ReqPath) (n k : Nat) (f : Firmware) (r : OdRow) (s : State), s.passes p 0x7000 0x11 0 (leBytes 1 1) none r →
    f = s.module.fw → f.mayStage = true → checkSet 4 f.revoked f.securityMin (f.bank (1 - f.active)).image = (n, k) →
    exec (.portStage p) s = .next (s.answered
      (if n = 0 then (s.setDieFw none { (f.setBank (1 - f.active) (verifiedBank (f.bank (1 - f.active)).image k)) with
          state := 3 }).raisePort 0 0x00B0 (leBytes 1 (1 - f.active) ++ leBytes 4 (setVersion (f.bank (1 - f.active)).image))
        else (s.setDieFw none ((f.unverify (1 - f.active)).refuse n)).raisePort 0 0x00B1 (leBytes 1 n))
      p 0x7000 0x11 0 (leBytes 1 1) none r)) ∧
  (∀ (p : ReqPath) (r : OdRow) (s : State), s.passes p 0x7000 0x11 0 (leBytes 1 2) none r → s.module.fw.mayActivate = true →
    exec (.portActivate p) s = .next (s.answered (s.setDieFw none { s.module.fw with trial := 1 }) p 0x7000 0x11 0 (leBytes 1 2)
      none r)) ∧
  (∀ (p : ReqPath) (r : OdRow) (s u : State), s.passes p 0x7000 0x11 0 (leBytes 1 3) none r → s.module.fw.state = 4 →
    s.confirm none = (u, 0) →
    exec (.portConfirm p) s = .next (s.answered u p 0x7000 0x11 0 (leBytes 1 3) none r)) ∧
  (∀ (p : ReqPath) (c : Chan) (d : List Byte) (f : Firmware) (r : OdRow) (s : State), s.passes p (0x1110 + c.val) 0x30 0 d (some c) r →
    f = (s.chan c).fw → f.bootState = 2 → f.trial ≠ 1 → recoveryDone d = false →
    (((s.answered (s.onChan c (fun h => { h with fw := { (f.setBank (1 - f.active) ⟨[], false, 0⟩) with incoming := d } })) p
      (0x1110 + c.val) 0x30 0 d (some c) r).chan c).fw.trial ≠ 1) →
    exec (.recoveryImage p c 0 d) s = .next (s.answered (s.onChan c (fun h => { h with fw :=
      { (f.setBank (1 - f.active) ⟨[], false, 0⟩) with incoming := d } })) p (0x1110 + c.val) 0x30 0 d (some c) r)) ∧
  (∀ (p : ReqPath) (c : Option Chan) (v : Byte) (n : Nat) (f : Firmware) (r : OdRow) (s : State) (index sub : Nat),
    (match c with
      | some c => index = 0x1110 + c.val ∧ sub = 0x02
      | none => index = 0x1100 ∧ sub = 0x16) →
    s.passes p index sub 0 (leBytes 1 v.toNat) c r → f = s.dieFw c → n = (f.revoked ||| v.toNat % 16) → n ≠ 15 →
    exec (.fwKeyRevoke p c v) s = .next (s.answered
      (([0, 1, 2, 3].filter (fun k => n.testBit k && !f.revoked.testBit k)).foldl (fun s k => s.raiseDie c 0x00C5 (leBytes 1 k))
        (s.setDieFw c { f with revoked := n, bank0 := f.bank0.rekey (dieNumber c) n, bank1 := f.bank1.rekey (dieNumber c) n }))
      p index sub 0 (leBytes 1 v.toNat) c r))

/-- Attestation, credentials, roles, the stored log, and debug. By a request that passes its checks: ATTEST_NONCE of 32 bytes
voids the report and starts one; INSTALLER_SECRET of 32 bytes replaces the secret and voids every challenge; DEBUG_ENABLE of
1 in P1 or P2 on a channel that is free opens debug. ATTEST_REPORT_SIGNED stores the signed report. CHALLENGE_EXPIRY voids
the challenge of a path. AUTHENTICATE with the response that the challenge calls for gives the role with 0x00C3, and any
other is refused with 0x07; both void the challenge. AUTH_LOCKOUT_END, DROP and AUDIT_FLUSH. What an algorithm computes and
the secret are Config's (log entries 12, 127). Derived from 18_security_and_roles.md. -/
def Obligations.AttestationRolesAndDebug : Prop :=
  (∀ (p : ReqPath) (c : Chan) (d : List Byte) (r : OdRow) (s : State), s.passes p (0x1110 + c.val) 0x10 0 d (some c) r →
    d.length = 32 → (s.chan c).attest.nonce.length = 32 → (s.chan c).fw.debugState = 0 →
    exec (.attestNonce p c d) s = .next (s.answered (s.onChan c (fun h => { h with attest := ⟨d, true, none⟩ })) p
      (0x1110 + c.val) 0x10 0 d (some c) r)) ∧
  (∀ (c : Chan) (s : State), (s.chan c).attest.signing = true → (s.chan c).served = true →
    exec (.attestReportSigned c) s = .next ((s.onChan c (fun h => { h with attest := { h.attest with
      signing := false, report := some (s.reportBody c ++ (s.chan c).fw.sign (s.reportBody c)) } })).bump c
        (odKey (0x1110 + c.val) 0x42))) ∧
  (∀ (p : ReqPath) (d : List Byte) (r : OdRow) (s : State), s.passes p 0x1100 0x03 0 d none r → d.length = 32 →
    s.module.creds.installerSecret.length = 32 →
    exec (.installerSecret p d) s = .next (s.answered { s with module := { s.module with
      creds := { s.module.creds with installerSecret := d, challenge := none },
      sessions := s.module.sessions.map (fun q => { q with challenge := none }) } } p 0x1100 0x03 0 d none r)) ∧
  (∀ (p : ReqPath) (s : State), exec (.challengeExpiry p) s = .next (s.setChallenge p none)) ∧
  (∀ (p : ReqPath) (d ch : List Byte) (role : Nat) (s u : State), s.pathOpen p = true → u = s.setChallenge p none →
    role = fieldOf d 0 1 → d.length = 40 → (role = 1 ∨ role = 2) → u.module.creds.locked p = false →
    s.challengeOf p = some ch → d.drop 8 = u.authResponse p role ch →
    exec (.authenticate p d) s = .next (((((({ u with module := { u.module with creds := u.module.creds.setRefusals p 0 false } } :
      State).setRole p role).auditPath p 2 role).raisePort 0 0x00C3 (leBytes 1 (pathCode p) ++ leBytes 4 (pathSession p) ++
        leBytes 1 role)).reply p 0 0 0 0 []))) ∧
  (∀ (p : ReqPath) (d : List Byte) (s u : State), s.pathOpen p = true → u = s.setChallenge p none →
    (s.challengeOf p = none ∨ u.module.creds.locked p = true ∨ d.length ≠ 40) →
    exec (.authenticate p d) s = .next (((u.refuseAuth p).auditPath p 3 (u.roleOf p)).reply p 0x07 0 0 0 [] )) ∧
  (∀ s : State, exec (.authLockoutEnd true) s = .next { s with module := { s.module with creds :=
      { s.module.creds with mailboxLocked := false } } } ∧
    exec (.authLockoutEnd false) s = .next { s with module := { s.module with creds := { s.module.creds with migerLocked := false } } }) ∧
  (∀ (p : ReqPath) (s : State), s.pathOpen p = true →
    exec (.drop p) s = .next (((s.auditPath p 4 (s.roleOf p)).setRole p 0).reply p 0x00 0 0 0 [])) ∧
  (∀ (c : Chan) (s : State), (s.chan c).up = true →
    exec (.auditFlush (some c)) s = .next (s.onChan c (fun h => { h with audit := h.audit.flush auditSize }))) ∧
  (∀ s : State, s.module.on = true → s.module.alive = true →
    exec (.auditFlush none) s = .next { s with module := { s.module with audit := s.module.audit.flush portAuditSize } }) ∧
  (∀ (p : ReqPath) (c : Chan) (r : OdRow) (s u : State), s.passes p (0x1110 + c.val) 0x03 0 (leBytes 1 1) (some c) r →
    (s.chan c).fw.debugCount < 16 → (s.chan c).mayDebug = true → u = (s.setDebug p c 1).1 →
    exec (.debugEnable p c 1#8) s = .next ((s.answered u p (0x1110 + c.val) 0x03 0 (leBytes 1 1) (some c) r).watchDegraded s))

/-- A self-test on demand. By a request that passes its checks, SELF_TEST_COMMAND of a test that is accepted saves the region of
a native test, sets PROGRESS to 2 and starts the test; one that is not accepted answers 0x05 with result 3.
SELF_TEST_COMPLETE of a native test that passed and was restored records result 0, the unit 0 and the time, counts it and
raises 0x00D2; one with a failing unit records result 1 with the unit, counts a failure and enters the safe state with cause
4. Derived from 19_reset_and_self_test.md. -/
def Obligations.SelfTestOnDemand : Prop :=
  (∀ (p : ReqPath) (c : Chan) (v : Half) (r : OdRow) (s : State), s.passes p (0x7100 + 0x100 * c.val) 0x33 0 (leBytes 2 v.toNat) (some c) r →
    (s.mayTest c (v.toNat % 256) false = true → v.toNat.testBit 8 = false →
      exec (.selfTestCommand p c v) s = .next (s.answered (((s.saveRegion c (v.toNat % 256)).1.setEnt (kFw c 0x34) 2).onChan c (fun h =>
        { h with selfTest := some ⟨v.toNat % 256, false, (s.saveRegion c (v.toNat % 256)).2⟩ })) p (0x7100 + 0x100 * c.val) 0x33 0
          (leBytes 2 v.toNat) (some c) r)) ∧
    (s.mayTest c (v.toNat % 256) (v.toNat.testBit 8) = false →
      exec (.selfTestCommand p c v) s = .next (((s.setEnt (kFw c 0x35) (3 + v.toNat % 256 * 256 +
        (if v.toNat.testBit 8 then 65536 else 0))).setEnt (kFw c 0x37) (s.chan c).clock.timebase.toNat).reply p 0x05 r.ty
          (entryLength (0x7100 + 0x100 * c.val) 0x33 r.ty) 0 []))) ∧
  (∀ (c : Chan) (x : SelfTest) (s u : State), (s.chan c).selfTest = some x → x.compat = false →
    u = s.drawFree.2.onChan c (fun h => { h with selfTest := none }) →
    exec (.selfTestComplete c none true) s = .next (((((((u.setEnt (kFw c 0x34) 0).setEnt (kFw c 0x35) (testCode 0 x.region false)).setEnt
      (kFw c 0x36) 0).setEnt (kFw c 0x37) (s.chan c).clock.timebase.toNat).bump c (kFw c 0x24)).raise c 0x00D2
        (leBytes 1 x.region ++ leBytes 1 0 ++ leBytes 1 0 ++ leBytes 4 0)))) ∧
  (∀ (c : Chan) (x : SelfTest) (n : Nat) (s u : State), (s.chan c).selfTest = some x → x.compat = false →
    u = s.drawFree.2.onChan c (fun h => { h with selfTest := none }) →
    exec (.selfTestComplete c (some n) true) s = .next (((((((((u.setEnt (kFw c 0x34) 0).setEnt (kFw c 0x35)
      (testCode 1 x.region false)).setEnt (kFw c 0x36) n).setEnt (kFw c 0x37) (s.chan c).clock.timebase.toNat).bump c (kFw c 0x24)).bump c
        (kFw c 0x25)).raise c 0x00D2 (leBytes 1 x.region ++ leBytes 1 0 ++ leBytes 1 1 ++ leBytes 4 n)).enterSafe c 4).watchDegraded s))

/-- Sessions of the Miger protocol: setup, accepted frames, and their ends. With the field port up: HELLO is answered with
ANNOUNCE; the second part of a SESSION_INIT opens a session while fewer than eight are open; an accepted REQUEST is served,
and a repeat of the last one is answered again and not executed; NOTIFY_ACK of the outstanding NOTIFY ends it and sends the
next; KEEPALIVE is answered; CLOSE ends the session. A frame that is not trusted, or not later than the last, counts as
discarded and changes nothing else. The timeouts of a part, of a NOTIFY and of an idle session. Keys and ciphers are Config's
(log entry 12). Derived from 17_object_dictionary.md, 18_security_and_roles.md. -/
def Obligations.MigerSessions : Prop :=
  (∀ (n : Nat) (s : State), s.fieldUp = true →
    exec (.hello n) s = .next ((s.bumpPort (odKey 0x1010 0x20)).sendClear 0x02 s.announceBody)) ∧
  (∀ (n : Nat) (v : Byte) (b0 b1 : List Byte) (s u : State), s.fieldUp = true → s.speaks v = true → b0.length + b1.length = 1600 →
    u = s.bumpPort (odKey 0x1010 0x20) →
    (u.module.initParts = [] →
      exec (.sessionInit n v 0x10#8 b0) s = .next { u with module := { u.module with initParts := [⟨n, 0, b0⟩] } }) ∧
    (u.module.initParts = [⟨n, 0, b0⟩] → u.module.sessions.length < 8 →
      exec (.sessionInit n v 0x11#8 b1) s = .next (({ u with module := { u.module with initParts := [] } }).openSession (b0 ++ b1)))) ∧
  (∀ s : State, exec .sessionInitPartTimeout s = .next { s with module := { s.module with initParts := s.module.initParts.drop 1 } }) ∧
  (∀ (f : Frame) (q : Session) (s : State), s.fieldUp = true → seqLater f.sequence q.lastSeq = true → f.sequence.toNat + 1 < 2 ^ 31 →
    (s.trusted 0x10 f = some q → q.repeats f = false → exec (.request f) s = .next ((s.hear q f.sequence).serveRequest
      (.session q.id) (cipher q.inCipher f.session f.sequence f.body))) ∧
    (s.trusted 0x14 f = some q → exec (.keepalive f) s = .next ((s.hear q f.sequence).sessionFrame q.id 0x14 [])) ∧
    (s.trusted 0x15 f = some q → exec (.close f) s = .next ((s.hear q f.sequence).closeSession q.id none)) ∧
    (∀ (k : Session) (seq : Word) (body : List Byte) (m : Nat), s.trusted 0x13 f = some q →
      (s.hear q f.sequence).session q.id = some k → k.outstanding = some (seq, body, m) →
      fieldOf (cipher q.inCipher f.session f.sequence f.body) 0 4 = seq.toNat →
      exec (.notifyAck f) s = .next (((s.hear q f.sequence).setSession { k with outstanding := none }).notify q.id))) ∧
  (∀ (f : Frame) (q : Session) (body : List Byte) (s : State), s.fieldUp = true → s.trusted 0x10 f = some q →
    q.lastRequest = some (f.sequence, body) → exec (.request f) s = .next (((s.setSession { q with
      heard := s.module.clock.timebase }).bumpPort (odKey 0x1010 0x20)).sessionFrame q.id 0x11 body)) ∧
  (∀ (f : Frame) (s : State), s.fieldUp = true → s.trusted 0x15 f = none →
    exec (.close f) s = .next (s.bumpPort (odKey 0x1010 0x21))) ∧
  (∀ (n m : Nat) (q : Session) (seq : Word) (body : List Byte) (s : State), s.session n = some q →
    q.outstanding = some (seq, body, m) → m < 5 →
    exec (.notifyResend n) s = .next ((s.setSession { q with outstanding := some (seq, body, m + 1) }).resendNotify q seq body)) ∧
  (∀ (n : Nat) (s : State), exec (.sessionIdleTimeout n) s = .next (s.closeSession n (some 1))) ∧
  (∀ (n : Nat) (s : State), s.fieldUp = true → exec (.migerFrameDiscarded n .foreign) s = .next s ∧
    exec (.migerFrameDiscarded n (.badVersion true)) s = .next (s.discard.refuseSession 2) ∧
    exec (.migerFrameDiscarded n (.badLength true)) s = .next (s.discard.refuseSession 3) ∧
    exec (.migerFrameDiscarded n (.badVersion false)) s = .next s.discard)

/-- Descriptors of the four digital engines: started, refused, or waiting for a bank. A product, transpose, row or raster
descriptor whose job may begin (the channel in P0 and out of the safe state, with what R414, R418 and R422 ask of its
context): one that fails its load checks is refused. One that loads, or that is held with what it has loaded (R200), waits
while a bank of it holds an earlier tag and counts BANK_WAITS, is refused where the bank has gone past its tag, and starts
otherwise: a product has its output tiles to do, and the other three are executed whole and end. A program entry that has
started does not wait again. ENGINE_TILE_COMPLETE of a tile that is not done ends that tile. Derived from
07_digital_engines.md. -/
def Obligations.EngineDescriptors : Prop :=
  (∀ (c : Chan) (n : Nat) (j : Job) (s : State), s.ready c n 0x20 = some j →
    (∀ r, (∀ y, j.phase ≠ .held y) → (s.chan c).loadProduct (s.loadEnv c j) j = .error r →
      exec (.productDescriptor c n) s = .next (s.refuseJob c j r)) ∧
    (∀ e, j.takesUp (.product e) ((s.chan c).loadProduct (s.loadEnv c j) j = .ok e) →
      ∃ t, exec (.productDescriptor c n) s = .next t ∧ s.startsAs c j (.product e) (fun s => s.onChan c (fun h => h.setJob { j with phase := .product e })) t)) ∧
  (∀ (c : Chan) (n tile : Nat) (j : Job) (e : ProductExec) (s : State), (s.chan c).job n = some j → j.phase = .product e →
    (s.chan c).issues = true →
    (tile < e.tileCount → tile ∉ e.done → exec (.engineTileComplete c n tile) s = .next (s.endTile c j e tile)) ∧
    (e.tileCount ≤ tile ∨ tile ∈ e.done → exec (.engineTileComplete c n tile) s = .next s)) ∧
  (∀ (c : Chan) (n : Nat) (j : Job) (s : State), s.ready c n 0x32 = some j →
    (∀ r, (∀ y, j.phase ≠ .held y) → (s.chan c).loadTranspose (s.loadEnv c j) j = .error r →
      exec (.transposeDescriptor c n) s = .next (s.refuseJob c j r)) ∧
    (∀ src dst, j.takesUp (.transpose src dst) ((s.chan c).loadTranspose (s.loadEnv c j) j = .ok (src, dst)) →
      ∃ t, exec (.transposeDescriptor c n) s = .next t ∧ s.startsAs c j (.transpose src dst) (fun s => s.transposeStarted c j src dst) t)) ∧
  (∀ (c : Chan) (n : Nat) (j : Job) (s : State), s.ready c n 0x30 = some j →
    (∀ r, (∀ y, j.phase ≠ .held y) → (s.chan c).loadRow (s.loadEnv c j) j = .error r →
      exec (.rowDescriptor c n) s = .next (s.refuseJob c j r)) ∧
    (∀ e, j.takesUp (.row e) ((s.chan c).loadRow (s.loadEnv c j) j = .ok e) →
      ∃ t, exec (.rowDescriptor c n) s = .next t ∧ s.startsAs c j (.row e) (fun s => s.rowStarted c j e) t)) ∧
  (∀ (c : Chan) (n : Nat) (j : Job) (s : State), s.ready c n 0x60 = some j →
    (∀ r, (∀ y, j.phase ≠ .held y) → (s.chan c).loadRaster (s.loadEnv c j) j = .error r →
      exec (.rasterDescriptor c n) s = .next (s.refuseJob c j r)) ∧
    (∀ e, j.takesUp (.raster e) ((s.chan c).loadRaster (s.loadEnv c j) j = .ok e) →
      ∃ t, exec (.rasterDescriptor c n) s = .next t ∧ s.startsAs c j (.raster e) (fun s => s.rasterStarted c j e) t)) ∧
  (∀ (c : Chan) (j : Job) (x : Held) (s : State), (∀ e, x ≠ .array e) →
    (∀ r, (s.chan c).banksCheck j x.tensors = .error r → s.heldWait c j x = .error r) ∧
    ((s.chan c).banksCheck j x.tensors = .ok true → s.heldWait c j x = .ok (some (0, kEng c 0x08))) ∧
    ((s.chan c).banksCheck j x.tensors = .ok false → s.heldWait c j x = .ok none)) ∧
  (∀ (c : Chan) (j : Job) (src dst : TensorDesc) (e : RowExec) (r : RasterExec) (s u : State),
    (u = (s.countNearest c j [dst]).transpose c j (s.drawKeys c j dst) src dst →
      s.transposeStarted c j src dst = u.finishJob c (u.current c j) 0 0) ∧
    (u = (s.countNearest c j e.written).rowExecute c j e → s.rowStarted c j e = u.finishJob c (u.current c j) 0 0) ∧
    (u = s.rasterExecute c j r → s.rasterStarted c j r = u.finishJob c (u.current c j) 0 0))

/-- ACCUMULATE_WRITE, READ_CLEAR and CLEAR on groups of KA48 values. On an aligned burst in HBM of a channel that is up, from
memory in canonical form: ACCUMULATE_WRITE makes each masked value of the group its KA48 sum with its increment, leaves the
others, changes no byte outside the 60 of the group, returns a status for each value, and counts one command; READ_CLEAR
gives the ten values and sets them to +0, and changes nothing else but the trace; CLEAR sets every group of a range to +0 and
changes no byte outside the range. A burst that is not aligned to 64 bytes or lies outside HBM stops with noSuchBurst (log
entry 104). Derived from 03_number_formats.md, 08_training_step.md. -/
def Obligations.BaseDieBursts : Prop :=
  (∀ (c : Chan) (b : Nat) (m : BitVec 10) (w : List Word) (s : State), burstOk b = true → (s.chan c).up = true →
    exec (.accumulateWrite c b m w) s = .next (((s.onChan c (fun h => h.accumulateGroup (s.k2 c) b m w)).countAccumulates c 1).emit
      (.accumulateStatus ((s.chan c).groupStatus (s.k2 c) b m w)))) ∧
  (∀ (h : Channel) (k2 : Bool) (b : Nat) (m : BitVec 10) (w : List Word), Memory.wf h.mem = true → burstOk b = true →
    h.keepsOutside (h.accumulateGroup k2 b m w) b 60 ∧
    ∀ i, i < 10 → (h.accumulateGroup k2 b m w).nat (b + 6 * i) 6 =
      if m.getLsbD i then Fp.encode ka48 (kaAdd k2 (Fp.decode ka48 (h.nat (b + 6 * i) 6)) (f32 (w.getD i 0#32).toNat)).1 % 2 ^ 48
      else h.nat (b + 6 * i) 6) ∧
  (∀ (c : Chan) (b : Nat) (s : State), burstOk b = true → (s.chan c).up = true → s.memOk →
    ∃ t : State, exec (.readClear c b) s = .next t ∧ t.out = .readValues ((s.chan c).group b) :: s.out ∧
      (t.chan c).group b = List.replicate 10 0 ∧ (s.chan c).keepsOutside (t.chan c) b 60 ∧
      { t.chan c with mem := (s.chan c).mem } = s.chan c ∧ (∀ d, d ≠ c → t.chan d = s.chan d) ∧
      t.module = s.module ∧ t.od = s.od ∧ t.pending = s.pending) ∧
  (∀ (c : Chan) (a n : Nat) (s : State), a % 64 = 0 → n % 64 = 0 → inHbm a n = true → (s.chan c).up = true → s.memOk →
    ∃ t : State, exec (.clear c a n) s = .next t ∧ (∀ i, i < n / 64 → (t.chan c).group (a + 64 * i) = List.replicate 10 0) ∧
      (s.chan c).keepsOutside (t.chan c) a n ∧ { t.chan c with mem := (s.chan c).mem } = s.chan c ∧
      (∀ d, d ≠ c → t.chan d = s.chan d) ∧ t.module = s.module ∧ t.od = s.od ∧ t.out = s.out ∧ t.pending = s.pending) ∧
  (∀ (c : Chan) (b : Nat) (m : BitVec 10) (w : List Word) (s : State), burstOk b = false →
    exec (.accumulateWrite c b m w) s = .fault .noSuchBurst ∧ exec (.readClear c b) s = .fault .noSuchBurst) ∧
  (∀ (c : Chan) (a n : Nat) (s : State), (a % 64 ≠ 0 ∨ n % 64 ≠ 0 ∨ inHbm a n = false) →
    exec (.clear c a n) s = .fault .noSuchBurst)

/-- Weights, version builds, programs and the end of descriptors. A weight descriptor that loads registers the weight with its
initial tag and builds that version, or waits for the build while the tag two before it is live; one that fails its checks is
refused; RELEASE without a program removes it. VERSION_BUILD builds the waiting weights of the oldest version, ends the
descriptors that waited for it and looks at waiting banks again while tag v - 2 is not live, and does nothing while it is.
PROGRAM_LOAD with no program and no refresh due installs a program that passes R239, refuses another, and waits otherwise.
PROGRAM_ENTRY_START loads an idle entry that R240 and R250 let start, and a gradient buffer still in use counts one wait;
R236 holds no micro-batch of the loaded program back, since every live tag of the channel is its own; a loaded entry is taken
up again. DESCRIPTOR_COMPLETE ends a descriptor that has done its work. A program that ends is done for its step only with
status 0x00. Derived from 08_training_step.md. -/
def Obligations.WeightsAndPrograms : Prop :=
  (∀ (c : Chan) (n : Nat) (j : Job) (s : State), s.ready c n 0x73 = some j → (s.chan c).releases j.addr = false →
    (∀ r, (s.chan c).loadWeight (s.loadEnv c j) j = .error r → exec (.weightDescriptor c n) s = .next (s.refuseJob c j r)) ∧
    (∀ w tag u, (s.chan c).loadWeight (s.loadEnv c j) j = .ok w → tag = BitVec.ofNat 16 ((s.chan c).nat (j.addr + 8) 2) →
      u = s.onChan c (fun h => { h.clearBuffer w.grad with training := { h.training with
        weights := h.training.weights ++ [w.setHeld (tag.toNat % 2) (some tag)] } }) →
      ((u.chan c).live (tag - 2) = false →
        exec (.weightDescriptor c n) s = .next ((u.buildWeight c w.id tag).finishJob c j 0 0)) ∧
      ((u.chan c).live (tag - 2) = true →
        exec (.weightDescriptor c n) s = .next ((u.onChan c (fun h => h.setJob { j with phase := .building w.id })).onTraining c
          (fun t => { t with builds := t.builds ++ [(tag, [w.id])] }))))) ∧
  (∀ (c : Chan) (n id : Nat) (j : Job) (s : State), s.ready c n 0x73 = some j → (s.chan c).releases j.addr = true →
    (s.chan c).nat j.addr 2 = 0x73 → (s.chan c).training.program = none → id = (s.chan c).nat (j.addr + 4) 2 → id < 4096 →
    exec (.weightRelease c n) s = .next ((s.onTraining c (fun t => { t with
      weights := t.weights.filter (fun w => w.id != id) })).finishJob c j 0 0)) ∧
  (∀ (c : Chan) (v : Half) (left : List Nat) (rest : List (Half × List Nat)) (s : State), (s.chan c).training.builds = (v, left) :: rest →
    (s.chan c).issues = true →
    ((s.chan c).live (v - 2) = false → exec (.versionBuild c) s = .next
      ((((((s.chan c).training.ids.filter (fun i => left.contains i)).foldl (fun s i => s.buildWeight c i v) s).onTraining c
        (fun t => { t with builds := rest })).endBuilds c left).recheckBanks c)) ∧
    ((s.chan c).live (v - 2) = true → exec (.versionBuild c) s = .next s)) ∧
  (∀ (c : Chan) (n : Nat) (j : Job) (s : State), s.ready c n 0x70 = some j →
    ((s.chan c).training.program = none → (s.chan c).safety.refreshFirst = [] →
      (∀ f, s.checkProgram c j = .error f → exec (.programLoad c n) s = .next (s.refuseProgram c j f)) ∧
      (∀ p, s.checkProgram c j = .ok p → exec (.programLoad c n) s = .next (s.installProgram c j p))) ∧
    ((s.chan c).training.program ≠ none ∨ (s.chan c).safety.refreshFirst ≠ [] →
      exec (.programLoad c n) s = .next (s.onChan c (fun h => h.setJob { j with phase := .waiting })))) ∧
  (∀ (c : Chan) (i : Fin 15) (p : Program) (e : SlotEntry) (s : State), (s.chan c).training.program = some p →
    (p.slots.getD p.slot [])[i.val]? = some e → (s.chan c).runs = true → p.mayStart i.val = true →
    (s.chan c).versionStalled p e.mb = false ∧
    ((e.weight = 0xFFFF ∨ (s.chan c).bufferBusy e.weight = false) →
      exec (.programEntryStart c i) s = .next (s.loadEntry c p i.val e)) ∧
    (e.weight ≠ 0xFFFF → (s.chan c).bufferBusy e.weight = true → i.val ∉ p.gradWaited →
      exec (.programEntryStart c i) s = .next ((s.onTraining c (fun t => { t with
        program := some { p with gradWaited := i.val :: p.gradWaited } })).bump c (kEng c 0x09)))) ∧
  (∀ (c : Chan) (i : Fin 15) (p : Program) (e : SlotEntry) (j : Job) (x : Held) (s : State), (s.chan c).training.program = some p →
    (p.slots.getD p.slot [])[i.val]? = some e → (s.chan c).runs = true → p.abandoned = none →
    p.states.getD i.val .done = .loaded → (s.chan c).entryJob p i.val = some j → j.phase = .held x →
    exec (.programEntryStart c i) s = .next (s.takeEntry c j x)) ∧
  (∀ (c : Chan) (n r0 r1 : Nat) (j : Job) (s : State), (s.chan c).job n = some j → j.phase = .ended r0 r1 →
    exec (.descriptorComplete c n) s = .next (s.completeJob c j r0 r1)) ∧
  (∀ (c : Chan) (p : Program) (r0 r1 x sq id flags : Nat) (j : Job) (s u : State), j.owner = .sub x sq id flags →
    (u = (((s.onTraining c (fun t => { t with program := none })).markProgramDone c p.step).releaseKeys c) →
      (u.chan c).job p.job = some j →
      s.endProgram c p 0 r0 r1 = (u.onChan c (fun h => h.dropJob j.id)).endSubmission c x sq id flags 0 r0 r1) ∧
    (∀ status, status ≠ 0 →
      u = (((s.onTraining c (fun t => { t with program := none, silence := t.silence.filter (fun q => q.step != p.step) })).bump c
        (kEng c 0x0E)).releaseKeys c) → (u.chan c).job p.job = some j →
      s.endProgram c p status r0 r1 = (u.onChan c (fun h => h.dropJob j.id)).endSubmission c x sq id flags status r0 r1))

/-- When STASH_BASE and STASH_BOUND may be written, and a stash of no bytes. By a request that passes its checks, with a value
that is a multiple of 64 KiB and at most the size of HBM (log entry 44): while no program is loaded and no KEY is held, a
write of STASH_BASE or STASH_BOUND stores the value; at any other time the registers keep their values, an event is raised
and the write is answered with status 0x05. While STASH_BOUND is 0 an OUT of a tensor that passes the checks of its
descriptor finds no room: it is dropped or stalls (R253). Formalises R256. -/
def Obligations.StashRegion : Prop :=
  (∀ (p : ReqPath) (c : Chan) (sub : Byte) (d : List Byte) (r : OdRow) (s : State),
    s.passes p (0x6100 + 0x100 * c.val) sub.toNat 0 d (some c) r → (sub = 0x40#8 ∨ sub = 0x41#8) →
    leNat d % 65536 = 0 → leNat d ≤ hbmSize →
    (((s.chan c).training.program = none ∧ ∀ k ∈ (s.chan c).training.stash, k.dropped = true) →
      exec (.odWrite p (BitVec.ofNat 16 (0x6100 + 0x100 * c.val)) sub 0 d) s =
        .next (s.answered (s.storeEnt (0x6100 + 0x100 * c.val) sub.toNat (leNat d)) p (0x6100 + 0x100 * c.val) sub.toNat 0 d (some c) r)) ∧
    (((s.chan c).training.program ≠ none ∨ ∃ k ∈ (s.chan c).training.stash, k.dropped = false) →
      exec (.odWrite p (BitVec.ofNat 16 (0x6100 + 0x100 * c.val)) sub 0 d) s =
        .next ((s.raiseIgnored (0x6100 + 0x100 * c.val) sub.toNat).reply p 0x05 r.ty
          (entryLength (0x6100 + 0x100 * c.val) sub.toNat r.ty) 0 []) ∧
      ((s.raiseIgnored (0x6100 + 0x100 * c.val) sub.toNat).reply p 0x05 r.ty
          (entryLength (0x6100 + 0x100 * c.val) sub.toNat r.ty) 0 []).ent (kEng c 0x40) = s.ent (kEng c 0x40) ∧
      ((s.raiseIgnored (0x6100 + 0x100 * c.val) sub.toNat).reply p 0x05 r.ty
          (entryLength (0x6100 + 0x100 * c.val) sub.toNat r.ty) 0 []).ent (kEng c 0x41) = s.ent (kEng c 0x41))) ∧
  (∀ (c : Chan) (n key : Nat) (j : Job) (t : TensorDesc) (s : State), s.ready c n 0x38 = some j →
    j.takesUp (.stashOut t key) ((s.chan c).isIn j.addr = false ∧ (s.chan c).loadOut (s.loadEnv c j) j = .ok (t, key)) →
    (s.chan c).banksCheck j [t] = .ok false → 0 < t.granules →
    s.ent (kEng c 0x41) = 0 → exec (.stashOut c n) s = .next (s.stashFull c j t key))

/-- Stash descriptors that run: OUT, a stalled OUT that resumes, IN, and recompute. A STASH_OUT whose job may begin, of a tensor
that passes its checks or is held with them passed, waits for its bank; with a free run of granules it is copied there, and
without one dropped or stalled; one that fails its checks, a KEY already held among them, is refused. STASH_OUT_RESUME copies
the first stalled OUT for which a run is free, and does nothing while there is none. A STASH_IN starts, waits or is refused;
one of a KEY that is not held is refused; a dropped tensor is recomputed, one descriptor after another, and another is copied
back, its writes counted, and the pieces freed where FREE is set. Derived from 08_training_step.md. -/
def Obligations.StashMoves : Prop :=
  (∀ (c : Chan) (n : Nat) (j : Job) (s : State), s.ready c n 0x38 = some j → (∀ y, j.phase ≠ .held y) →
    (s.chan c).isIn j.addr = false →
    (∀ r, (s.chan c).loadOut (s.loadEnv c j) j = .error r → exec (.stashOut c n) s = .next (s.refuseJob c j r)) ∧
    ∀ t key dir free, (s.chan c).loadStash (s.loadEnv c j) j = .ok (t, key, dir, free) → (s.chan c).training.key key ≠ none →
      exec (.stashOut c n) s = .next (s.refuseJob c j ⟨0x38, j.addr, 4, 0⟩)) ∧
  (∀ (c : Chan) (n key : Nat) (j : Job) (t : TensorDesc) (s : State), s.ready c n 0x38 = some j →
    j.takesUp (.stashOut t key) ((s.chan c).isIn j.addr = false ∧ (s.chan c).loadOut (s.loadEnv c j) j = .ok (t, key)) →
    (∀ r, (s.chan c).banksCheck j [t] = .error r → exec (.stashOut c n) s = .next (s.refuseJob c j r)) ∧
    ((s.chan c).banksCheck j [t] = .ok true → exec (.stashOut c n) s = .next (s.holdJob c j (.stashOut t key) 0 (kEng c 0x08))) ∧
    ((s.chan c).banksCheck j [t] = .ok false →
      (∀ g, (s.chan c).training.freeRun (s.stashGranules c) t.granules = some g →
        exec (.stashOut c n) s = .next ((s.markStarted c j).stashCopy c j t key g)) ∧
      ((s.chan c).training.freeRun (s.stashGranules c) t.granules = none →
        exec (.stashOut c n) s = .next (s.stashFull c j t key)))) ∧
  (∀ (c : Chan) (s : State), (s.chan c).runs = true →
    (∀ (j : Job) (key g k : Nat) (t : TensorDesc) (pre rest : List Job), (s.chan c).jobs = pre ++ j :: rest →
      (∀ i ∈ pre, ∀ key k t, i.phase = .stalled key k t → (s.chan c).training.freeRun (s.stashGranules c) k = none) →
      j.phase = .stalled key k t → (s.chan c).training.freeRun (s.stashGranules c) k = some g →
      exec (.stashOutResume c) s = .next ((s.markStarted c j).stashCopy c j t key g)) ∧
    ((∀ i ∈ (s.chan c).jobs, ∀ key k t, i.phase = .stalled key k t → (s.chan c).training.freeRun (s.stashGranules c) k = none) →
      exec (.stashOutResume c) s = .next s)) ∧
  (∀ (c : Chan) (n : Nat) (j : Job) (s : State), s.ready c n 0x38 = some j →
    ((∀ y, j.phase ≠ .held y) → (s.chan c).isIn j.addr = true →
      (∀ r, (s.chan c).loadIn (s.loadEnv c j) j = .error r → exec (.stashIn c n) s = .next (s.refuseJob c j r)) ∧
      ∀ t key dir free, (s.chan c).loadStash (s.loadEnv c j) j = .ok (t, key, dir, free) → (s.chan c).training.key key = none →
        exec (.stashIn c n) s = .next (s.refuseJob c j ⟨0x38, j.addr, 4, 0⟩)) ∧
    ∀ t key free, j.takesUp (.stashIn t key free)
        ((s.chan c).isIn j.addr = true ∧ (s.chan c).loadIn (s.loadEnv c j) j = .ok (t, key, free)) →
      ∃ u, exec (.stashIn c n) s = .next u ∧ s.startsAs c j (.stashIn t key free) (fun s => s.stashBack c j t key free) u) ∧
  (∀ (c : Chan) (j : Job) (t : TensorDesc) (key : Nat) (free : Bool) (k : Stashed) (s u : State),
    (s.chan c).training.key key = some k →
    (k.dropped = true → s.stashBack c j t key free = s.onChan c (fun h => h.setJob { j with
      phase := .recomputing (h.recomputeList k.tensor.recompute) key free })) ∧
    (k.dropped = false → k.tensor.layout = t.layout → u = (s.countNearest c j [t]).onChan c (fun h =>
        if free then { h.unpackRows t (s.ent (kEng c 0x40) + 65536 * k.first) with
            training := { (h.unpackRows t (s.ent (kEng c 0x40) + 65536 * k.first)).training with
              stash := (h.unpackRows t (s.ent (kEng c 0x40) + 65536 * k.first)).training.stash.filter (fun q => q.key != key) } }
        else h.unpackRows t (s.ent (kEng c 0x40) + 65536 * k.first)) →
      s.stashBack c j t key free = ((u.countSilence c j t ((u.chan c).copiedBlocks t)).perfAdd c 73 (t.storedRows * t.padded)).finishJob
        c j 0 0)) ∧
  (∀ (c : Chan) (n key a : Nat) (left : List Nat) (free : Bool) (j : Job) (s : State), (s.chan c).job n = some j →
    j.phase = .recomputing (a :: left) key free → (∀ i ∈ (s.chan c).jobs, i.owner ≠ .recompute j.id) → (s.chan c).issues = true →
    exec (.recomputeDescriptor c n) s = .next (s.onChan c (fun h =>
      (h.setJob { j with phase := .recomputing left key free }).addJob (.recompute j.id) a (h.nat a 2))))

/-- Array layers executed: descriptors, tile reads, deliveries and deferred outliers. An array descriptor whose job may begin:
one that fails its checks is refused; one that loads, or is held with what it has loaded, waits for a bank of an earlier tag
or for the factors of its tag, each under its own counter, is refused where its layer has switched to a later tag, and
otherwise starts: the folds that are due switch, once no earlier read of the layer is left, and its vectors begin. Tile reads
are issued in P0 under cartridge power; the end of a tile read takes the next step of its loop. The next vector in order is
delivered when complete: its row is written, its statistics merged, and the last one ends the descriptor. A deferred outlier
is read and served. Derived from 04_weight_arrays.md. -/
def Obligations.ArrayExecution : Prop :=
  (∀ (c : Chan) (n : Nat) (j : Job) (s : State), s.ready c n 0x41 = some j →
    (∀ r, (∀ y, j.phase ≠ .held y) → s.loadArray c j = .error r → exec (.arrayLayerExecute c n) s = .next (s.refuseJob c j r)) ∧
    (∀ e, j.takesUp (.array e) (s.loadArray c j = .ok e) →
      ∃ t, exec (.arrayLayerExecute c n) s = .next t ∧ s.startsAs c j (.array e) (fun s => s.gatewayStart c j e) t)) ∧
  (∀ (c : Chan) (j : Job) (e : ArrayExec) (l : Layer) (s : State),
    (s.chan c).arrays.layers.find? (fun l => l.id == e.layer) = some l →
    (s.chan c).banksCheck j [e.param, e.input, e.output, e.snapshot] = .ok false →
    (∀ w, l.switched = some w → later16 w e.tag = true → s.heldWait c j (.array e) = .error ⟨0x41, j.addr, 0, 0⟩) ∧
    ((∀ w, l.switched = some w → later16 w e.tag = false) →
      (s.refreshPending c l e.tag = true → s.heldWait c j (.array e) = .ok (some (1, kArr c 0x31))) ∧
      (s.refreshPending c l e.tag = false → s.heldWait c j (.array e) = .ok none))) ∧
  (∀ (c : Chan) (j : Job) (e : ArrayExec) (l : Layer) (due : List Fold) (s u : State),
    (s.chan c).arrays.layers.find? (fun l => l.id == e.layer) = some l →
    due = (if s.mirror c then [] else (s.chan c).arrays.folds.filter (fun f => f.layer == l.id && f.reached e.tag)) →
    (due ≠ [] → (s.chan c).layerReads j.id l.id = true →
      s.gatewayStart c j e = s.onChan c (fun h => h.setJob { j with phase := .held (.array e) })) ∧
    (due = [] ∨ (s.chan c).layerReads j.id l.id = false → u = due.foldl (fun s f => s.switchFold c j e l f) s →
      s.gatewayStart c j e = (u.countNearest c j [e.output]).startArray c (u.current c j) e)) ∧
  (∀ (c : Chan) (s : State), (s.chan c).issues = true → (s.chan c).power.cartSupply = true →
    exec (.tileReadIssue c) s = .next (s.issueFrom c ((s.chan c).arrays.reads.filter (fun r => r.phase == .waiting)))) ∧
  (∀ (c : Chan) (side tile k i : Nat) (spare : Bool) (acc : List Nat) (r : TileRead) (e : ArrayExec) (v : VecState) (s : State),
    (s.chan c).arrays.reads.find? (fun r => r.id == i) = some r → r.phase = .active side tile spare k acc →
    (s.chan c).execOf r.job = some e → e.vecs.find? (fun v => v.index == r.vec) = some v →
    exec (.tileReadComplete c i) s = .next (s.readLoop c r e v side tile spare k acc)) ∧
  (∀ (c : Chan) (n : Nat) (j : Job) (e : ArrayExec) (v : VecState) (ks : List Nat) (g : Channel × Stats) (inv : List Invalid)
      (s u w x : State), (s.chan c).job n = some j → (s.chan c).execOf n = some e →
    e.vecs.find? (fun v => v.index == e.delivered) = some v → v.complete e = true → (s.chan c).issues = true →
    ks = (if v.kind = .mirror then List.range e.k else []) →
    inv = (s.chan c).paramFaults e v.index ks ++ ((s.chan c).vectorOuts e v).flatMap (fun o => o.invalid) →
    g = (if e.output.format = 0x12 then (s.chan c).deliverKa (s.k2 c) e v
      else if e.output.layout = 0 then (s.chan c).deliverRow (s.k2 c) e (s.drawKeys c j e.output) v
      else (s.chan c).deliverColumn (s.k2 c) e (s.drawKeys c j e.output) v) →
    u = ((((s.setChan c g.1).mergeStats c e.output g.2).countSilence c j e.output g.2).onChan c (fun h => match h.job n with
      | some j => h.setJob (j.noteInvalid e.output g.2)
      | none => h)) →
    x = (inv.foldl (fun s i => s.gatewayInvalid c n e i) u).storeReads c (fun w => e.paramTouches ks w ||
      (v.kind != .mirror && decide (e.scaleAddr ≤ 8 * w) && decide (8 * w < e.scaleAddr + 2 * e.n))) →
    w = (if e.output.format = 0x12 then x.countAccumulates c e.kaCount else x).setExec c n { e with delivered := e.delivered + 1 } →
    (e.delivered + 1 ≠ e.vectors → exec (.vectorDelivery c n) s = .next w) ∧
    (∀ k, e.delivered + 1 = e.vectors → (w.chan c).job n = some k →
      exec (.vectorDelivery c n) s = .next (w.finishJob c k 0 0))) ∧
  (∀ (c : Chan) (d : Deferred) (rest : List Deferred) (s u : State), (s.chan c).arrays.deferred = d :: rest →
    (s.chan c).issues = true → u = s.onArrays c (fun a => { a with deferred := rest }) →
    ((u.chan c).execOf d.job = none → exec (.deferredOutlierServe c) s = .next u) ∧
    (∀ e, (u.chan c).execOf d.job = some e →
      exec (.deferredOutlierServe c) s = .next ((u.readOutliers c d.job e d.vec [d.index]).onExec c d.job (fun x => { x with
        vecs := x.vecs.map (fun v => if v.index = d.vec then { v with
          deferredLeft := v.deferredLeft - 1, outliers := v.outliers ++ (u.chan c).outlierTerms e [(d.index, d.value)] } else v) }))))

/-- Programming of array layers, factor refresh, and calibration of tiles. A programming descriptor that loads writes its views,
registers the layer and requests the program of each tile; RELEASE of no registered layer ends at once, and of a layer
cancels its folds, releases its entries and waits, and selects the folds of the version where its refresh was the last one
due. The next tile program starts and counts, or fails on a tile at its rating; one that verifies is finished; one that does
not writes a bad header and runs once more, then fails. FACTOR_REFRESH of the oldest due layer; POWERED_HOUR counts an hour
of a slot under power. A calibration starts with the temperature of its slot; its end is that of its kind. Derived from
05_array_programming.md, 06_array_calibration.md. -/
def Obligations.ArrayProgrammingAndCalibration : Prop :=
  (∀ (c : Chan) (n : Nat) (j : Job) (s : State), s.ready c n 0x50 = some j → (s.chan c).releases j.addr = false →
    (∀ r, s.loadProgramDesc c j = .error r → exec (.programDescriptor c n) s = .next (s.refuseJob c j r)) ∧
    (∀ e u, s.loadProgramDesc c j = .ok e →
      u = ((s.writeViews c j e).onArrays c (fun a => { a with layers := a.layers ++ [e.layer] })).onChan c (fun h =>
        h.setJob { ((h.job j.id).getD j) with phase := .programming e.layer.id 0 0 0 }) →
      exec (.programDescriptor c n) s = .next (e.layer.tiles.foldl (fun s d =>
        (s.onChan c (fun h => h.toState d .loading)).requestProgram c (.first d e.layer.id) d false) u))) ∧
  (∀ (c : Chan) (n id : Nat) (j : Job) (s : State), s.ready c n 0x50 = some j → (s.chan c).releases j.addr = true →
    (s.chan c).nat j.addr 2 = 0x50 → id = (s.chan c).nat (j.addr + 74) 2 → id < 4096 →
    ((∀ l ∈ (s.chan c).arrays.layers, l.id ≠ id) → exec (.programRelease c n) s = .next (s.finishJob c j 0 0)) ∧
    (∀ l u, (s.chan c).arrays.layers.find? (fun l => l.id == id) = some l →
      u = l.tiles.foldl (fun s d => s.releaseEntry c d)
        (((s.chan c).arrays.folds.filter (fun f => f.layer == id)).foldl (fun s f => s.cancelFold c f) s) →
      ∀ w, w = u.onArrays c (fun a => { a with
          retireWaits := a.retireWaits.filter (fun d => !l.tiles.contains d || a.releaseWaits.contains d),
          calQueue := a.calQueue.filter (fun d => !l.tiles.contains d || a.releaseWaits.contains d),
          refreshLeft := a.refreshLeft.filter (fun i => i != id) }) →
      exec (.programRelease c n) s = .next (((if (s.chan c).arrays.refreshLeft ≠ [] ∧ (w.chan c).arrays.refreshLeft = [] then
          w.selectFolds c (s.chan c).arrays.refreshVersion else w).onChan c (fun h =>
        h.setJob { j with phase := .releasing id })).settleRelease c))) ∧
  (∀ (c : Chan) (p : TileProg) (s u : State), (s.chan c).nextProg = some p →
    u = s.onArrays c (fun a => { a with progQueue := a.progQueue.filter (fun q => q.id != p.id) }) →
    (tileRating ≤ ((u.chan c).slot (p.entry / slotEntries)).count ((u.chan c).tileOf p.entry) →
      exec (.tileProgramStart c) s = .next (u.progFailed c p)) ∧
    (((u.chan c).slot (p.entry / slotEntries)).count ((u.chan c).tileOf p.entry) < tileRating →
      exec (.tileProgramStart c) s = .next ((u.countProgram c (p.entry / slotEntries) ((u.chan c).tileOf p.entry)).onArrays c
        (fun a => { a with progs := a.progs ++ [p] })))) ∧
  (∀ (c : Chan) (i : Nat) (p : TileProg) (s u b : State), (s.chan c).arrays.progs.find? (fun p => p.id == i) = some p →
    u = s.onArrays c (fun a => { a with progs := a.progs.filter (fun q => q.id != i) }) →
    b = u.onChan c (fun h => h.writeHeader p.entry 0x3F80#16 0#8 false []) →
    exec (.tileProgramComplete c i true) s = .next (u.progVerified c p) ∧
    (p.again = true → exec (.tileProgramComplete c i false) s = .next (b.progFailed c p)) ∧
    (p.again = false → exec (.tileProgramComplete c i false) s = .next (b.requestProgram c p.purpose p.entry true))) ∧
  (∀ (c : Chan) (id : Nat) (rest : List Nat) (l : Layer) (s u : State), (s.chan c).arrays.refreshLeft = id :: rest →
    s.mirror c = false → (s.chan c).issues = true → (s.chan c).live ((s.chan c).arrays.refreshVersion - 2) = false →
    (s.chan c).arrays.layers.find? (fun l => l.id == id) = some l →
    u = (s.refreshLayer c l (s.chan c).arrays.refreshVersion (s.chan c).arrays.refreshStep).onChan c (fun h => { h with
      arrays := { h.arrays with refreshLeft := rest },
      safety := { h.safety with refreshFirst := h.safety.refreshFirst.filter (fun i => i != id) } }) →
    (rest ≠ [] → exec (.factorRefresh c) s = .next u) ∧
    (rest = [] → exec (.factorRefresh c) s = .next (u.selectFolds c (s.chan c).arrays.refreshVersion))) ∧
  (∀ (x : Slot) (y : SlotState) (s : State), (s.chan x.owner).slot x.side.val = y → y.present = true →
    (s.chan x.owner).power.cartSupply = true →
    exec (.poweredHour x) s = .next (s.onChan x.owner (fun h => h.setSlot x.side.val { y with
      hours := (y.hourNow :: y.hours).take 168, hourNow := 0, poweredHours := y.poweredHours + 1 }))) ∧
  (∀ (c : Chan) (k : CalStart) (t : Int) (s u : State), u = (if (s.chan c).issues then s.calPump c else s) →
    (u.chan c).nextCal (u.serviceWaits c) = some k → ((u.chan c).slot k.side).temp = some t →
    exec (.tileCalibrationStart c) s = .next ((u.onChan c (fun h =>
      let g := { h with nextId := h.nextId + 1, arrays := { h.arrays with
        cals := h.arrays.cals ++ [⟨h.nextId, k.side, k.tile, k.entry, k.mode, t⟩],
        calQueue := if k.mode = .sweep then h.arrays.calQueue else h.arrays.calQueue.filter (fun e => e != k.entry) } }
      if k.mode = .sweep then g.setSlot k.side { (g.slot k.side) with sweep := some (k.tile + 1) }
      else if k.mode = .spare then g.toState k.entry .calibrating
      else g)).calPump c)) ∧
  (∀ (c : Chan) (i : Nat) (k : TileCal) (s : State), (s.chan c).arrays.cals.find? (fun k => k.id == i) = some k →
    exec (.tileCalibrationComplete c i) s = .next ((((s.calEnd c k).sweepFailed c k).settleStart c).watchDegraded s))

/-- Flits received on a link, and its timers: each completes in every state. On a port that hears: an IDLE flit counts with its
corrected symbols and applies its acknowledgement; a DATA flit besides that is accepted when its sequence is the one
expected, answered with a NAK when it is at most 2,047 ahead, and dropped otherwise, or where the replay that it asked for
has stopped the link. A bad flit counts by its kind and is answered with a NAK; one that shows no fault is taken as the good
flit it is. REPLAY_TIMEOUT repeats a NAK that is outstanding, sends the replay buffer again and counts; with nothing to
resend the latter is left out. A fast retrain ends with the replay buffer sent again, or fails the link with reason 3.
TICKET_RETURN_TIMER sends a DATA flit of pads when tickets wait to be returned, the port may send and no packet may start,
and nothing otherwise. On a port that does not hear, or is not retraining, these change nothing. Derived from
10_fabric_links.md. -/
def Obligations.FlitsOnALink : Prop :=
  (∀ (c : Chan) (p : Port) (f : Flit) (n : Fin 16) (s u : State), (s.chan c).hears p.val = true →
    u = ((s.bump c (kPort c p.val 0x03)).bumpBy c (kPort c p.val 0x04) n.val).applyAck c p (f.received n) →
    exec (.idleFlit c p ⟨f, n⟩) s = .next u ∧
    ((u.chan c).hears p.val = false → exec (.dataFlit c p ⟨f, n⟩) s = .next u) ∧
    ((u.chan c).hears p.val = true →
      (f.seq = ((u.chan c).link p.val).expected → exec (.dataFlit c p ⟨f, n⟩) s = .next (u.acceptData c p f)) ∧
      (f.seq ≠ ((u.chan c).link p.val).expected → (f.seq - ((u.chan c).link p.val).expected).toNat < 2048 →
        exec (.dataFlit c p ⟨f, n⟩) s = .next (u.sendNak c p)) ∧
      (2048 ≤ (f.seq - ((u.chan c).link p.val).expected).toNat → exec (.dataFlit c p ⟨f, n⟩) s = .next u))) ∧
  (∀ (c : Chan) (p : Port) (b : List Byte) (n : Fin 16) (s u v : State), (s.chan c).hears p.val = true →
    u = s.bump c (kPort c p.val 0x03) → v = u.bumpBy c (kPort c p.val 0x04) n.val →
    exec (.badFlit c p .uncorrectable) s = .next (((u.bumpBy c (kPort c p.val 0x04) 0).bump c (kPort c p.val 0x05)).sendNak c p) ∧
    (flitCrcOk b = false → exec (.badFlit c p (.arrived b n)) s = .next ((v.bump c (kPort c p.val 0x06)).sendNak c p)) ∧
    (flitCrcOk b = true → 2 < (Flit.ofBytes b).ftype → exec (.badFlit c p (.arrived b n)) s = .next (v.sendNak c p)) ∧
    (flitCrcOk b = true → (Flit.ofBytes b).ftype = 0 →
      exec (.badFlit c p (.arrived b n)) s = exec (.dataFlit c p ⟨(Flit.ofBytes b), n⟩) s) ∧
    (flitCrcOk b = true → (Flit.ofBytes b).ftype ≠ 0 → (Flit.ofBytes b).ftype ≤ 2 →
      exec (.badFlit c p (.arrived b n)) s = .next (v.applyAck c p ((Flit.ofBytes b).received n)))) ∧
  (∀ (c : Chan) (p : Port) (f : Flit) (n : Fin 16) (why : BadFlit) (s : State), (s.chan c).hears p.val = false →
    exec (.idleFlit c p ⟨f, n⟩) s = .next s ∧ exec (.dataFlit c p ⟨f, n⟩) s = .next s ∧ exec (.badFlit c p why) s = .next s ∧
    exec (.replayTimeout c p) s = .next s) ∧
  (∀ (c : Chan) (p : Port) (s u : State), (s.chan c).hears p.val = true →
    u = (if ((s.chan c).link p.val).nakSent = true then s.sendFlit c p idleFlit true else s) →
    (((s.chan c).link p.val).replay ≠ [] →
      exec (.replayTimeout c p) s = .next (((u.resend c p).bump c (kPort c p.val 0x08)).replayed c p)) ∧
    (((s.chan c).link p.val).replay = [] → exec (.replayTimeout c p) s = .next u)) ∧
  (∀ (c : Chan) (p : Port) (s u : State), (s.chan c).linksRun = true → ((s.chan c).link p.val).retraining = true →
    u = s.onLink c p.val (fun k => { k with retraining := false, stuck := 0 }) →
    (((s.chan c).link p.val).replay = [] → exec (.fastRetrainEnd c p) s = .next u) ∧
    (((s.chan c).link p.val).replay ≠ [] → exec (.fastRetrainEnd c p) s = .next ((u.resend c p).bump c (kPort c p.val 0x07))) ∧
    exec (.fastRetrainTimeout c p) s = .next (s.linkFailed c p.val 3)) ∧
  (∀ (c : Chan) (p : Port) (s : State), (s.chan c).linksRun = false ∨ ((s.chan c).link p.val).retraining = false →
    exec (.fastRetrainEnd c p) s = .next s ∧ exec (.fastRetrainTimeout c p) s = .next s) ∧
  (∀ (c : Chan) (p : Port) (s : State),
    ((s.chan c).sends p.val = true → ((s.chan c).link p.val).choose = none → (∃ n ∈ ((s.chan c).link p.val).returns, n ≠ 0) →
      exec (.ticketReturnTimer c p) s = .next (s.sendData c p 0 [])) ∧
    ((s.chan c).sends p.val = false ∨ ((s.chan c).link p.val).choose ≠ none ∨ (∀ n ∈ ((s.chan c).link p.val).returns, n = 0) →
      exec (.ticketReturnTimer c p) s = .next s))

/-- A packet addressed to another channel is forwarded, or discarded with HOPS 0. On a channel whose links run, a packet for
another channel leaves the receive buffer. With HOPS above 0 and a route, it is put, with HOPS one less and nothing else
changed, into the queue of the port that the routes name, and its E2E_CRC still verifies where it did. With HOPS 0 it is
discarded: its words of the buffer are given back, HOP_DROPS advances, and UNREACHABLE goes to its SOURCE: into its own
buffer when the source is this channel, else out of the port that the routes name, if there is one (R318). Formalises R303. -/
def Obligations.PacketForwarded : Prop :=
  (∀ (c : Chan) (k : Packet) (src : Option Nat) (s u : State), (s.chan c).linksRun = true → k.dest ≠ s.address c →
    src = ((s.chan c).net.inbox.find? (fun e => e.2 == k)).bind (·.1) →
    u = s.onNet c (fun n => { n with inbox := n.inbox.erase (src, k) }) →
    (∀ p, 0 < k.hops → (u.route c k.source k.dest).1 = some p →
      exec (.packetForward c k) s = .next ((u.route c k.source k.dest).2.enqueue c p { k with hops := k.hops - 1 } src)) ∧
    (k.hops = 0 → ∀ w, w = (u.giveBack c src k).bump c (kLink c 0xD4) →
      exec (.packetForward c k) s = .next (w.sendUnreachable c k) ∧
      (k.source ≠ w.address c →
        (∀ p, (w.route c (w.address c) k.source).1 = some p → w.sendUnreachable c k =
          (w.route c (w.address c) k.source).2.enqueue c p (unreachableFor (w.address c) k) none) ∧
        ((w.route c (w.address c) k.source).1 = none → w.sendUnreachable c k = (w.route c (w.address c) k.source).2)) ∧
      (k.source = w.address c → w.sendUnreachable c k = w.toInbox c none (unreachableFor (w.address c) k)))) ∧
  (∀ (k : Packet) (n : Nat), ({ k with hops := n } : Packet).crc = k.crc) ∧
  (∀ (a : Nat) (k : Packet), (unreachableFor a k).ptype = 0x07 ∧ (unreachableFor a k).dest = k.source ∧
    (unreachableFor a k).source = a ∧ (unreachableFor a k).hops = 8)

/-- Packets sent and received, and the acknowledgement of segments. PACKET_START sends the oldest packet of the class that R301
chooses, uses its tickets and gives back the words of the buffer that held it. A DATA packet is received with its checks. A
packet of a reserved type is taken and counted as unknown. A SEG_ACK frees what it acknowledges, closes a segment that is
wholly acknowledged after its last packet, and lets waiting packets go. SEG_ACK_TIMER acknowledges what is new. E2E_TIMEOUT
sends an unacknowledged packet again and counts it, up to the limit of retries, and then aborts the segment; a FAILED group
is given up instead. UNREACHABLE aborts the segment that it names and reports the address gone. Derived from
10_fabric_links.md. -/
def Obligations.PacketsAndSegments : Prop :=
  (∀ (c : Chan) (p : Port) (cls : Nat) (k : Link) (q : Queued) (s u : State), (s.chan c).sends p.val = true → u = s.countStalls c p.val →
    ((u.chan c).link p.val).choose = some (cls, k) → k.headOf cls = some q →
    exec (.packetStart c p) s = .next (((u.onLink c p.val (fun _ => { k with
      queue := k.queue.erase q, tickets := k.tickets.set cls (k.tickets.getD cls 0 - q.pkt.words) })).sendData c p 0
        q.pkt.bytes).giveBack c q.source q.pkt)) ∧
  (∀ (c : Chan) (k : Packet) (s : State), k.ptype = 0x01 → exec (.dataPacket c k) s = .next (s.receive c k false).1) ∧
  (∀ (c : Chan) (p : Port) (k : Packet) (s : State), s.receives c k = true → (k.ptype = 0 ∨ 0x07 < k.ptype) →
    exec (.unknownPacketType c p k) s = .next ((s.takeInbox c k).unknownType c p.val k)) ∧
  (∀ (c : Chan) (k : Packet) (gone : Unacked → Bool) (key : SegKey) (s u : State), k.ptype = 0x06 → s.receives c k = true →
    (s.takeInbox c k).checkPacket c k false = (u, true) → key = ⟨s.address c, k.source, k.group, k.segment, k.step⟩ →
    gone = (fun a => (leNat ((k.data.drop 2).take 1)).testBit 0 || decide (a.pkt.seq < leNat (k.data.take 2)) ||
      (decide (leNat (k.data.take 2) < a.pkt.seq) &&
        (leNat ((k.data.drop 8).take 8)).testBit (a.pkt.seq - leNat (k.data.take 2) - 1))) →
    exec (.segAck c k) s = .next ((u.onNet c (fun n => { n with tx := (n.tx.map (fun t =>
      if t.key = key then { t with unacked := t.unacked.filter (fun a => !gone a) } else t)).filter (fun t =>
        !(t.key == key && t.last && t.unacked.isEmpty)) })).pump c)) ∧
  (∀ (c : Chan) (key : SegKey) (r : RxSegment) (g : Group) (s : State), (s.chan c).linksRun = true →
    (s.chan c).net.rx.find? (fun r => r.key == key) = some r →
    (r.fresh = 0 → exec (.segAckTimer c key) s = .next s) ∧
    (r.fresh ≠ 0 → (s.chan c).comm key.group = some g → exec (.segAckTimer c key) s = .next
      ((s.setRx c { r with fresh := 0 }).sendAck c { r with fresh := 0 } (g.epoch.setWidth 8)))) ∧
  (∀ (c : Chan) (key : SegKey) (n : Nat) (t : TxSegment) (a : Unacked) (s : State), (s.chan c).linksRun = true →
    (s.chan c).net.tx.find? (fun t => t.key == key) = some t → t.unacked.find? (fun a => a.pkt.seq == n) = some a →
    (((s.chan c).comm key.group).any (fun g => g.state == .failed) = true →
      exec (.e2eTimeout c key n) s = .next (s.silenceGroup c key.group)) ∧
    (((s.chan c).comm key.group).any (fun g => g.state == .failed) = false → s.ent (kLink c 0xC1) ≤ a.retries →
      exec (.e2eTimeout c key n) s = .next (s.abortSegment c key n)) ∧
    (((s.chan c).comm key.group).any (fun g => g.state == .failed) = false → a.retries < s.ent (kLink c 0xC1) →
      exec (.e2eTimeout c key n) s = .next (((s.onNet c (fun m => { m with
      tx := m.tx.map (fun x => if x.key = key then { x with unacked := x.unacked.map (fun v => if v.pkt.seq = n then
        { v with retries := v.retries + 1, sent := (s.chan c).clock.timebase } else v) } else x) })).bump c (kLink c 0xD0)).sendPacket
          c a.pkt none))) ∧
  (∀ (c : Chan) (k : Packet) (key : SegKey) (s u : State), k.ptype = 0x07 → s.receives c k = true →
    (s.takeInbox c k).checkPacket c k false = (u, true) →
    key = ⟨s.address c, k.field 0 4, k.field 4 2, k.field 6 2, k.step⟩ →
    exec (.unreachable c k) s = .next ((if (u.chan c).net.tx.any (fun t => t.key == key) then u.abortSegment c key (k.field 8 2)
      else u).addressGone c (k.field 0 4) 2))

/-- Links: training, discovery, failure, leaving service, notices and calibration. On a port of a channel whose links run: a
signal puts an enabled port into TRAINING, with the fast offer unless it trains already; a training switches its rate, then
sends its capability message when locked, else keeps reason 7. A CONTROL flit that a port hears is counted and its
acknowledgement acted on, then its message: a capability message of a version below 2 refuses with reason 5, of too long a
round trip with 6, and else decides the port; GOODBYE; a first UPLINK_NOTICE; a recalibration request, acknowledged or
refused. DISCOVERY_TIMEOUT, TRAINING_RETRY, LINK_FAILURE and GOODBYE_WAIT_END. LINK_EYE_MEASURE judges the eye of a link that
is UP and the move of temperature; a recalibration is asked for once due, put off while no other route exists, forced in the
interval of R190, and retried; its end sets the port in service again, or fails it. Derived from 10_fabric_links.md,
11_system_topology.md, 06_array_calibration.md. -/
def Obligations.LinksTrainedAndCalibrated : Prop :=
  (∀ (c : Chan) (p : Port) (r : Received) (act : State → State) (s t : State), t = s.flitIn c p r →
    ((s.chan c).hearsControl p.val = false → s.controlIn c p r act = s) ∧
    ((s.chan c).hearsControl p.val = true → (t.chan c).hearsControl p.val = false → s.controlIn c p r act = t) ∧
    ((s.chan c).hearsControl p.val = true → (t.chan c).hearsControl p.val = true → s.controlIn c p r act = act t)) ∧
  (∀ (c : Chan) (p : Port) (s : State), (s.chan c).linksRun = true →
    (s.portEnabled c p.val = true → ((s.chan c).link p.val).state ∈ [0, 1, 4, 5] →
      exec (.signalDetected c p) s = .next (s.onLink c p.val (fun k => { k with
        state := 1, trained := false, slowOffer := k.slowOffer && k.state == 1 }))) ∧
    (((s.chan c).link p.val).state = 1 → ((s.chan c).link p.val).trained = false →
      exec (.trainingRateSwitch c p) s = .next (s.onLink c p.val (fun k => { k with slowOffer := !k.slowOffer })) ∧
      exec (.pmdTrainingComplete c p true) s = .next
        ((s.onLink c p.val (fun k => { k with trained := true })).sendControl c p (s.capability c p)) ∧
      exec (.pmdTrainingComplete c p false) s = .next (s.onLink c p.val (fun k => { k with reason := 7 }))) ∧
    (s.portEnabled c p.val = true → ((s.chan c).link p.val).state ∈ [0, 1, 5] →
      (planned (s.planOf c p.val) = true → exec (.discoveryTimeout c p) s = .next
        ((s.onLink c p.val (fun l => { l with state := 4, trained := false })).raise c 0x0053
          (leBytes 1 p.val ++ leBytes 4 (s.planOf c p.val)))) ∧
      (planned (s.planOf c p.val) = false → exec (.discoveryTimeout c p) s = .next
        (s.onLink c p.val (fun l => { l with state := 0, trained := false })))) ∧
    (s.portEnabled c p.val = true → ((s.chan c).link p.val).state ∈ [0, 4, 5] →
      exec (.trainingRetry c p) s = .next (s.onLink c p.val (fun l => { l with state := 1, trained := false, slowOffer := false }))) ∧
    (((s.chan c).link p.val).state ∈ [2, 3, 7] → exec (.linkFailure c p true) s = .next (s.linkFailed c p.val 2) ∧
      exec (.linkFailure c p false) s = .next (s.linkFailed c p.val 1)) ∧
    exec (.goodbyeWaitEnd c) s = .next (((List.range 42).reverse.foldl (fun s p => s.goodbyeEnd c p) s).watchDegraded s)) ∧
  (∀ (c : Chan) (p : Port) (r : Received) (s u : State), (s.chan c).hearsControl p.val = true → u = s.flitIn c p r →
    (u.chan c).hearsControl p.val = true →
    (∀ (cap : Capability) (t : State), ((u.chan c).link p.val).trained = true →
      t = u.onLink c p.val (fun l => { l with peer := some cap, version := min 3 cap.version, features := 0x000F#16 &&& cap.features }) →
      (cap.version < 2 → exec (.capabilityMessage c ⟨p, r⟩ cap) s = .next ((t.linkRefused c p.val 5).watchDegraded u)) ∧
      (2 ≤ cap.version → rttLimit p.val < cap.rttNs →
        exec (.capabilityMessage c ⟨p, r⟩ cap) s = .next ((t.linkRefused c p.val 6).watchDegraded u)) ∧
      (2 ≤ cap.version → cap.rttNs ≤ rttLimit p.val →
        exec (.capabilityMessage c ⟨p, r⟩ cap) s = .next ((t.discover c p.val).watchDegraded u))) ∧
    (((u.chan c).link p.val).state ∈ [2, 7] → ((u.chan c).link p.val).peer = none →
      exec (.goodbye c ⟨p, r⟩) s = .next ((u.linkDown c p.val 0 4).watchDegraded u)) ∧
    (∀ q, ((u.chan c).link p.val).state ∈ [2, 7] → ((u.chan c).link p.val).peer = some q →
      exec (.goodbye c ⟨p, r⟩) s = .next (((u.linkDown c p.val 0 4).watchDegraded u).addressGone c
        (q.moduleNumber % 32768 * 4 + q.channel % 4) 1)) ∧
    (∀ n : Notice, ((u.chan c).link p.val).state = 2 → p.isU = false → mget none (noticeKey n) (u.chan c).net.noticeSeen = none →
      exec (.uplinkNotice c ⟨p, r⟩ n) s = .next (((u.onNet c (fun t => { (t.applyNotice n) with
        noticeSeen := mset none (noticeKey n) (some n.sequence) t.noticeSeen })).bump c (odKey (0x5010 + c.val) 0x22)).spreadNotice
          c n (if p.isM then bPorts else mPorts))) ∧
    (((u.chan c).link p.val).state ∈ [2, 3] →
      ((u.chan c).recalibrating < 4 → ((u.chan c).link p.val).goodbye = false → ∀ q, q = u.otherRoute c p.val →
        exec (.linkRecalRequest c ⟨p, r⟩) s = .next (((q.2.sendControl c p .recalAck).beginRecal c p.val
          (((u.chan c).link p.val).state == 2 && !q.1)).watchDegraded u)) ∧
      (4 ≤ (u.chan c).recalibrating ∨ ((u.chan c).link p.val).goodbye = true →
        exec (.linkRecalRequest c ⟨p, r⟩) s = .next (u.sendControl c p .recalRefuse)))) ∧
  (∀ (c : Chan) (p : Port) (wd ht temp : Nat) (ser : Word) (r : State × Bool) (l : Link) (due : Bool) (s : State),
    (s.chan c).linksRun = true →
    (((s.chan c).link p.val).state = 2 ∧ r = (s.noteSer c p.val ser).eye c p.val wd ht ∨
      ((s.chan c).link p.val).state = 3 ∧ r = (s.noteSer c p.val ser, (s.noteSer c p.val ser).eyeLow c p.val)) →
    l = (r.1.chan c).link p.val →
    due = (Fp.gt (eighths (max (l.calTemp.getD temp) temp - min (l.calTemp.getD temp) temp)) (f32 (r.1.ent (kLinkCal c 0xF0))) || r.2) →
    exec (.linkEyeMeasure c p wd ht temp ser) s = .next (r.1.onLink c p.val (fun q => { q with
      calTemp := some (l.calTemp.getD temp), islandTemp := some temp, due := due, deferredAt := if due then q.deferredAt else none }))) ∧
  (∀ (c : Chan) (p : Port) (a : Bool) (r : Received) (l : Link) (s : State), (s.chan c).linksRun = true → l = (s.chan c).link p.val →
    l.retraining = false → l.goodbye = false → (s.chan c).recalibrating < 4 →
    (l.state ∈ [2, 3] → l.due = true → l.asking = false → s.serviceWaits c = false →
      ((s.otherRoute c p.val).1 = true ∨ l.state = 3 →
        exec (.linkRecalStart c p ⟨a, r⟩) s = .next ((s.otherRoute c p.val).2.askRecal c p a false r)) ∧
      ((s.otherRoute c p.val).1 = false → l.state = 2 →
        exec (.linkRecalStart c p ⟨a, r⟩) s = .next (((s.otherRoute c p.val).2.onLink c p.val
          (fun l => { l with deferredAt := l.deferredAt <|> some (s.chan c).clock.timebase })).bump c (kLinkCal c 0x6B)))) ∧
    (l.state ∈ [2, 3] → l.asking = true →
      exec (.linkRecalRetry c p ⟨a, r⟩) s = .next (s.askRecal c p a l.deferredAt.isSome r)) ∧
    (l.state = 2 → l.due = true → s.recalInterval c l = true → l.asking = false →
      exec (.linkRecalForced c p ⟨a, r⟩) s = .next (s.askRecal c p a true r))) ∧
  (∀ (c : Chan) (p : Port) (wd ht : Nat) (t : State × Bool) (s : State), (s.chan c).linksRun = true →
    ((s.chan c).link p.val).state = 7 → t = (s.bump c (kLinkCal c (0x41 + p.val))).eye c p.val wd ht →
    exec (.linkRecalibrationComplete c p true wd ht) s = .next ((t.1.endRecal c p.val t.2).watchDegraded s) ∧
    exec (.linkRecalibrationComplete c p false wd ht) s = .next (s.drawFree.2.linkFailed c p.val
      (Config.fresh s.drawFree.1 % 256))) ∧
  (∀ (c : Chan) (p : Nat) (low : Bool) (k : Capability) (l : Link) (s t u : State), l = (s.chan c).link p → l.peer = some k →
    t = s.onLink c p (fun l => { l with
      state := if l.recalUp then 2 else 3, recalUp := false, asking := false, due := low, deferredAt := none, calTemp := l.islandTemp }) →
    u = (if l.recalUp = true ∧ l.deferredAt = none then t.uplinkChanged c p true else t) →
    (s.matchesPlan c p k = l.recalUp → s.endRecal c p low = u) ∧
    (s.matchesPlan c p k ≠ l.recalUp → s.endRecal c p low = u.discover c p))

/-- Communication groups: registration, admission, release, heartbeats and takeovers. A group descriptor without fault registers
the group and sends JOIN; RELEASE of a known group begins its release, of an unknown one ends; GROUP_FREE frees a group that
is releasing once its segments are closed. Delivered messages: the last JOIN of a block reports it ready, BLOCK_READY goes to
the top, ADMIT activates the group and completes its descriptor, REFUSE drops it, as the timeout does; HEARTBEAT notes its
time; TAKEOVER_REQUEST is granted by a live top; a later NEW_EPOCH is applied and relayed. JOIN is repeated while forming,
heartbeats are sent while live, and a silent ringmaster is taken as gone. Derived from 11_system_topology.md. -/
def Obligations.GroupsFormedAndKept : Prop :=
  (∀ (c : Chan) (n : Nat) (j : Job) (g : Group) (s : State), s.ready c n 0x80 = some j → (s.chan c).nat (j.addr + 2) 2 % 2 = 0 →
    (∀ f, s.groupFault c j.addr = some f → exec (.groupDescriptor c n) s = .next (s.refuseGroup c j 0x01 f)) ∧
    (s.groupFault c j.addr = none → g = s.readGroup c j.addr →
      ((s.chan c).comm g.id ≠ none → exec (.groupDescriptor c n) s = .next (s.refuseGroup c j 0x02 ⟨4, 0⟩)) ∧
      ((s.chan c).comm g.id = none → exec (.groupDescriptor c n) s = .next ((s.onChan c (fun h =>
        { (h.setJob { j with phase := .group g.id }) with groups := h.groups ++ [{ g with job := some j.id }] })).sendJoin c
          { g with job := some j.id })))) ∧
  (∀ (c : Chan) (n : Nat) (j : Job) (s : State), s.ready c n 0x80 = some j → (s.chan c).nat (j.addr + 2) 2 = 1 →
    (s.chan c).nat (j.addr + 4) 2 ≤ 1023 →
    ((s.chan c).comm ((s.chan c).nat (j.addr + 4) 2) = none → exec (.groupRelease c n) s = .next (s.finishJob c j 0 0)) ∧
    (∀ g, (s.chan c).comm ((s.chan c).nat (j.addr + 4) 2) = some g → g.job = none →
      exec (.groupRelease c n) s = .next ((s.onChan c (fun h => h.setJob { j with phase := .group g.id })).onComm c g.id
        (fun g => { g with state := .releasing, job := some j.id })))) ∧
  (∀ (c : Chan) (n : Nat) (g : Group) (s : State), (s.chan c).comm n = some g →
    (g.state = .releasing → (s.chan c).segmentsOpen n = false → exec (.groupFree c n) s = .next (s.freeGroup c g)) ∧
    (g.state = .forming → exec (.groupFormTimeout c n) s = .next (s.dropForming c g 0x03 0 0) ∧
      ((s.chan c).linksRun = true → exec (.joinRepeat c n) s = .next (s.sendJoin c g))) ∧
    (g.live = true → (s.chan c).linksRun = true → exec (.heartbeatSend c n) s = .next
      (s.tellAll c g (g.beatTargets (n == s.ent (kUpd c 1))) 0x05 0 [])) ∧
    ((s.chan c).linksRun = true → exec (.ringmasterTimeout c n) s = .next
      ((s.ringmasterGone c n (fun r => r != g.rank && g.silent (s.chan c).clock.timebase r)).payOwed c n))) ∧
  (∀ (c : Chan) (k : Packet) (t : State) (g q : Group) (r : Nat) (s : State), s.delivered c k 0x01 false t g → g.rankOf k.source = some r →
    g.state = .forming → g.isMaster = true → g.blockOf r = g.block →
    q = { g with joins := g.joins.filter (fun q => q.rank != r) ++ [⟨r, (k.data.drop 16).take 8, k.field 24 2, k.field 26 1,
      k.field 27 1, k.source, k.field 28 2, k.field 30 2⟩] } →
    (q.joins.length < (q.ranksIn q.block).length → exec (.join c k) s = .next (t.onComm c q.id (fun _ => q))) ∧
    ((q.ranksIn q.block).length ≤ q.joins.length → g.isTop = true →
      exec (.join c k) s = .next ((t.onComm c q.id (fun _ => q)).blockJoined c q ((t.onComm c q.id (fun _ => q)).readyInfo c q)))) ∧
  (∀ (c : Chan) (k : Packet) (t : State) (g : Group) (s : State), s.delivered c k 0x02 false t g → g.state = .forming → g.isTop = true →
    exec (.blockReady c k) s = .next (t.blockJoined c g ⟨addrBlock k.source, k.field 16 2, k.field 18 1, k.field 19 1, k.field 20 4,
      k.field 24 2, k.field 26 2, k.field 28 4, k.field 32 2, k.field 34 2, (k.data.drop 36).take 8⟩)) ∧
  (∀ (c : Chan) (k : Packet) (t u : State) (g q : Group) (s : State), s.delivered c k 0x03 false t g → g.state = .forming →
    q = { g with state := .active, features := k.field 16 2, version := k.field 18 2, job := none, joins := [], readies := [] } →
    u = (t.onComm c g.id (fun _ => q.watchFrom (t.chan c).clock.timebase)).relay c q k →
    (g.job = none → exec (.admitMsg c k) s = .next u) ∧
    (∀ i j, g.job = some i → (u.chan c).job i = some j → exec (.admitMsg c k) s = .next (u.completeJob c j 0 0))) ∧
  (∀ (c : Chan) (k : Packet) (t : State) (g : Group) (s : State), s.delivered c k 0x04 false t g → g.state = .forming →
    exec (.refuse c k) s = .next ((t.relay c g k).dropForming c g (k.field 16 1) (k.field 20 4) (k.field 17 1))) ∧
  (∀ (c : Chan) (k : Packet) (t : State) (g : Group) (r : Nat) (s : State), s.delivered c k 0x05 false t g → g.rankOf k.source = some r →
    exec (.heartbeat c k) s = .next (t.onComm c g.id (fun g => { g with
      beats := mset none r (some (t.chan c).clock.timebase) g.beats }))) ∧
  (∀ (c : Chan) (k : Packet) (t : State) (g : Group) (s : State), s.delivered c k 0x07 true t g → g.live = true → g.isTop = true →
    ((s.chan c).comm k.group).isSome = true → g.rankOf k.source = some (k.field 16 4) →
    exec (.takeoverRequest c k) s = .next (t.grantBlock c g (k.field 16 4))) ∧
  (∀ (c : Chan) (k : Packet) (t : State) (g q : Group) (s : State), s.delivered c k 0x06 (s.laterEpoch c k) t g →
    later32 k.fullEpoch g.epoch = true → ((t.applyEpoch c g k).chan c).comm g.id = some q →
    (q.top = g.top → exec (.newEpoch c k) s = .next ((t.applyEpoch c g k).relay c q k)) ∧
    (q.top ≠ g.top → exec (.newEpoch c k) s = .next (((t.applyEpoch c g k).relay c q k).resendTo c q)))

/-- Plan, replica and barrier descriptors, and the messages of a barrier: each completes in every state. A plan descriptor that
loads adds the plan and ends, one that does not is refused; RELEASE without a program removes the plans of its group, with
one loaded or a group above 1023 it is refused. A replica descriptor that loads replaces the channel's replica; RELEASE of
COMMIT_GROUP removes that of the group, of another group it is refused. A barrier descriptor of an active group waits in it
and sends BARRIER_ARRIVE upward; one of an unknown or inactive group, or of another type, is refused. A delivered
BARRIER_ARRIVE of a child counts, and BARRIER_RELEASE is relayed and completes the barriers of its number. A job that is not
ready for the command, a descriptor of the other kind and a message that is not delivered have no such effect. Derived from
12_collective_update.md, 13_safety_net.md. -/
def Obligations.PlansReplicasAndBarriers : Prop :=
  (∀ (c : Chan) (n : Nat) (j : Job) (s : State), s.ready c n 0x90 = some j →
    ((s.chan c).releases j.addr = false →
      (∀ off, s.loadPlan c j.addr = .error off → exec (.planDescriptor c n) s = .next (s.refuseJob c j ⟨0x90, j.addr, off, 0⟩)) ∧
      (∀ p, s.loadPlan c j.addr = .ok p → exec (.planDescriptor c n) s = .next
        ((s.onChan c (fun h => { h with coll := { h.coll with plans := h.coll.plans ++ [p] } })).finishJob c j 0 0)) ∧
      exec (.planRelease c n) s = .next s) ∧
    ((s.chan c).releases j.addr = true → exec (.planDescriptor c n) s = .next s)) ∧
  (∀ (c : Chan) (n g : Nat) (j : Job) (s : State), s.ready c n 0x90 = some j → (s.chan c).releases j.addr = true →
    g = (s.chan c).nat (j.addr + 4) 2 →
    ((s.chan c).training.program ≠ none → exec (.planRelease c n) s = .next (s.refuseJob c j ⟨0x90, j.addr, 0, 0⟩)) ∧
    ((s.chan c).training.program = none → 1023 < g → exec (.planRelease c n) s = .next (s.refuseJob c j ⟨0x90, j.addr, 4, 0⟩)) ∧
    ((s.chan c).training.program = none → g ≤ 1023 →
      exec (.planRelease c n) s = .next ((s.onChan c (fun h => { h with coll := { h.coll with
        plans := h.coll.plans.filter (fun p => p.group != g) } })).finishJob c j 0 0))) ∧
  (∀ (c : Chan) (n : Nat) (j : Job) (s : State), s.ready c n 0x92 = some j →
    ((s.chan c).releases j.addr = false →
      (∀ off, s.loadReplica c j.addr = .error off → exec (.replicaDescriptor c n) s = .next (s.refuseJob c j ⟨0x92, j.addr, off, 0⟩)) ∧
      (∀ r, s.loadReplica c j.addr = .ok r → exec (.replicaDescriptor c n) s = .next
        ((s.onChan c (fun h => { h with safety := { h.safety with replica := some r } })).finishJob c j 0 0)) ∧
      exec (.replicaRelease c n) s = .next s) ∧
    ((s.chan c).releases j.addr = true → exec (.replicaDescriptor c n) s = .next s)) ∧
  (∀ (c : Chan) (n g : Nat) (j : Job) (s : State), s.ready c n 0x92 = some j → (s.chan c).releases j.addr = true →
    g = (s.chan c).nat (j.addr + 4) 2 →
    (g ≠ s.ent (kUpd c 1) ∨ 1023 < g → exec (.replicaRelease c n) s = .next (s.refuseJob c j ⟨0x92, j.addr, 4, 0⟩)) ∧
    (g = s.ent (kUpd c 1) → g ≤ 1023 →
      exec (.replicaRelease c n) s = .next ((s.onChan c (fun h => { h with safety := { h.safety with
        replica := h.safety.replica.filter (fun r => r.group != g) } })).finishJob c j 0 0))) ∧
  (∀ (c : Chan) (n : Nat) (j : Job) (s : State), s.ready c n 0x91 = some j →
    ((s.chan c).nat j.addr 2 ≠ 0x91 → exec (.barrierDescriptor c n) s = .next (s.refuseJob c j ⟨0x91, j.addr, 0, 0⟩)) ∧
    ((s.chan c).nat j.addr 2 = 0x91 →
      ((s.chan c).comm ((s.chan c).nat (j.addr + 2) 2) = none →
        exec (.barrierDescriptor c n) s = .next (s.refuseJob c j ⟨0x91, j.addr, 2, 0⟩)) ∧
      (∀ g, (s.chan c).comm ((s.chan c).nat (j.addr + 2) 2) = some g →
        (g.state = .active → exec (.barrierDescriptor c n) s = .next (((s.onChan c (fun h =>
          h.setJob { j with phase := .group g.id })).onComm c g.id (fun g => { g with
            barriers := g.barriers ++ [((s.chan c).nat (j.addr + 4) 4, j.id)] })).sendUp c g 0x30 0
              (leBytes 4 1 ++ leBytes 4 ((s.chan c).nat (j.addr + 4) 4)))) ∧
        (g.state ≠ .active → exec (.barrierDescriptor c n) s = .next (s.refuseJob c j ⟨0x91, j.addr, 2, 0⟩))))) ∧
  (∀ (f : Chan → Nat → Instr) (ty : Nat), (f, ty) ∈ [(Instr.planDescriptor, 0x90), (Instr.planRelease, 0x90),
      (Instr.replicaDescriptor, 0x92), (Instr.replicaRelease, 0x92), (Instr.barrierDescriptor, 0x91)] →
    ∀ (c : Chan) (n : Nat) (s : State), s.ready c n ty = none → exec (f c n) s = .next s) ∧
  (∀ (c : Chan) (k : Packet) (t : State) (g : Group) (s : State), s.delivered c k 0x30 false t g →
    (∀ a, g.arrivalOf k (k.field 20 4) = some a →
      exec (.barrierArrive c k) s = .next (t.climb c g a (fun _ => leBytes 4 (k.field 20 4)) (fun s _ =>
        s.broadcast c g 0x31 0 ([0#8, 0#8, 0#8, 0#8] ++ leBytes 4 (k.field 20 4))))) ∧
    (g.arrivalOf k (k.field 20 4) = none → exec (.barrierArrive c k) s = .next t)) ∧
  (∀ (c : Chan) (k : Packet) (t u : State) (g : Group) (s : State), s.delivered c k 0x31 false t g →
    u = (t.relay c g k).onComm c g.id (fun g => { g with barriers := g.barriers.filter (fun b => b.1 != k.field 20 4) }) →
    exec (.barrierRelease c k) s = .next ((g.barriers.filter (fun b => b.1 == k.field 20 4)).foldl (fun s b =>
      (((s.chan c).job b.2).map (fun j => s.completeJob c j 0 0)).getD s) u) ∧
    ((∀ b ∈ g.barriers, b.1 ≠ k.field 20 4) → exec (.barrierRelease c k) s = .next u) ∧
    (∀ i j, g.barriers = [(k.field 20 4, i)] → (u.chan c).job i = some j →
      exec (.barrierRelease c k) s = .next (u.completeJob c j 0 0))) ∧
  (∀ (f : Chan → Packet → Instr) (m : Nat), (f, m) ∈ [(Instr.barrierArrive, 0x30), (Instr.barrierRelease, 0x31)] →
    ∀ (c : Chan) (k : Packet) (s : State), s.undelivered c k m false → exec (f c k) s = .next (s.taken c k m false))

/-- Reduction: conversion of buckets, PARTIAL, norms, PARAM and bank writes. BUCKET_CONVERT of a bucket whose turn and gate have
come, at a member that is not its combiner, converts it and sends it on; at the combiner it first claims a slot, or waits
where none is free. A PARTIAL whose tags do not agree counts as an E2E error; one that is late is received and counted; one
without a slot waits, and a freed slot resumes it. NORM_PART climbs; NORM is noted once, a norm that is not finite skips the
step, and the owner's buckets go on; REDUCED opens the gate and passes down. PARAM at a late step is received and counted.
BANK_WRITE_RESUME writes what waited. Derived from 12_collective_update.md. -/
def Obligations.ReductionAndParameters : Prop :=
  (∀ (c : Chan) (n b step : Nat) (g : Group) (p : Plan) (w : Weight) (s : State), (s.chan c).comm n = some g → (s.chan c).coll.plan n = some p →
    (s.chan c).weight (p.bucket b).weight = some w → w.handed = some step → (s.chan c).issues = true → b < p.buckets.length →
    g.state = .active → (∀ i, i < b → (p.bucket i).weight = w.id → ((s.chan c).coll.run n step i).converted = true) →
    ((s.chan c).coll.run n step b).converted = false → (s.chan c).gateOpen p step b = true →
    (g.combiner b (p.bucket b) g.block ≠ g.rank → exec (.bucketConvert c n b) s = .next (s.convertBucket c g p w step b)) ∧
    (g.combiner b (p.bucket b) g.block = g.rank →
      (∀ u, s.claimSlot c n step b = some u → exec (.bucketConvert c n b) s = .next (u.convertBucket c g p w step b)) ∧
      (s.claimSlot c n step b = none → exec (.bucketConvert c n b) s = .next s))) ∧
  (∀ (c : Chan) (k : Packet) (g : Group) (p : Plan) (s : State), k.ptype = 0x02 → s.receives c k = true → k.e2e = k.crc →
    (s.chan c).comm k.group = some g → (s.chan c).coll.plan k.group = some p →
    (g.tagsAgree k = false → exec (.partialPkt c k) s = .next ((s.takeInbox c k).bump c (kLink c 0xD2))) ∧
    (g.tagsAgree k = true → (s.chan c).lateStep (liftStep (s.chan c).nearStep k.step) = true → ∀ u, s.receive c k false = (u, true) →
      exec (.partialPkt c k) s = .next (u.bump c (kUpd c 0x26))) ∧
    (g.tagsAgree k = true → (s.chan c).lateStep (liftStep (s.chan c).nearStep k.step) = false →
      s.claimSlot c g.id (liftStep (s.chan c).nearStep k.step) (k.segment % 16384) = none →
      exec (.partialPkt c k) s = .next (s.holdPartial c k)) ∧
    (∀ u w child, g.tagsAgree k = true → (s.chan c).lateStep (liftStep (s.chan c).nearStep k.step) = false →
      (s.claimSlot c g.id (liftStep (s.chan c).nearStep k.step) (k.segment % 16384)).isSome = true → s.receive c k false = (u, true) →
      u.claimSlot c g.id (liftStep (s.chan c).nearStep k.step) (k.segment % 16384) = some w → g.childOf k.source = some child →
      exec (.partialPkt c k) s = .next (((List.range (k.data.length / 128)).foldl (fun x i =>
        x.arriveUnit c g p (liftStep (s.chan c).nearStep k.step) (k.segment % 16384) (k.tag.toNat % 1024 + i) child
          ((k.data.drop (128 * i)).take 128)) w).advance c))) ∧
  (∀ (c : Chan) (e : Option Nat × Packet) (l : List (Option Nat × Packet)) (s u : State), (s.chan c).coll.waitPartial = e :: l →
    (s.chan c).linksRun = true → (s.chan c).coll.freeSlot ≠ none →
    u = (s.onColl c (fun q => { q with waitPartial := l })).onNet c (fun n => { n with inbox := e :: n.inbox }) →
    u.receives c e.2 = true → exec (.slotWaitResume c) s = .next (u.partialArrives c e.2)) ∧
  (∀ (c : Chan) (k : Packet) (t : State) (g : Group) (a : Arrival) (s : State), s.delivered c k 0x20 false t g → g.arrivalOf k 0 = some a →
    exec (.normPart c k) s = .next (t.climb c g a (fun l => leBytes 4 (w32 (sumArrivals l))) (fun s l =>
      s.broadcast c g 0x21 k.fullStep (leBytes 4 (w32 (sqrt32 (sumArrivals l))))))) ∧
  (∀ (c : Chan) (k : Packet) (t u v w : State) (g : Group) (p : Plan) (q : StepRun) (s : State), s.delivered c k 0x21 false t g →
    u = t.relay c g k → (u.chan c).coll.plan g.id = some p → (u.chan c).coll.stepRun k.fullStep = some q →
    ((p.clip = false ∨ (mget none g.id q.norms).isSome = true) → exec (.norm c k) s = .next u) ∧
    (p.clip = true → mget none g.id q.norms = none → v = u.onStep c k.fullStep (fun q => { q with
        norms := mset none g.id (some (BitVec.ofNat 32 (k.field 16 4))) q.norms }) →
      w = (if (f32 (BitVec.ofNat 32 (k.field 16 4)).toNat).isFinite then v else v.skipStep c g.id k.fullStep) →
      exec (.norm c k) s = .next ((p.ownedBy g.rank).foldl (fun s b => (List.range (g.units (p.bucket b))).foldl (fun s u =>
        s.applyUnit c g p k.fullStep b u ((s.chan c).storedGradients g p k.fullStep b u)) s) w))) ∧
  (∀ (c : Chan) (k : Packet) (t u : State) (g : Group) (p : Plan) (s : State), s.delivered c k 0x22 false t g →
    (t.chan c).coll.plan g.id = some p → u = t.onRun c g.id k.fullStep (k.field 16 2) (fun r => { r with gate := true }) →
    (addrBlock k.source = g.block → exec (.reduced c k) s = .next u) ∧
    (addrBlock k.source ≠ g.block → exec (.reduced c k) s = .next (u.tellAll c g (g.downTree (k.field 16 2) (p.bucket (k.field 16 2)))
      0x22 k.fullStep (leBytes 2 (k.field 16 2))))) ∧
  (∀ (c : Chan) (k : Packet) (g : Group) (p : Plan) (s u : State), k.ptype = 0x03 → s.receives c k = true →
    s.receive c k false = (u, true) → (s.chan c).comm k.group = some g → (s.chan c).coll.plan k.group = some p →
    (s.chan c).safety.fill = none → (s.chan c).lateStep (liftStep (s.chan c).nearStep k.step) = true →
    exec (.param c k) s = .next (u.bump c (kUpd c 0x26))) ∧
  (∀ (c : Chan) (k : Packet) (g : Group) (p : Plan) (step b : Nat) (s u w : State), k.ptype = 0x03 → s.receives c k = true →
    s.receive c k false = (u, true) → (s.chan c).comm k.group = some g → (s.chan c).coll.plan k.group = some p →
    (s.chan c).safety.fill = none → step = liftStep (s.chan c).nearStep k.step → b = k.segment % 16384 →
    (s.chan c).lateStep step = false → (p.bucket b).owner = g.rank → w = u.takeParam c g p step b (k.tag.toNat % 1024) k →
    exec (.param c k) s = .next (if (w.chan c).segmentDone k && !p.clip then w.onRun c g.id step b (fun x => { x with gate := true })
      else w)) ∧
  (∀ (c : Chan) (s : State), ((s.resumeBanks c).chan c).coll.copies = [] →
    exec (.bankWriteResume c) s = .next ((s.resumeBanks c).onColl c (fun q => { q with copies := [] })))

/-- The commit of a step, from PREPARED to COMMIT, aborts, and the questions of a new top: each completes in every state. The
lowest open step that is prepared is marked, COMMIT_PHASE becomes 1 and PREPARED goes up, and climbs unless the step is
aborted. A delivered SEALED in phases 1 to 3 makes phase 2 of phase 1 and sends the shard digest; the joined digests come
down, and in phase 2 write the pending record, make phase 3 and send RECORDED, which is sent again in phase 3, and climbs to
COMMIT; COMMIT in phase 3 of the step commits it. ABORT at the top from elsewhere is the top's to decide; at a member that
has not recorded the step committed, nor aborted it to no further effect, it aborts. STEP_TIMEOUT and STATUS_QUERY_TIMEOUT
act at the top of COMMIT_GROUP alone, STATUS at the top that asks; STATUS_QUERY is answered with the phase. Whatever does not
apply (another step or phase, no child, no such group, a channel whose links do not run, a message not delivered) leaves the
state as the message left it. Derived from 12_collective_update.md. -/
def Obligations.CommitOfAStep : Prop :=
  (∀ (c : Chan) (s : State),
    ((s.chan c).coll.lowestStep = none ∨ s.commitGroup c = none → exec (.preparedSend c) s = .next s) ∧
    (∀ q g, (s.chan c).coll.lowestStep = some q → s.commitGroup c = some g →
      (g.live = false ∨ (s.chan c).linksRun = false ∨ (s.chan c).prepared q = false → exec (.preparedSend c) s = .next s) ∧
      (g.live = true → (s.chan c).linksRun = true → (s.chan c).prepared q = true →
        exec (.preparedSend c) s = .next (((s.onStep c q.step (fun q => { q with prepared := true })).setPhase c q.step 1).sendUp c g 0x10
          q.step (leBytes 4 1))))) ∧
  (∀ (c : Chan) (k : Packet) (t : State) (g : Group) (s : State), s.delivered c k 0x10 false t g →
    ((t.chan c).coll.hasAborted k.fullStep = true ∨ g.arrivalOf k 0 = none → exec (.prepared c k) s = .next t) ∧
    (∀ a, (t.chan c).coll.hasAborted k.fullStep = false → g.arrivalOf k 0 = some a →
      exec (.prepared c k) s = .next (t.climb c g a (fun _ => []) (fun s _ => s.broadcast c g 0x11 k.fullStep [])))) ∧
  (∀ (c : Chan) (k : Packet) (t u : State) (g : Group) (s : State), s.delivered c k 0x11 false t g → u = t.relay c g k →
    ((u.chan c).coll.phaseStep = k.fullStep →
      ((u.chan c).coll.phase = 1 → exec (.sealed c k) s = .next ((u.setPhase c k.fullStep 2).sendUp c g 0x12 k.fullStep
        (leBytes 4 1 ++ List.replicate 12 0#8 ++ ((u.setPhase c k.fullStep 2).chan c).shardDigest k.fullStep))) ∧
      ((u.chan c).coll.phase = 2 ∨ (u.chan c).coll.phase = 3 → exec (.sealed c k) s = .next (u.sendUp c g 0x12 k.fullStep
        (leBytes 4 1 ++ List.replicate 12 0#8 ++ (u.chan c).shardDigest k.fullStep)))) ∧
    ((u.chan c).coll.phaseStep ≠ k.fullStep ∨ (u.chan c).coll.phase = 0 ∨ 3 < (u.chan c).coll.phase →
      exec (.sealed c k) s = .next u)) ∧
  (∀ (c : Chan) (k : Packet) (t : State) (g : Group) (s : State), s.delivered c k 0x12 false t g →
    (∀ a, g.arrivalOf k 0 = some a →
      exec (.digestUp c k) s = .next (t.climb c g a (fun l => List.replicate 12 0#8 ++ joinDigests l) (fun s l =>
        s.broadcast c g 0x13 k.fullStep (List.replicate 16 0#8 ++ joinDigests l)))) ∧
    (g.arrivalOf k 0 = none → exec (.digestUp c k) s = .next t)) ∧
  (∀ (c : Chan) (k : Packet) (t u : State) (g : Group) (s : State), s.delivered c k 0x13 false t g → u = t.relay c g k →
    (∀ q, (u.chan c).coll.stepRun k.fullStep = some q → (u.chan c).coll.phaseStep = k.fullStep →
      ((u.chan c).coll.phase = 3 → exec (.digestDown c k) s = .next (u.sendUp c g 0x14 k.fullStep (leBytes 4 1))) ∧
      ((u.chan c).coll.phase = 2 → exec (.digestDown c k) s = .next (((u.memWrite c (u.recordAddr c k.fullStep)
        (u.pendingRecord c g q ((k.data.drop 32).take 64))).setPhase c k.fullStep 3).sendUp c g 0x14 k.fullStep (leBytes 4 1)))) ∧
    ((u.chan c).coll.stepRun k.fullStep = none ∨ (u.chan c).coll.phaseStep ≠ k.fullStep ∨
      ((u.chan c).coll.phase ≠ 2 ∧ (u.chan c).coll.phase ≠ 3) → exec (.digestDown c k) s = .next u)) ∧
  (∀ (c : Chan) (k : Packet) (t : State) (g : Group) (s : State), s.delivered c k 0x14 false t g →
    (∀ a, g.arrivalOf k 0 = some a →
      exec (.recorded c k) s = .next (t.climb c g a (fun _ => []) (fun s _ => s.broadcastCommit c g k.fullStep))) ∧
    (g.arrivalOf k 0 = none → exec (.recorded c k) s = .next t)) ∧
  (∀ (c : Chan) (k : Packet) (t u : State) (g : Group) (s : State), s.delivered c k 0x15 false t g → u = t.relay c g k →
    (∀ q, (u.chan c).coll.stepRun k.fullStep = some q → (u.chan c).coll.phaseStep = k.fullStep → (u.chan c).coll.phase = 3 →
      exec (.commit c k) s = .next (u.commitStep c g q k.key)) ∧
    ((u.chan c).coll.stepRun k.fullStep = none ∨ (u.chan c).coll.phaseStep ≠ k.fullStep ∨ (u.chan c).coll.phase ≠ 3 →
      exec (.commit c k) s = .next u)) ∧
  (∀ (c : Chan) (k : Packet) (t u : State) (g : Group) (s : State), s.delivered c k 0x16 false t g → u = t.relay c g k →
    (g.isTop = true → k.source ≠ t.address c → exec (.abort c k) s = .next (t.topAbort c g k.fullStep (k.field 16 1) (k.field 20 4))) ∧
    ((g.isTop = false ∨ k.source = t.address c) →
      ((u.chan c).training.recordSinceSeed = false ∨ (u.chan c).lastStep < k.fullStep →
        (u.chan c).coll.abortedFor k.fullStep (k.field 16 1) = false →
        exec (.abort c k) s = .next (u.abortStep c k.fullStep (k.field 16 1) (k.field 20 4))) ∧
      ((u.chan c).training.recordSinceSeed = true ∧ k.fullStep ≤ (u.chan c).lastStep ∨
        (u.chan c).coll.abortedFor k.fullStep (k.field 16 1) = true → exec (.abort c k) s = .next u))) ∧
  (∀ (c : Chan) (s : State),
    (s.commitGroup c = none → exec (.stepTimeout c) s = .next s ∧ exec (.statusQueryTimeout c) s = .next s) ∧
    (∀ g, s.commitGroup c = some g →
      (∀ a, g.isTop = true → g.live = true → g.arrivals.find? (fun a => a.msg == 0x10) = some a →
        exec (.stepTimeout c) s = .next (s.topAbort c g a.step 0x05 (s.address c))) ∧
      (g.isTop = false ∨ g.live = false ∨ (∀ a ∈ g.arrivals, a.msg ≠ 0x10) → exec (.stepTimeout c) s = .next s) ∧
      (g.isTop = true → g.phases ≠ [] → (s.chan c).linksRun = true → exec (.statusQueryTimeout c) s = .next
        ((s.actOnPhases c g).onComm c g.id (fun g => { g with phases := [] }))) ∧
      (g.isTop = false ∨ g.phases = [] ∨ (s.chan c).linksRun = false → exec (.statusQueryTimeout c) s = .next s))) ∧
  (∀ (c : Chan) (k : Packet) (t : State) (g : Group) (s : State), s.delivered c k 0x17 false t g →
    exec (.statusQuery c k) s = .next ((t.relay c g k).tell c g g.top 0x18 k.fullStep
      (leBytes 1 (((t.relay c g k).chan c).coll.phaseOf k.fullStep)))) ∧
  (∀ (c : Chan) (k : Packet) (t : State) (g : Group) (s : State), s.delivered c k 0x18 false t g →
    (∀ r, g.rankOf k.source = some r → g.isTop = true → g.phases ≠ [] → exec (.status c k) s = .next (t.onComm c g.id (fun g => { g with
      phases := g.phases.filter (fun q => q.1 != r) ++ [(r, k.field 16 1)] }))) ∧
    (g.rankOf k.source = none ∨ g.isTop = false ∨ g.phases = [] → exec (.status c k) s = .next t)) ∧
  (∀ (f : Chan → Packet → Instr) (m : Nat), (f, m) ∈ [(Instr.prepared, 0x10), (Instr.sealed, 0x11), (Instr.digestUp, 0x12),
      (Instr.digestDown, 0x13), (Instr.recorded, 0x14), (Instr.commit, 0x15), (Instr.abort, 0x16), (Instr.statusQuery, 0x17),
      (Instr.status, 0x18)] →
    ∀ (c : Chan) (k : Packet) (s : State), s.undelivered c k m false → exec (f c k) s = .next (s.taken c k m false))

/-- Streams of replicas, lost members, and spares that take their place: each completes in every state. A REPLICA of an image is
taken while a rebuild area is set, another is written to its place. REPLICA_END restores the shard of a spare that fills, and
verifies a served owner; REPLICA_VERIFIED for the own stream secures it, or sends it once more. SECURE climbs, or with result
1 goes to the top and unwinds; SECURED and UNWIND act at the member. A silent member of its block is reported lost by the
ringmaster; MEMBER_LOST at the top of COMMIT_GROUP counts once an address, decides the restore step, and claims a spare, or
finds shards lost. SPARE_CLAIM is answered with the reason it is declined, if any; SPARE_ACCEPT of the candidate asked
replaces, or asks the next; the claim's timeout and rescan; REPLACE of a later epoch. What a spare lacks to accept, and which
streams a spare has verified, are in part free values (log entries 92, 94), and the statement holds for each. Whatever does
not apply leaves the state as the message left it. Derived from 13_safety_net.md. -/
def Obligations.StreamsLossesAndSpares : Prop :=
  (∀ (c : Chan) (k : Packet) (s : State),
    (k.ptype ≠ 0x04 ∨ s.receives c k = false → exec (.replica c k) s = .next s) ∧
    (k.ptype = 0x04 → s.receives c k = true →
      (∀ u b, k.tag.toNat / 2 ^ 29 = 4 → s.receive c k true = (u, b) →
        (b = true → s.ent (kSafe c 9) ≠ 0 → exec (.replica c k) s = .next (u.takeImage c k)) ∧
        (b = false ∨ s.ent (kSafe c 9) = 0 → exec (.replica c k) s = .next u)) ∧
      (∀ u b, k.tag.toNat / 2 ^ 29 ≠ 4 → s.receive c k false = (u, b) →
        (∀ g p, (s.chan c).comm k.group = some g → (s.chan c).coll.plan k.group = some p → b = true → k.tag.toNat / 2 ^ 29 < 4 →
          exec (.replica c k) s = .next (u.takeReplica c g p k)) ∧
        ((s.chan c).comm k.group = none ∨ (s.chan c).coll.plan k.group = none ∨ b = false ∨ 4 < k.tag.toNat / 2 ^ 29 →
          exec (.replica c k) s = .next u)))) ∧
  (∀ (c : Chan) (k : Packet) (t : State) (g : Group) (rcd : List Byte) (s : State), s.delivered c k 0x41 false t g →
    rcd = (k.data.drop 32).take 256 →
    (∀ f r, (t.chan c).safety.fill = some f → (t.chan c).safety.replica = some r → fieldOf rcd 36 4 = g.rank → f.restore = k.fullStep →
      exec (.replicaEnd c k) s = .next (t.restoreShard c g f rcd k.source)) ∧
    (∀ r, (t.chan c).safety.replica = some r →
      (∀ f, (t.chan c).safety.fill = some f → ¬ (fieldOf rcd 36 4 = g.rank ∧ f.restore = k.fullStep)) →
      (fieldOf rcd 36 4 ∈ r.served g.rank →
        exec (.replicaEnd c k) s = .next (t.verifyServed c r g (fieldOf rcd 36 4) k.fullStep k.source rcd)) ∧
      (fieldOf rcd 36 4 ∉ r.served g.rank → exec (.replicaEnd c k) s = .next t)) ∧
    ((t.chan c).safety.replica = none → exec (.replicaEnd c k) s = .next t)) ∧
  (∀ (c : Chan) (k : Packet) (t : State) (g : Group) (s : State), s.delivered c k 0x42 false t g →
    (k.field 20 4 = g.rank → k.fullStep = (t.chan c).safety.streamStep → (t.chan c).safety.streamOk = false →
      (k.field 16 1 = 0 → exec (.replicaVerified c k) s = .next ((t.onSafety c (fun f => { f with streamOk := true })).trySecure c g)) ∧
      (k.field 16 1 ≠ 0 → (t.chan c).safety.streams < 2 →
        exec (.replicaVerified c k) s = .next (t.streamOwn c g (t.chan c).safety.streamStep)) ∧
      (k.field 16 1 ≠ 0 → 2 ≤ (t.chan c).safety.streams → exec (.replicaVerified c k) s = .next t)) ∧
    (k.field 20 4 ≠ g.rank ∨ k.fullStep ≠ (t.chan c).safety.streamStep ∨ (t.chan c).safety.streamOk = true →
      exec (.replicaVerified c k) s = .next t)) ∧
  (∀ (c : Chan) (k : Packet) (t : State) (g : Group) (s : State), s.delivered c k 0x43 false t g →
    (∀ a, g.arrivalOf k 0 = some a →
      (k.field 20 1 = 1 → g.isTop = true → exec (.secure c k) s = .next (t.topUnwind c g k.fullStep 0x06)) ∧
      (k.field 20 1 = 1 → g.isTop = false →
        exec (.secure c k) s = .next (t.tell c g g.top 0x43 k.fullStep (leBytes 4 a.covered ++ leBytes 1 1))) ∧
      (k.field 20 1 ≠ 1 → exec (.secure c k) s = .next (t.climb c g a (fun _ => leBytes 1 0) (fun s _ =>
        (s.onSafety c (fun f => { f with securedAtTop := a.step })).broadcast c g 0x44 a.step [])))) ∧
    (g.arrivalOf k 0 = none → exec (.secure c k) s = .next t)) ∧
  (∀ (c : Chan) (k : Packet) (t : State) (g : Group) (s : State), s.delivered c k 0x44 false t g →
    exec (.secured c k) s = .next (((t.relay c g k).setEnt (kSafe c 2) k.fullStep).advance c)) ∧
  (∀ (c : Chan) (k : Packet) (t u : State) (g : Group) (s : State), s.delivered c k 0x45 false t g → u = t.relay c g k →
    (((u.chan c).training.recordSinceSeed = true ∧ (u.chan c).lastStep = k.fullStep) ∨ (u.chan c).coll.stepRun k.fullStep ≠ none →
      exec (.unwind c k) s = .next (u.unwindStep c k.fullStep (k.field 16 1))) ∧
    (((u.chan c).training.recordSinceSeed = false ∨ (u.chan c).lastStep ≠ k.fullStep) → (u.chan c).coll.stepRun k.fullStep = none →
      exec (.unwind c k) s = .next u)) ∧
  (∀ (c : Chan) (rank : Nat) (s : State),
    (s.commitGroup c = none → exec (.memberHeartbeatTimeout c rank) s = .next s) ∧
    (∀ g, s.commitGroup c = some g →
      (g.live = true → (s.chan c).linksRun = true → g.isMaster = true → rank ≠ g.rank → rank ∈ g.ranksIn g.block →
        g.silent (s.chan c).clock.timebase rank = true → exec (.memberHeartbeatTimeout c rank) s = .next (s.reportLost c g rank 0)) ∧
      (g.live = false ∨ (s.chan c).linksRun = false ∨ g.isMaster = false ∨ rank = g.rank ∨ rank ∉ g.ranksIn g.block ∨
        g.silent (s.chan c).clock.timebase rank = false → exec (.memberHeartbeatTimeout c rank) s = .next s))) ∧
  (∀ (c : Chan) (k : Packet) (t : State) (g : Group) (s : State), s.delivered c k 0x40 false t g →
    (∀ u v step, g.isTop = true → g.id = t.ent (kUpd c 1) → g.address (k.field 20 4) = k.field 16 4 →
      (∀ l ∈ (t.chan c).safety.lost, l.address ≠ k.field 16 4) →
      (t.bump c (kSafe c 0x23)).decideLoss c g (k.field 20 4) = (u, step) →
      v = u.drawFree.2.onSafety c (fun f => { f with
        lost := f.lost ++ [⟨k.field 16 4, k.field 20 4⟩], filling := f.filling.filter (· != k.field 20 4), requested := f.requested.filter (· != k.field 20 4), restore := step }) →
      ((u.chan c).safety.shardsLost (Config.fresh u.free) (k.field 20 4) = [] → exec (.memberLost c k) s = .next (v.claimNext c g)) ∧
      ((u.chan c).safety.shardsLost (Config.fresh u.free) (k.field 20 4) ≠ [] → exec (.memberLost c k) s = .next
        (v.sendShardsLost c g ((u.chan c).safety.shardsLost (Config.fresh u.free) (k.field 20 4))))) ∧
    (g.isTop = false ∨ g.id ≠ t.ent (kUpd c 1) ∨ g.address (k.field 20 4) ≠ k.field 16 4 ∨
      (∃ l ∈ (t.chan c).safety.lost, l.address = k.field 16 4) → exec (.memberLost c k) s = .next t)) ∧
  (∀ (c : Chan) (k : Packet) (s : State),
    (k.ptype ≠ 0x05 ∨ k.msg ≠ 0x46 → exec (.spareClaim c k) s = .next s) ∧
    (k.ptype = 0x05 → k.msg = 0x46 → ∀ u b, s.receive c k true = (u, b) →
      (b = false → exec (.spareClaim c k) s = .next u) ∧
      (b = true → ∀ w why, w = u.drawFree.2.drawFree.2 → why = w.declineReason c (Config.fresh u.free) (Config.fresh u.drawFree.2.free) →
        (why = 0 → exec (.spareClaim c k) s = .next ((w.setEnt (kSafe c 3) k.fullStep).message c k.source k.group k.fullEpoch 0x47
          k.fullStep (leBytes 1 0))) ∧
        (why ≠ 0 → exec (.spareClaim c k) s = .next (w.message c k.source k.group k.fullEpoch 0x47 k.fullStep (leBytes 1 why)))))) ∧
  (∀ (c : Chan) (k : Packet) (t : State) (g : Group) (s : State), s.delivered c k 0x47 false t g →
    (∀ q, (t.chan c).safety.claim = some q →
      (g.isTop = true → q.candidates.head? = some k.source → k.field 16 1 = 0 →
        exec (.spareAccept c k) s = .next (t.replaceWith c g q k.source)) ∧
      (g.isTop = true → q.candidates.head? = some k.source → k.field 16 1 ≠ 0 →
        exec (.spareAccept c k) s = .next (t.claimFrom c g { q with candidates := q.candidates.drop 1 })) ∧
      (g.isTop = false ∨ q.candidates.head? ≠ some k.source → exec (.spareAccept c k) s = .next t)) ∧
    ((t.chan c).safety.claim = none → exec (.spareAccept c k) s = .next t)) ∧
  (∀ (c : Chan) (s : State),
    (s.commitGroup c = none ∨ (s.chan c).safety.claim = none →
      exec (.spareClaimTimeout c) s = .next s ∧ exec (.spareRescan c) s = .next s) ∧
    (∀ g q, s.commitGroup c = some g → (s.chan c).safety.claim = some q →
      (g.isTop = true → (s.chan c).linksRun = true →
        (q.candidates ≠ [] → exec (.spareClaimTimeout c) s = .next (s.claimFrom c g { q with candidates := q.candidates.drop 1 })) ∧
        (q.dry = true → exec (.spareRescan c) s = .next (s.claimFrom c g { q with candidates := (s.chan c).candidates g q.lost }))) ∧
      (g.isTop = false ∨ (s.chan c).linksRun = false ∨ q.candidates = [] → exec (.spareClaimTimeout c) s = .next s) ∧
      (g.isTop = false ∨ (s.chan c).linksRun = false ∨ q.dry = false → exec (.spareRescan c) s = .next s))) ∧
  (∀ (c : Chan) (k : Packet) (t : State) (g : Group) (s : State), s.delivered c k 0x48 (s.laterEpoch c k) t g →
    (later32 k.fullEpoch g.epoch = true → exec (.replace c k) s = .next ((t.relay c { g with epoch := k.fullEpoch } k).applyReplace c g.id
      (k.field 16 4) (k.field 20 4) (k.field 24 4) (k.field 28 4) k.fullStep k.fullEpoch)) ∧
    (later32 k.fullEpoch g.epoch = false → exec (.replace c k) s = .next t)) ∧
  (∀ (f : Chan → Packet → Instr) (m : Nat), (f, m) ∈ [(Instr.memberLost, 0x40), (Instr.replicaEnd, 0x41), (Instr.replicaVerified, 0x42),
      (Instr.secure, 0x43), (Instr.secured, 0x44), (Instr.unwind, 0x45), (Instr.spareAccept, 0x47)] →
    ∀ (c : Chan) (k : Packet) (s : State), s.undelivered c k m false → exec (f c k) s = .next (s.taken c k m false)) ∧
  (∀ (c : Chan) (k : Packet) (s : State), s.undelivered c k 0x48 (s.laterEpoch c k) →
    exec (.replace c k) s = .next (s.taken c k 0x48 (s.laterEpoch c k)))

/-- The fill of a spare, the end of a rebuild, lost shards, and the reset of a group: each completes in every state. A fill
descriptor that may begin starts the fill of the channel's COMMIT_GROUP and asks the buddy and the top; another is refused.
FILL_REQUEST streams a served bank and, at the top, asks for parameters again; PARAM_RESEND sends them to the spare, and
waits at a spare that has not restored its own masters. FILLED at the top drops the member from those that fill, reports a
fill that failed, and with the last sends REBUILT, which ends the rebuild at every member; SHARDS_LOST fails the groups of
the lost members, ends the fill and its descriptor, abandons the program and raises 0x0082. A reset descriptor of a live
group asks for the reset, of another or of another type it is refused; the members reset and send RESET_DONE, which climbs,
and RESET_RELEASE completes what waited. A job that is not ready and a message that is not delivered have no such effect.
Derived from 13_safety_net.md. -/
def Obligations.FillsAndResets : Prop :=
  (∀ (c : Chan) (n : Nat) (j : Job) (s : State), s.ready c n 0x93 = some j →
    (∀ off, s.fillRefusal c j.addr = some off → exec (.fillDescriptor c n) s = .next (s.refuseJob c j ⟨0x93, j.addr, off, 0⟩)) ∧
    (s.fillRefusal c j.addr = none → ∃ g u, s.commitGroup c = some g ∧
      u = ((s.onChan c (fun h => h.setJob { j with phase := .group g.id })).onSafety c (fun f => { f with fill := some ⟨j.id, g.id,
        s.ent (kSafe c 3), false, false, [], ((s.chan c).plansOf (s.ent (kSafe c 3))).flatMap (fun p =>
          (List.range p.buckets.length).map (fun b => (p.group, b)))⟩ })).setEnt (kSafe c 1) 2 ∧
      exec (.fillDescriptor c n) s = .next (u.requestFill c g (s.ent (kSafe c 3))) ∧
      ((u.chan c).buddy g = none ∨ (u.chan c).buddy g = some g.top →
        u.requestFill c g (s.ent (kSafe c 3)) = u.tell c g g.top 0x49 (s.ent (kSafe c 3)) (leBytes 4 g.rank)) ∧
      (∀ b, (u.chan c).buddy g = some b → b ≠ g.top → u.requestFill c g (s.ent (kSafe c 3)) =
        (u.tell c g b 0x49 (s.ent (kSafe c 3)) (leBytes 4 g.rank)).tell c g g.top 0x49 (s.ent (kSafe c 3)) (leBytes 4 g.rank)))) ∧
  (∀ (c : Chan) (k : Packet) (t u : State) (g : Group) (s : State), s.delivered c k 0x49 false t g →
    u = (match (t.chan c).safety.replica with
      | some r => if (r.served g.rank).contains (k.field 16 4) then t.streamBank c r g (k.field 16 4) k.fullStep else t
      | none => t) →
    (g.isTop = true → exec (.fillRequest c k) s = .next ((u.onSafety c (fun f => { f with
      requested := f.requested.filter (· != k.field 16 4) ++ [k.field 16 4] })).broadcast c g 0x4A k.fullStep
        (leBytes 4 (g.address (k.field 16 4))))) ∧
    (g.isTop = false → exec (.fillRequest c k) s = .next u)) ∧
  (∀ (c : Chan) (k : Packet) (t u v : State) (g : Group) (s : State), s.delivered c k 0x4A false t g → u = t.relay c g k →
    v = u.resendParams c (k.field 16 4) k.fullStep →
    (k.field 16 4 = u.address c → exec (.paramResend c k) s = .next u) ∧
    (∀ f, k.field 16 4 ≠ u.address c → (u.chan c).safety.fill = some f → f.shardDone = false →
      exec (.paramResend c k) s = .next (u.onSafety c (fun f => { f with owedParams := f.owedParams ++ [(k.field 16 4, k.fullStep)] }))) ∧
    (k.field 16 4 ≠ u.address c → (∀ f, (u.chan c).safety.fill = some f → f.shardDone = true) →
      ((∀ b, (v.chan c).buddy g = some b → g.address b ≠ k.field 16 4) → exec (.paramResend c k) s = .next v) ∧
      (∀ b, (v.chan c).buddy g = some b → g.address b = k.field 16 4 → exec (.paramResend c k) s = .next
        ((v.onSafety c (fun f => { f with streams := 0 })).streamOwn c g k.fullStep)))) ∧
  (∀ (c : Chan) (k : Packet) (t u : State) (g : Group) (s : State), s.delivered c k 0x4B false t g →
    u = t.onSafety c (fun f => { f with
      filling := (t.chan c).safety.filling.filter (· != k.field 16 4), requested := f.requested.filter (· != k.field 16 4) }) →
    (g.isTop = false ∨ k.field 16 4 ∉ (t.chan c).safety.filling → exec (.filled c k) s = .next t) ∧
    (g.isTop = true → k.field 16 4 ∈ (t.chan c).safety.filling →
      (k.field 20 1 = 1 → exec (.filled c k) s = .next (t.sendShardsLost c g [k.field 16 4])) ∧
      (k.field 20 1 ≠ 1 → (t.chan c).safety.lost = [] → (∀ r ∈ (t.chan c).safety.filling, r = k.field 16 4) →
        exec (.filled c k) s = .next (u.broadcast c g 0x4C (t.chan c).safety.restore (leBytes 4 (t.chan c).safety.replaced))) ∧
      (k.field 20 1 ≠ 1 → (t.chan c).safety.lost ≠ [] ∨ (∃ r ∈ (t.chan c).safety.filling, r ≠ k.field 16 4) →
        exec (.filled c k) s = .next u))) ∧
  (∀ (c : Chan) (k : Packet) (t u : State) (g : Group) (s : State), s.delivered c k 0x4C false t g →
    u = (t.relay c g k).onChan c (fun h => { h with
      groups := h.groups.map (fun g => if g.state = GroupState.rebuilding then { g with state := .active } else g),
      safety := { h.safety with replaced := 0, filling := [], requested := [], filled := none } }) →
    exec (.rebuilt c k) s = .next (((u.setEnt (kSafe c 2) k.fullStep).setEnt (kSafe c 1) 0).advance c)) ∧
  (∀ (c : Chan) (k : Packet) (t r u w : State) (g : Group) (lost : List Nat) (s : State), s.delivered c k 0x4D false t g →
    lost = (List.range (min (k.field 16 4) 120)).map (fun i => k.field (20 + 4 * i) 4) →
    r = ((((t.chan c).groups.filter (fun q => q.id == g.id || q.members.any (fun a => (lost.map g.address).contains a))).map
      (fun q => q.id)).foldl (fun s i => s.silenceGroup c i) t).relay c g k →
    u = r.onChan c (fun h => { h with
      groups := h.groups.map (fun q => if q.id == g.id || q.members.any (fun a => (lost.map g.address).contains a)
        then { q with state := .failed } else q),
      safety := { h.safety with
        lostRanks := lost, fill := none, lost := [], claim := none, filling := [], requested := [], reported := [], filled := none, owedParams := [] } }) →
    (w = u ∧ ((r.chan c).safety.fill = none ∨ ∃ f, (r.chan c).safety.fill = some f ∧ (u.chan c).job f.job = none) ∨
      (∃ f j, (r.chan c).safety.fill = some f ∧ (u.chan c).job f.job = some j ∧ w = u.failJob c j 0x03 0 0)) →
    exec (.shardsLost c k) s = .next ((((w.orderAbandon c).setEnt (kSafe c 1) 3).bumpBy c (kSafe c 0x27) (k.field 16 4)).raise c 0x0082
      (leBytes 4 (k.field 16 4) ++ leBytes 8 k.fullStep ++ leBytes 4 (lost.headD 0)))) ∧
  (∀ (c : Chan) (n : Nat) (j : Job) (s : State), s.ready c n 0x94 = some j →
    ((s.chan c).nat j.addr 2 ≠ 0x94 → exec (.resetDescriptor c n) s = .next (s.refuseJob c j ⟨0x94, j.addr, 0, 0⟩)) ∧
    ((s.chan c).nat j.addr 2 = 0x94 →
      ((s.chan c).comm ((s.chan c).nat (j.addr + 4) 2) = none →
        exec (.resetDescriptor c n) s = .next (s.refuseJob c j ⟨0x94, j.addr, 4, 0⟩)) ∧
      (∀ g u, (s.chan c).comm ((s.chan c).nat (j.addr + 4) 2) = some g →
        u = (s.onChan c (fun h => h.setJob { j with phase := .group g.id })).onComm c g.id (fun g => { g with resets := g.resets ++ [j.id] }) →
        (g.live = false → exec (.resetDescriptor c n) s = .next (s.refuseJob c j ⟨0x94, j.addr, 4, 0⟩)) ∧
        (g.live = true → g.isTop = true → exec (.resetDescriptor c n) s = .next (u.broadcast c g 0x4E 0 [])) ∧
        (g.live = true → g.isTop = false → exec (.resetDescriptor c n) s = .next (u.tell c g g.top 0x4E 0 []))))) ∧
  (∀ (f : Chan → Nat → Instr) (ty : Nat), (f, ty) ∈ [(Instr.fillDescriptor, 0x93), (Instr.resetDescriptor, 0x94)] →
    ∀ (c : Chan) (n : Nat) (s : State), s.ready c n ty = none → exec (f c n) s = .next s) ∧
  (∀ (c : Chan) (k : Packet) (t : State) (g : Group) (s : State), s.delivered c k 0x4E false t g →
    (g.isTop = true → k.source ≠ t.address c → exec (.resetMsg c k) s = .next (t.broadcast c g 0x4E 0 [])) ∧
    (g.isTop = false ∨ k.source = t.address c →
      exec (.resetMsg c k) s = .next (((t.relay c g k).resetMember c g.id).sendUp c g 0x4F 0 (leBytes 4 1)))) ∧
  (∀ (c : Chan) (k : Packet) (t : State) (g : Group) (s : State), s.delivered c k 0x4F false t g →
    (∀ a, g.arrivalOf k 0 = some a →
      exec (.resetDone c k) s = .next (t.climb c g a (fun _ => []) (fun s _ => s.broadcast c g 0x50 0 []))) ∧
    (g.arrivalOf k 0 = none → exec (.resetDone c k) s = .next t)) ∧
  (∀ (c : Chan) (k : Packet) (t u : State) (g : Group) (s : State), s.delivered c k 0x50 false t g →
    u = (t.relay c g k).onComm c g.id (fun g => { g with resets := [] }) →
    exec (.resetRelease c k) s = .next (g.resets.foldl (fun s i =>
      (((s.chan c).job i).map (fun j => s.completeJob c j 0 0)).getD s) u) ∧
    (g.resets = [] → exec (.resetRelease c k) s = .next u) ∧
    (∀ i j, g.resets = [i] → (u.chan c).job i = some j → exec (.resetRelease c k) s = .next (u.completeJob c j 0 0))) ∧
  (∀ (f : Chan → Packet → Instr) (m : Nat), (f, m) ∈ [(Instr.fillRequest, 0x49), (Instr.paramResend, 0x4A), (Instr.filled, 0x4B),
      (Instr.rebuilt, 0x4C), (Instr.shardsLost, 0x4D), (Instr.resetMsg, 0x4E), (Instr.resetDone, 0x4F), (Instr.resetRelease, 0x50)] →
    ∀ (c : Chan) (k : Packet) (s : State), s.undelivered c k m false → exec (f c k) s = .next (s.taken c k m false))

/-- Every command but a misplaced burst completes in every state. Whatever the state, exec answers a next state to every command:
none is refused, and a fault comes only from ACCUMULATE_WRITE and READ_CLEAR on a burst that is not a whole group of HBM, and
from CLEAR of a range that is not (log entry 104). So step answers a next state unless one of these three stands in front of
the queue. Derived from 95_what_each_step_holds.md, 13_safety_net.md, 08_training_step.md. -/
def Obligations.EveryCommandCompletes : Prop :=
  (∀ (i : Instr) (s : State), (∃ t : State, exec i s = .next t) ∨
    (exec i s = .fault .noSuchBurst ∧
      ((∃ c b m w, i = .accumulateWrite c b m w ∧ burstOk b = false) ∨ (∃ c b, i = .readClear c b ∧ burstOk b = false) ∨
        (∃ c a n, i = .clear c a n ∧ (a % 64 ≠ 0 ∨ n % 64 ≠ 0 ∨ inHbm a n = false))))) ∧
  (∀ s : State, (∀ i, s.pending.head? = some i →
      (∀ c b m w, i = .accumulateWrite c b m w → burstOk b = true) ∧ (∀ c b, i = .readClear c b → burstOk b = true) ∧
      (∀ c a n, i = .clear c a n → a % 64 = 0 ∧ n % 64 = 0 ∧ inHbm a n = true)) →
    ∃ t : State, step s = .next t)
end

