-- ==== Sys2Proof/Laws/Memory.lean ====
section
/-!
SUPPORT. Maps in canonical form and the memories: reading after writing, and every operation keeps the canonical form.
-/

namespace Sys2Proof.Machine

variable {α : Type}

/-! ### Reading a map after an operation -/

theorem mget_mput (d v : α) (k j : Nat) (m : Map α) : mget d j (mput k v m) = if k = j then v else mget d j m := by
  induction m with
  | nil => simp [mput, mget]
  | cons p m ih =>
    obtain ⟨i, w⟩ := p
    simp only [mput]
    split
    · simp [mget]
    · split
      · subst_vars; simp only [mget]; split <;> simp_all
      · simp only [mget, ih]; split <;> split <;> simp_all

/-- Every key of a map is greater than the bound. -/
def above : Option Nat → Nat → Prop
  | none, _ => True
  | some b, k => b < k

theorem risingFrom_cons (b : Option Nat) (k : Nat) (v : α) (m : Map α) :
    risingFrom b ((k, v) :: m) = true ↔ above b k ∧ risingFrom (some k) m = true := by
  cases b <;> simp [risingFrom, above]

theorem risingFrom_weaken {b b' : Option Nat} {m : Map α} (h : ∀ k, above b k → above b' k)
    (hr : risingFrom b m = true) : risingFrom b' m = true := by
  cases m with
  | nil => simp [risingFrom]
  | cons p m =>
    obtain ⟨k, v⟩ := p
    rw [risingFrom_cons] at hr ⊢
    exact ⟨h k hr.1, hr.2⟩

theorem mget_of_le {d : α} {b k : Nat} {m : Map α} (hr : risingFrom (some b) m = true) (hk : k ≤ b) :
    mget d k m = d := by
  induction m generalizing b with
  | nil => rfl
  | cons p m ih =>
    obtain ⟨j, v⟩ := p
    rw [risingFrom_cons] at hr
    have hj : b < j := hr.1
    have hne : j ≠ k := by omega
    simp only [mget, if_neg hne]
    exact ih hr.2 (by omega)

theorem risingFrom_mput {b : Option Nat} {k : Nat} (v : α) {m : Map α} (hb : above b k)
    (hr : risingFrom b m = true) : risingFrom b (mput k v m) = true := by
  induction m generalizing b with
  | nil => simpa [mput, risingFrom_cons, risingFrom] using hb
  | cons p m ih =>
    obtain ⟨j, w⟩ := p
    rw [risingFrom_cons] at hr
    simp only [mput]
    split
    · rename_i hkj
      simp only [risingFrom_cons]
      exact ⟨hb, hkj, hr.2⟩
    · split
      · subst_vars; rw [risingFrom_cons]; exact hr
      · rw [risingFrom_cons]
        exact ⟨hr.1, ih (show k > j by omega) hr.2⟩

theorem risingFrom_mdel {b : Option Nat} (k : Nat) {m : Map α} (hr : risingFrom b m = true) :
    risingFrom b (mdel k m) = true := by
  induction m generalizing b with
  | nil => exact hr
  | cons p m ih =>
    obtain ⟨j, w⟩ := p
    rw [risingFrom_cons] at hr
    simp only [mdel]
    split
    · exact risingFrom_weaken (fun i hi => by
        have := hr.1
        cases b <;> simp_all [above]; omega) hr.2
    · rw [risingFrom_cons]; exact ⟨hr.1, ih hr.2⟩

theorem mget_mdel {d : α} {k j : Nat} {b : Option Nat} {m : Map α} (hr : risingFrom b m = true) :
    mget d j (mdel k m) = if k = j then d else mget d j m := by
  induction m generalizing b with
  | nil => simp [mdel, mget]
  | cons p m ih =>
    obtain ⟨i, w⟩ := p
    rw [risingFrom_cons] at hr
    simp only [mdel]
    split
    · subst_vars
      split
      · subst_vars; exact mget_of_le hr.2 (Nat.le_refl _)
      · simp_all [mget]
    · simp only [mget, ih hr.2]
      split <;> split <;> simp_all

/-- A map reads, after a write, as written at the key and as before elsewhere. -/
theorem mget_mset [DecidableEq α] {d v : α} {k j : Nat} {m : Map α} (h : mapWf d m = true) :
    mget d j (mset d k v m) = if k = j then v else mget d j m := by
  have hr : risingFrom none m = true := by simp [mapWf] at h; exact h.1
  unfold mset
  split
  · subst_vars; exact mget_mdel hr
  · exact mget_mput d v k j m

/-! ### The canonical form is kept -/

theorem mem_mput {p : Nat × α} {k : Nat} {v : α} {m : Map α} (h : p ∈ mput k v m) : p = (k, v) ∨ p ∈ m := by
  induction m with
  | nil => simpa [mput] using h
  | cons q m ih =>
    obtain ⟨j, w⟩ := q
    simp only [mput] at h
    split at h
    · simpa using h
    · split at h
      · simp at h ⊢; rcases h with h | h <;> simp [h]
      · simp at h ⊢
        rcases h with h | h
        · simp [h]
        · rcases ih h with h | h <;> simp [h]

theorem mem_mdel {p : Nat × α} {k : Nat} {m : Map α} (h : p ∈ mdel k m) : p ∈ m := by
  induction m with
  | nil => simp [mdel] at h
  | cons q m ih =>
    obtain ⟨j, w⟩ := q
    simp only [mdel] at h
    split at h
    · simp [h]
    · simp at h ⊢
      rcases h with h | h
      · simp [h]
      · simp [ih h]

theorem mapWf_iff [DecidableEq α] {d : α} {m : Map α} :
    mapWf d m = true ↔ risingFrom none m = true ∧ ∀ p ∈ m, p.2 ≠ d := by
  simp [mapWf]

/-- A write keeps the canonical form. -/
theorem mapWf_mset [DecidableEq α] {d : α} (k : Nat) (v : α) {m : Map α} (h : mapWf d m = true) :
    mapWf d (mset d k v m) = true := by
  rw [mapWf_iff] at h ⊢
  unfold mset
  split
  · exact ⟨risingFrom_mdel k h.1, fun p hp => h.2 p (mem_mdel hp)⟩
  · rename_i hv
    refine ⟨risingFrom_mput v trivial h.1, fun p hp => ?_⟩
    rcases mem_mput hp with rfl | hp
    · exact hv
    · exact h.2 p hp

theorem risingFrom_filter {b : Option Nat} (f : Nat × α → Bool) {m : Map α} (hr : risingFrom b m = true) :
    risingFrom b (m.filter f) = true := by
  induction m generalizing b with
  | nil => exact hr
  | cons p m ih =>
    obtain ⟨k, v⟩ := p
    rw [risingFrom_cons] at hr
    by_cases hf : f (k, v) = true
    · rw [List.filter_cons_of_pos hf, risingFrom_cons]; exact ⟨hr.1, ih hr.2⟩
    · rw [List.filter_cons_of_neg hf]
      exact risingFrom_weaken (fun i hi => by
        have := hr.1
        cases b <;> simp_all [above]; omega) (ih hr.2)

/-- Leaving entries out keeps the canonical form. -/
theorem mapWf_filter [DecidableEq α] {d : α} (f : Nat × α → Bool) {m : Map α} (h : mapWf d m = true) :
    mapWf d (m.filter f) = true := by
  rw [mapWf_iff] at h ⊢
  exact ⟨risingFrom_filter f h.1, fun p hp => h.2 p (List.mem_filter.mp hp).1⟩

/-! ### The memories -/

theorem memPut_wf (m : Map Byte) (a : Nat) (b : Byte) (h : Memory.wf m = true) : Memory.wf (memPut m a b) = true := by
  unfold memPut
  split
  · exact mapWf_mset a b h
  · exact h

theorem memWrite_wf (m : Map Byte) (a : Nat) (bs : List Byte) (h : Memory.wf m = true) :
    Memory.wf (memWrite m a bs) = true := by
  induction bs generalizing m a with
  | nil => exact h
  | cons b bs ih => exact ih _ _ (memPut_wf m a b h)

theorem memClear_wf (m : Map Byte) (a n : Nat) (h : Memory.wf m = true) : Memory.wf (memClear m a n) = true :=
  mapWf_filter _ h

theorem nil_wf : Memory.wf [] = true := rfl

/-- One byte read after one byte is written. -/
theorem mget_memPut {m : Map Byte} {a k : Nat} {b : Byte} (h : Memory.wf m = true) :
    mget 0#8 k (memPut m a b) = if a = k ∧ inMemory a 1 = true then b else mget 0#8 k m := by
  unfold memPut
  split
  · rw [mget_mset h]; simp_all
  · simp_all

/-- A byte outside the bytes written reads as before. -/
theorem mget_memWrite_outside {m : Map Byte} {a k : Nat} {bs : List Byte} (h : Memory.wf m = true)
    (hk : k < a ∨ a + bs.length ≤ k) : mget 0#8 k (memWrite m a bs) = mget 0#8 k m := by
  induction bs generalizing m a with
  | nil => rfl
  | cons b bs ih =>
    simp only [List.length_cons] at hk
    rw [memWrite, ih (memPut_wf m a b h) (by omega), mget_memPut h, if_neg (by omega)]

/-- A byte of the bytes written into memory that exists reads as written. -/
theorem mget_memWrite_inside {m : Map Byte} {a i : Nat} {bs : List Byte} (h : Memory.wf m = true)
    (hi : i < bs.length) (hm : inMemory (a + i) 1 = true) : mget 0#8 (a + i) (memWrite m a bs) = bs.getD i 0#8 := by
  induction bs generalizing m a i with
  | nil => simp at hi
  | cons b bs ih =>
    cases i with
    | zero =>
      rw [memWrite, mget_memWrite_outside (memPut_wf m a b h) (by omega), mget_memPut h]
      simp_all
    | succ i =>
      have e : a + (i + 1) = (a + 1) + i := by omega
      rw [memWrite, e, ih (memPut_wf m a b h) (by simpa using hi) (by rw [← e]; exact hm)]
      simp

theorem mget_filter_neg {m : Map α} {d : α} {k : Nat} {f : Nat × α → Bool} (h : ∀ v, f (k, v) = true) :
    mget d k (m.filter f) = mget d k m := by
  induction m with
  | nil => rfl
  | cons p m ih =>
    obtain ⟨j, v⟩ := p
    by_cases hf : f (j, v) = true
    · rw [List.filter_cons_of_pos hf]; simp only [mget, ih]
    · rw [List.filter_cons_of_neg hf, ih]
      have : j ≠ k := fun e => hf (e ▸ h v)
      simp [mget, this]

/-- A byte outside the bytes cleared reads as before. -/
theorem mget_memClear_outside {m : Map Byte} {a n k : Nat} (hk : k < a ∨ a + n ≤ k) :
    mget 0#8 k (memClear m a n) = mget 0#8 k m :=
  mget_filter_neg (fun v => by simp only [Bool.not_eq_true', Bool.and_eq_false_iff, decide_eq_false_iff_not]; omega)

end Sys2Proof.Machine
end

