-- ==== Sys2Proof/Laws/Kept.lean ====
section
/-!
SUPPORT. What every operation of the model keeps, as one relation between the states before and after it: the queue, the
canonical form of the memories, and the field fuses. The files Kept*.lean of this folder say it once for each operation.
-/

namespace Sys2Proof.Machine

/-! ### Fuses -/

/-- What every operation keeps of a die's fuses. -/
def Firmware.Kept (f g : Firmware) : Prop := f.fusesKept g ∧ (f.fusesOk → g.fusesOk)

theorem Firmware.Kept.refl (f : Firmware) : f.Kept f :=
  ⟨⟨fun _ h => h, Nat.le_refl _, Nat.le_refl _⟩, id⟩

theorem Firmware.Kept.trans {f g k : Firmware} (a : f.Kept g) (b : g.Kept k) : f.Kept k :=
  ⟨⟨fun i h => b.1.1 i (a.1.1 i h), Nat.le_trans a.1.2.1 b.1.2.1, Nat.le_trans a.1.2.2 b.1.2.2⟩, fun h => b.2 (a.2 h)⟩

/-- A die whose fuses did not change keeps them. -/
theorem Firmware.Kept.same {f g k : Firmware} (h : f.Kept g) (h1 : k.revoked = g.revoked)
    (h2 : k.securityMin = g.securityMin) (h3 : k.debugCount = g.debugCount) : f.Kept k := by
  simp only [Firmware.Kept, Firmware.fusesKept, Firmware.fusesOk] at h ⊢
  rw [h1, h2, h3]
  exact h

/-- As `same`, of a die written out. -/
theorem Firmware.Kept.mk_same {f g : Firmware} (h : f.Kept g) {x1 x2 x3 x4 x5 x6 x7 x8 x9 x13 x14 x15} :
    f.Kept ⟨x1, x2, x3, x4, x5, x6, x7, x8, x9, g.revoked, g.securityMin, g.debugCount, x13, x14, x15⟩ :=
  h.same rfl rfl rfl

theorem Firmware.Kept.ite {f a b : Firmware} {c : Prop} [Decidable c] (ha : f.Kept a) (hb : f.Kept b) :
    f.Kept (if c then a else b) := by split <;> assumption

/-! ### Channels -/

/-- What every operation keeps of a channel. -/
structure Channel.Kept (h g : Channel) : Prop where
  mem : Memory.wf h.mem = true → Memory.wf g.mem = true
  fw : h.fw.Kept g.fw

theorem Channel.Kept.refl (h : Channel) : h.Kept h := ⟨id, Firmware.Kept.refl _⟩

theorem Channel.Kept.trans {h g k : Channel} (a : h.Kept g) (b : g.Kept k) : h.Kept k :=
  ⟨fun w => b.mem (a.mem w), a.fw.trans b.fw⟩

/-- A channel of which neither the memory nor the firmware changed. -/
theorem Channel.Kept.same {h g k : Channel} (a : h.Kept g) (h1 : k.mem = g.mem) (h2 : k.fw = g.fw) : h.Kept k :=
  ⟨fun w => h1 ▸ a.mem w, h2 ▸ a.fw⟩

/-- A channel whose memory was written or cleared. -/
theorem Channel.Kept.memory {h g k : Channel} (a : h.Kept g) (h1 : Memory.wf g.mem = true → Memory.wf k.mem = true)
    (h2 : k.fw = g.fw) : h.Kept k :=
  ⟨fun w => h1 (a.mem w), h2 ▸ a.fw⟩

/-- As `same`, of a channel written out. -/
theorem Channel.Kept.mk_same {h g : Channel} (a : h.Kept g) {x1 x2 x3 x4 x6 x7 x8 x9 x10 x11 x12 x13 x14 x15 x16 x17 x18 x19 x20 x22 x23} :
    h.Kept ⟨x1, x2, x3, x4, g.mem, x6, x7, x8, x9, x10, x11, x12, x13, x14, x15, x16, x17, x18, x19, x20, g.fw, x22, x23⟩ :=
  a.same rfl rfl

/-- As `same`, of a channel written out whose firmware keeps its fuses. -/
theorem Channel.Kept.mk_fw {h g : Channel} (a : h.Kept g) {x1 x2 x3 x4 x6 x7 x8 x9 x10 x11 x12 x13 x14 x15 x16 x17 x18 x19 x20 x22 x23}
    {f : Firmware} (hf : g.fw.Kept f) :
    h.Kept ⟨x1, x2, x3, x4, g.mem, x6, x7, x8, x9, x10, x11, x12, x13, x14, x15, x16, x17, x18, x19, x20, f, x22, x23⟩ :=
  ⟨a.mem, a.fw.trans hf⟩

/-- As `memory`, of a channel written out. -/
theorem Channel.Kept.mk_memory {h g : Channel} (a : h.Kept g) {m : Map Byte} {x1 x2 x3 x4 x6 x7 x8 x9 x10 x11 x12 x13 x14 x15 x16 x17 x18 x19 x20 x22 x23}
    (hm : Memory.wf g.mem = true → Memory.wf m = true) :
    h.Kept ⟨x1, x2, x3, x4, m, x6, x7, x8, x9, x10, x11, x12, x13, x14, x15, x16, x17, x18, x19, x20, g.fw, x22, x23⟩ :=
  a.memory hm rfl

/-- A channel of which some memory was cleared. -/
theorem Channel.Kept.mk_clear {h g : Channel} (a : h.Kept g) (p n : Nat)
    {x1 x2 x3 x4 x6 x7 x8 x9 x10 x11 x12 x13 x14 x15 x16 x17 x18 x19 x20 x22 x23} :
    h.Kept ⟨x1, x2, x3, x4, memClear g.mem p n, x6, x7, x8, x9, x10, x11, x12, x13, x14, x15, x16, x17, x18, x19, x20, g.fw, x22, x23⟩ :=
  a.mk_memory (memClear_wf _ _ _)

/-- A channel that has lost its memory. -/
theorem Channel.Kept.mk_lost {h g : Channel} (a : h.Kept g)
    {x1 x2 x3 x4 x6 x7 x8 x9 x10 x11 x12 x13 x14 x15 x16 x17 x18 x19 x20 x22 x23} :
    h.Kept ⟨x1, x2, x3, x4, [], x6, x7, x8, x9, x10, x11, x12, x13, x14, x15, x16, x17, x18, x19, x20, g.fw, x22, x23⟩ :=
  a.mk_memory (fun _ => nil_wf)

theorem Channel.Kept.ite {h a b : Channel} {c : Prop} [Decidable c] (ha : h.Kept a) (hb : h.Kept b) :
    h.Kept (if c then a else b) := by split <;> assumption

theorem Channel.Kept.ite_fst {α : Type} {h : Channel} {a b : Channel × α} {c : Prop} [Decidable c] (ha : h.Kept a.1)
    (hb : h.Kept b.1) : h.Kept (if c then a else b).1 := by split <;> assumption

theorem Channel.Kept.ite_snd {α : Type} {h : Channel} {a b : α × Channel} {c : Prop} [Decidable c] (ha : h.Kept a.2)
    (hb : h.Kept b.2) : h.Kept (if c then a else b).2 := by split <;> assumption

theorem Channel.Kept.foldl {α : Type} {h g : Channel} {f : Channel → α → Channel} {l : List α} (a : h.Kept g)
    (hf : ∀ g x, h.Kept g → h.Kept (f g x)) : h.Kept (l.foldl f g) := by
  induction l generalizing g with
  | nil => exact a
  | cons x l ih => exact ih (hf g x a)

theorem Channel.Kept.foldl_fst {α β : Type} {h : Channel} {g : Channel × β} {f : Channel × β → α → Channel × β} {l : List α}
    (a : h.Kept g.1) (hf : ∀ g x, h.Kept g.1 → h.Kept (f g x).1) : h.Kept (l.foldl f g).1 := by
  induction l generalizing g with
  | nil => exact a
  | cons x l ih => exact ih (hf g x a)

theorem Channel.Kept.foldl_fst_fst {α β γ : Type} {h : Channel} {g : (Channel × β) × γ} {f : (Channel × β) × γ → α → (Channel × β) × γ}
    {l : List α} (a : h.Kept g.1.1) (hf : ∀ g x, h.Kept g.1.1 → h.Kept (f g x).1.1) : h.Kept (l.foldl f g).1.1 := by
  induction l generalizing g with
  | nil => exact a
  | cons x l ih => exact ih (hf g x a)

theorem Channel.Kept.foldl_mid {α β γ : Type} {h : Channel} {g : γ × Channel × β} {f : γ × Channel × β → α → γ × Channel × β}
    {l : List α} (a : h.Kept g.2.1) (hf : ∀ g x, h.Kept g.2.1 → h.Kept (f g x).2.1) : h.Kept (l.foldl f g).2.1 := by
  induction l generalizing g with
  | nil => exact a
  | cons x l ih => exact ih (hf g x a)

/-! ### States -/

/-- The channel a command may change: channel `c`, or any channel where none is named. -/
def Covers (k : Option Chan) (c : Chan) : Prop := k = none ∨ k = some c

theorem Covers.self (c : Chan) : Covers (some c) c := .inr rfl

theorem Covers.any (c : Chan) : Covers none c := .inl rfl

/-- Of the channels that a value names, if any. -/
def CoversAll (k : Option Chan) (o : Option Chan) : Prop := ∀ c, o = some c → Covers k c

theorem CoversAll.some {k : Option Chan} {c : Chan} (h : Covers k c) : CoversAll k (some c) := fun _ e => by cases e; exact h

theorem CoversAll.none {k : Option Chan} : CoversAll k none := fun _ e => by cases e

theorem CoversAll.get {k : Option Chan} {c : Chan} (h : CoversAll k (Option.some c)) : Covers k c := h c rfl

theorem CoversAll.self (o : Option Chan) : CoversAll o o := fun _ e => .inr e

theorem CoversAll.any (o : Option Chan) : CoversAll Option.none o := fun c _ => Covers.any c

/-- What every operation keeps, and that the operations of channel `k` change no other channel. -/
structure State.Kept (s t : State) (k : Option Chan) : Prop where
  pending : t.pending = s.pending
  module : s.module.fw.Kept t.module.fw
  chan : ∀ c : Chan, (s.chan c).Kept (t.chan c)
  apart : ∀ c, k = some c → ∀ d, d ≠ c → t.chan d = s.chan d

variable {k : Option Chan}

theorem State.Kept.refl (s : State) : s.Kept s k :=
  ⟨rfl, Firmware.Kept.refl _, fun _ => Channel.Kept.refl _, fun _ _ _ _ => rfl⟩

theorem State.Kept.trans {s t u : State} (a : s.Kept t k) (b : t.Kept u k) : s.Kept u k :=
  ⟨b.pending.trans a.pending, a.module.trans b.module, fun c => (a.chan c).trans (b.chan c),
    fun c e d hd => (b.apart c e d hd).trans (a.apart c e d hd)⟩

theorem State.chan_setChan (s : State) (c d : Chan) (x : Channel) : (s.setChan c x).chan d = if c = d then x else s.chan d := by
  match c, d with
  | 0, 0 => rfl
  | 0, 1 => rfl
  | 0, 2 => rfl
  | 0, 3 => rfl
  | 1, 0 => rfl
  | 1, 1 => rfl
  | 1, 2 => rfl
  | 1, 3 => rfl
  | 2, 0 => rfl
  | 2, 1 => rfl
  | 2, 2 => rfl
  | 2, 3 => rfl
  | 3, 0 => rfl
  | 3, 1 => rfl
  | 3, 2 => rfl
  | 3, 3 => rfl

theorem State.setChan_pending (s : State) (c : Chan) (x : Channel) : (s.setChan c x).pending = s.pending := by
  unfold State.setChan; split <;> rfl

theorem State.setChan_module (s : State) (c : Chan) (x : Channel) : (s.setChan c x).module = s.module := by
  unfold State.setChan; split <;> rfl

/-- A state of which neither the queue, nor the module's firmware, nor a channel changed. -/
theorem State.Kept.same {s t u : State} (a : s.Kept t k) (h1 : u.pending = t.pending) (h2 : u.module.fw = t.module.fw)
    (h3 : u.ch0 = t.ch0) (h4 : u.ch1 = t.ch1) (h5 : u.ch2 = t.ch2) (h6 : u.ch3 = t.ch3) : s.Kept u k := by
  have e : ∀ c, u.chan c = t.chan c := by
    intro c
    unfold State.chan
    split <;> assumption
  exact ⟨h1.trans a.pending, h2 ▸ a.module, fun c => e c ▸ a.chan c, fun c h d hd => (e d).trans (a.apart c h d hd)⟩

/-- As `same`, of a state written out. -/
theorem State.Kept.mk_same {s t : State} (a : s.Kept t k) {f o d m} (hm : t.module.fw.Kept m.fw) :
    s.Kept ⟨t.pending, f, o, d, m, t.ch0, t.ch1, t.ch2, t.ch3⟩ k :=
  ⟨a.pending, a.module.trans hm, fun c => a.chan c, fun c h d hd => a.apart c h d hd⟩

theorem State.Kept.setChan {s t : State} {c : Chan} {x : Channel} (a : s.Kept t k) (hx : (t.chan c).Kept x)
    (hk : Covers k c := by assumption) : s.Kept (t.setChan c x) k := by
  refine ⟨(State.setChan_pending t c x).trans a.pending, by rw [State.setChan_module]; exact a.module, fun d => ?_,
    fun b e d hd => ?_⟩
  · rw [State.chan_setChan]
    split
    · subst_vars; exact (a.chan _).trans hx
    · exact a.chan d
  · rw [State.chan_setChan, if_neg ?_]
    · exact a.apart b e d hd
    · rcases hk with hk | hk
      · rw [hk] at e; cases e
      · rw [hk] at e; cases e
        exact fun h => hd h.symm

theorem State.Kept.onChan {s t : State} {c : Chan} {f : Channel → Channel} (a : s.Kept t k) (hf : (t.chan c).Kept (f (t.chan c)))
    (hk : Covers k c := by assumption) : s.Kept (t.onChan c f) k := a.setChan hf

theorem State.Kept.ite {s a b : State} {c : Prop} [Decidable c] (ha : s.Kept a k) (hb : s.Kept b k) :
    s.Kept (if c then a else b) k := by split <;> assumption

theorem State.Kept.ite_fst {α : Type} {s : State} {a b : State × α} {c : Prop} [Decidable c] (ha : s.Kept a.1 k)
    (hb : s.Kept b.1 k) : s.Kept (if c then a else b).1 k := by split <;> assumption

theorem State.Kept.ite_snd {α : Type} {s : State} {a b : α × State} {c : Prop} [Decidable c] (ha : s.Kept a.2 k)
    (hb : s.Kept b.2 k) : s.Kept (if c then a else b).2 k := by split <;> assumption

theorem State.Kept.foldl {α : Type} {s t : State} {f : State → α → State} {l : List α} (a : s.Kept t k)
    (hf : ∀ t x, s.Kept t k → s.Kept (f t x) k) : s.Kept (l.foldl f t) k := by
  induction l generalizing t with
  | nil => exact a
  | cons x l ih => exact ih (hf t x a)

theorem State.Kept.foldl_fst {α β : Type} {s : State} {g : State × β} {f : State × β → α → State × β} {l : List α}
    (a : s.Kept g.1 k) (hf : ∀ g x, s.Kept g.1 k → s.Kept (f g x).1 k) : s.Kept (l.foldl f g).1 k := by
  induction l generalizing g with
  | nil => exact a
  | cons x l ih => exact ih (hf g x a)

/-! ### The operations of the memory -/

theorem Channel.write_kept {h0 h : Channel} (a : h0.Kept h) (p : Nat) (bs : List Byte) : h0.Kept (h.write p bs) :=
  a.memory (memWrite_wf _ _ _) rfl

theorem Channel.setSlot_kept {h0 h : Channel} (a : h0.Kept h) (i : Nat) (y : SlotState) : h0.Kept (h.setSlot i y) := by
  unfold Channel.setSlot
  split
  · exact a.same rfl rfl
  · exact a.same rfl rfl

theorem Channel.writeNat_kept {h0 h : Channel} (a : h0.Kept h) (p n v : Nat) : h0.Kept (h.writeNat p n v) :=
  a.memory (memWrite_wf _ _ _) rfl

end Sys2Proof.Machine
end

