-- ==== Sys2Proof/Laws/State.lean ====
section
/-!
SUPPORT. The parts of a state after one part has been changed: of each update, what each field then is.
-/

namespace Sys2Proof.Machine

/-! ### A channel replaced -/

@[simp] theorem State.onChan_pending (s : State) (c : Chan) (f : Channel → Channel) : (s.onChan c f).pending = s.pending :=
  State.setChan_pending s c _
@[simp] theorem State.onChan_module (s : State) (c : Chan) (f : Channel → Channel) : (s.onChan c f).module = s.module :=
  State.setChan_module s c _
@[simp] theorem State.onChan_free (s : State) (c : Chan) (f : Channel → Channel) : (s.onChan c f).free = s.free := by
  unfold State.onChan State.setChan; split <;> rfl
@[simp] theorem State.onChan_out (s : State) (c : Chan) (f : Channel → Channel) : (s.onChan c f).out = s.out := by
  unfold State.onChan State.setChan; split <;> rfl
@[simp] theorem State.onChan_od (s : State) (c : Chan) (f : Channel → Channel) : (s.onChan c f).od = s.od := by
  unfold State.onChan State.setChan; split <;> rfl
@[simp] theorem State.chan_onChan_self (s : State) (c : Chan) (f : Channel → Channel) : (s.onChan c f).chan c = f (s.chan c) := by
  unfold State.onChan; rw [State.chan_setChan, if_pos rfl]
theorem State.chan_onChan_other (s : State) {c d : Chan} (h : d ≠ c) (f : Channel → Channel) :
    (s.onChan c f).chan d = s.chan d := by
  unfold State.onChan; rw [State.chan_setChan, if_neg (Ne.symm h)]

/-! ### The endpoint, the dictionary, the trace and the drawn counter -/

@[simp] theorem State.onEndpoint_chan (s : State) (f : Endpoint → Endpoint) (c : Chan) : (s.onEndpoint f).chan c = s.chan c := rfl
@[simp] theorem State.onEndpoint_pending (s : State) (f : Endpoint → Endpoint) : (s.onEndpoint f).pending = s.pending := rfl
@[simp] theorem State.onEndpoint_od (s : State) (f : Endpoint → Endpoint) : (s.onEndpoint f).od = s.od := rfl
@[simp] theorem State.onEndpoint_out (s : State) (f : Endpoint → Endpoint) : (s.onEndpoint f).out = s.out := rfl
@[simp] theorem State.onEndpoint_endpoint (s : State) (f : Endpoint → Endpoint) :
    (s.onEndpoint f).module.endpoint = f s.module.endpoint := rfl
@[simp] theorem State.onEndpoint_clock (s : State) (f : Endpoint → Endpoint) : (s.onEndpoint f).module.clock = s.module.clock := rfl
@[simp] theorem State.onEndpoint_sessions (s : State) (f : Endpoint → Endpoint) :
    (s.onEndpoint f).module.sessions = s.module.sessions := rfl
@[simp] theorem State.onEndpoint_fw (s : State) (f : Endpoint → Endpoint) : (s.onEndpoint f).module.fw = s.module.fw := rfl
@[simp] theorem State.setEnt_chan (s : State) (k v : Nat) (c : Chan) : (s.setEnt k v).chan c = s.chan c := rfl
@[simp] theorem State.setEnt_module (s : State) (k v : Nat) : (s.setEnt k v).module = s.module := rfl
@[simp] theorem State.setEnt_pending (s : State) (k v : Nat) : (s.setEnt k v).pending = s.pending := rfl
@[simp] theorem State.setEnt_out (s : State) (k v : Nat) : (s.setEnt k v).out = s.out := rfl
@[simp] theorem State.emit_chan (s : State) (o : Output) (c : Chan) : (s.emit o).chan c = s.chan c := rfl
@[simp] theorem State.emit_module (s : State) (o : Output) : (s.emit o).module = s.module := rfl
@[simp] theorem State.emit_od (s : State) (o : Output) : (s.emit o).od = s.od := rfl
@[simp] theorem State.emit_pending (s : State) (o : Output) : (s.emit o).pending = s.pending := rfl
@[simp] theorem State.emit_out (s : State) (o : Output) : (s.emit o).out = o :: s.out := rfl
@[simp] theorem State.drawFree_chan (s : State) (c : Chan) : s.drawFree.2.chan c = s.chan c := rfl
@[simp] theorem State.drawFree_module (s : State) : s.drawFree.2.module = s.module := rfl
@[simp] theorem State.drawFree_od (s : State) : s.drawFree.2.od = s.od := rfl
@[simp] theorem State.drawFree_fst (s : State) : s.drawFree.1 = s.free := rfl
@[simp] theorem State.drawFree_pending (s : State) : s.drawFree.2.pending = s.pending := rfl

/-! ### A value read back -/

/-- An entry reads as what was last written to it. -/
theorem State.ent_setEnt_self (s : State) (k v : Nat) (h : mapWf (odDefault k) s.od = true) : (s.setEnt k v).ent k = v := by
  unfold State.ent State.setEnt
  rw [mget_mset h, if_pos rfl]

/-- Bytes outside a write read as before. -/
theorem Channel.write_keepsOutside (h : Channel) (a : Nat) (bs : List Byte) (hw : Memory.wf h.mem = true) :
    h.keepsOutside (h.write a bs) a bs.length := by
  intro k hk
  show mget 0#8 k (memWrite h.mem a bs) = mget 0#8 k h.mem
  exact mget_memWrite_outside hw hk

end Sys2Proof.Machine
end

