-- ==== Sys2Proof/Laws/Bytes.lean ====
section
/-!
SUPPORT. Numbers in memory: what is read where a number was written, and where it was not; the length of an authentication code.
-/

namespace Sys2Proof.Machine

/-- A number in n bytes is n bytes long. -/
theorem leBytes_length (n v : Nat) : (leBytes n v).length = n := by
  induction n generalizing v with
  | zero => rfl
  | succ n ih => simp [leBytes, ih]

/-- A number that is written in n bytes reads back modulo 256 to the n. -/
theorem leNat_leBytes (n v : Nat) : leNat (leBytes n v) = v % 256 ^ n := by
  induction n generalizing v with
  | zero => simp [leBytes, leNat, Nat.mod_one]
  | succ n ih =>
    simp only [leBytes, leNat, ih, BitVec.toNat_ofNat]
    show v % 256 + _ = _
    rw [Nat.pow_succ, Nat.mul_comm (256 ^ n) 256, Nat.mod_mul]

/-- Two changes within a range are one change within it. -/
theorem Channel.keepsOutside_trans {h g k : Channel} {a n b m x y : Nat} (h1 : h.keepsOutside g a n) (h2 : g.keepsOutside k b m)
   (ha : x ≤ a) (hb : x ≤ b) (h3 : a + n ≤ x + y) (h4 : b + m ≤ x + y) : h.keepsOutside k x y := by
  intro q hq
  rw [h2 q (by omega), h1 q (by omega)]

/-- A number outside the range of a change reads as before. -/
theorem Channel.nat_keepsOutside {h g : Channel} {a n b m : Nat} (h1 : h.keepsOutside g a n) (hd : b + m ≤ a ∨ a + n ≤ b) : g.nat b m = h.nat b m := by
  unfold Channel.nat Channel.bytes
  congr 1
  apply List.map_congr_left
  intro i hi
  rw [List.mem_range] at hi
  exact h1 _ (by omega)

/-- A number reads back where it was written. -/
theorem Channel.nat_writeNat {h : Channel} {a n v : Nat} (hw : Memory.wf h.mem = true) (hm : ∀ i, i < n → inMemory (a + i) 1 = true) :
    (h.writeNat a n v).nat a n = v % 256 ^ n := by
  rw [← leNat_leBytes]
  unfold Channel.nat Channel.bytes
  congr 1
  apply List.ext_getElem
  · simp [leBytes_length]
  · intro i h1 h2
    simp at h1
    rw [List.getElem_map, List.getElem_range]
    have : i < (leBytes n v).length := by rw [leBytes_length]; exact h1
    have := mget_memWrite_inside (m := h.mem) (a := a) (i := i) (bs := leBytes n v) hw this (hm i h1)
    show mget 0#8 (a + i) (memWrite h.mem a (leBytes n v)) = _
    rw [this]; simp [List.getD_eq_getElem?_getD, h2]

/-- Five planes of five lanes. -/
def Planes.square (a : Planes) : Prop := a.length = 5 ∧ ∀ p ∈ a, p.length = 5

theorem addPlane_length (p q : List Lane) : (addPlane p q).length = min p.length q.length := by simp [addPlane]

theorem foldl_addPlane_length {a : Planes} {q : List Lane} (ha : ∀ p ∈ a, p.length = 5) (hq : q.length = 5) :
    (a.foldl addPlane q).length = 5 := by
  induction a generalizing q with
  | nil => exact hq
  | cons p a ih =>
    refine ih (fun r hr => ha r (List.mem_cons_of_mem _ hr)) ?_
    rw [addPlane_length, hq, ha p List.mem_cons_self]; rfl

theorem theta_square {a : Planes} (h : Planes.square a) : Planes.square (theta a) := by
  have hp := foldl_addPlane_length (q := List.replicate 5 0) h.2 rfl
  refine ⟨by simp [theta, h.1], fun p hm => ?_⟩
  obtain ⟨q, hq, rfl⟩ := List.mem_map.1 hm
  simp only [addPlane_length, List.length_append, List.length_map, List.length_drop, List.length_take, hp, h.2 q hq]; rfl

theorem putLane_square {a : Planes} (h : Planes.square a) (x y : Nat) (v : Lane) : Planes.square (putLane a x y v) := by
  refine ⟨by simp [putLane, h.1], fun p hm => ?_⟩
  obtain ⟨i, hi, rfl⟩ := List.mem_iff_getElem.1 hm
  simp only [putLane, List.getElem_modify]
  split
  · simp only [List.length_set]; exact h.2 _ (List.getElem_mem _)
  · exact h.2 _ (List.getElem_mem _)

theorem walkLanes_square (a : Planes) (k x y : Nat) {b : Planes} (h : Planes.square b) : Planes.square (walkLanes a k x y b) := by
  induction k generalizing x y b with
  | zero => exact h
  | succ k ih => exact ih _ _ (putLane_square h _ _ _)

theorem keccakRounds_square (k r : Nat) {a : Planes} (h : Planes.square a) : Planes.square (keccakRounds k r a) := by
  induction k generalizing r a with
  | zero => exact h
  | succ k ih =>
    have hw := walkLanes_square (theta a) 24 1 0 (theta_square h)
    refine ih _ ⟨by simp [hw.1], fun p hm => ?_⟩
    obtain ⟨i, hi, rfl⟩ := List.mem_iff_getElem.1 hm
    have hl : ∀ q ∈ walkLanes (theta a) 24 1 0 (theta a), (chiPlane q).length = 5 := fun q hq => by
      simp [chiPlane, addPlane_length, hw.2 q hq]
    simp only [List.getElem_modify, List.getElem_map]
    split
    · simp only [List.length_modify]; exact hl _ (List.getElem_mem _)
    · exact hl _ (List.getElem_mem _)

/-- The state of a sponge after a permutation has 200 bytes. -/
theorem permute_length (bs : List Byte) : (permute bs).length = 200 := by
  have h := keccakRounds_square 24 1 (a := planesOf bs) ⟨by simp [planesOf], fun p hm => by
    obtain ⟨y, -, rfl⟩ := List.mem_map.1 hm; simp⟩
  unfold permute planeBytes
  rw [List.length_flatMap, List.map_congr_left (g := fun _ => 40) (fun p hm => by
    rw [List.length_flatMap, List.map_congr_left (g := fun _ => 8) (fun v _ => leBytes_length 8 v.toNat)]
    simp [h.2 p hm])]
  simp [h.1]

/-- A sponge's state has 200 bytes whatever it has taken in. -/
theorem soak_length (k : Nat) (msg : List Byte) {st : List Byte} (h : st.length = 200) : (soak k msg st).length = 200 := by
  induction k generalizing msg st with
  | zero => exact h
  | succ k ih => exact ih _ (permute_length _)

/-- What a sponge gives has the length asked for. -/
theorem wring_length (k n : Nat) {st : List Byte} (h : st.length = 200) (hk : n < 136 * k) : (wring k n st).length = n := by
  induction k generalizing n st with
  | zero => omega
  | succ k ih =>
    unfold wring
    split
    · simp; omega
    · rw [List.length_append, ih _ (permute_length _) (by omega)]; simp; omega

/-- SHAKE256 gives as many bytes as asked for. -/
theorem sponge136_length (d : Byte) (msg : List Byte) (n : Nat) : (sponge136 d msg n).length = n :=
  wring_length _ _ (soak_length _ _ List.length_replicate) (by omega)

theorem shake256_length (msg : List Byte) (n : Nat) : (shake256 msg n).length = n := sponge136_length _ _ _

/-- A code is as long as asked for. -/
theorem kmac256_length (xof : Bool) (key msg s : List Byte) (n : Nat) : (kmac256 xof key msg n s).length = n := sponge136_length _ _ _

end Sys2Proof.Machine
end

