-- ==== Sys2Proof/Laws/Shared.lean ====
section
/-!
SUPPORT. What the shared operations of the meanings do where their conditions hold: a descriptor that may begin, a request to
write that passes its checks, and a control message that reaches a group.
-/

namespace Sys2Proof.Machine

/-- A descriptor that may begin is acted on. -/
theorem State.withJob_ready {s : State} {c : Chan} {id ty : Nat} {j : Job} (h : s.ready c id ty = some j) (f : Job → State) :
    s.withJob c id ty f = f j := by
  unfold State.withJob; rw [h]

/-- Taking up a loaded descriptor does one of four things. -/
theorem State.startHeld_startsAs (s : State) (c : Chan) (j : Job) (x : Held) (go : State → State) :
    s.startsAs c j x go (s.startHeld c j x go) := by
  unfold State.startsAs State.startHeld
  cases hs : (s.chan c).entryStarted j
  · right
    refine ⟨rfl, ?_⟩
    rw [if_neg (by simp)]
    cases hw : s.heldWait c j x with
    | error r => exact .inr (.inr ⟨r, rfl, rfl⟩)
    | ok w =>
      cases w with
      | none => exact .inl ⟨rfl, rfl⟩
      | some w => exact .inr (.inl ⟨w.1, w.2, rfl, rfl⟩)
  · exact .inl ⟨rfl, if_pos rfl⟩

/-- Without a descriptor that may begin nothing changes. -/
theorem State.withJob_none {s : State} {c : Chan} {id ty : Nat} (h : s.ready c id ty = none) (f : Job → State) :
    s.withJob c id ty f = s := by
  unfold State.withJob; rw [h]

/-- The job that may begin is the one of that number, of that type. -/
theorem State.ready_some {s : State} {c : Chan} {id ty : Nat} {j : Job} (h : s.ready c id ty = some j) :
    (s.chan c).job id = some j ∧ j.descType = ty ∧ (s.chan c).mayBegin j = true := by
  unfold State.ready at h
  split at h
  · rename_i k hk
    split at h
    · rename_i hc
      cases h
      simp only [Bool.and_eq_true, decide_eq_true_eq] at hc
      exact ⟨hk, hc.1, hc.2⟩
    · cases h
  · cases h

/-- A message that is delivered is acted on by its group. -/
theorem State.onMessage_delivered {s : State} {c : Chan} {k : Packet} {msg : Nat} {exempt : Bool} {t : State} {g : Group}
    (h : s.delivered c k msg exempt t g) (f : State → Group → State) : s.onMessage c k msg exempt f = f t g := by
  obtain ⟨h1, h2, h3, h4⟩ := h
  unfold State.onMessage
  simp [h1, h2, h3, h4]

/-- A message that is not delivered is taken, and nothing else follows. -/
theorem State.onMessage_undelivered {s : State} {c : Chan} {k : Packet} {msg : Nat} {exempt : Bool}
    (h : s.undelivered c k msg exempt) (f : State → Group → State) : s.onMessage c k msg exempt f = s.taken c k msg exempt := by
  unfold State.onMessage State.taken
  by_cases h1 : k.ptype = 0x05 ∧ k.msg = msg
  · rw [if_neg (by simp [h1.1, h1.2]), if_pos h1]
    dsimp only
    split
    · rfl
    · rename_i hr
      split
      · rename_i g hg
        exact absurd ⟨h1.1, h1.2, Prod.ext rfl (by simpa using hr), hg⟩ (h _ g)
      · rfl
  · rw [if_pos ?_, if_neg h1]
    simp only [not_and_or] at h1
    simpa using h1

/-- A request to write that passes its checks, and that the entry's own rule accepts, is recorded and answered. -/
theorem State.writeRequest_passes {s u : State} {p : ReqPath} {index sub offset : Nat} {data : List Byte} {who : Option Chan}
    {r : OdRow} {w : State → State × Nat} (h : s.passes p index sub offset data who r) (hw : w s = (u, 0)) :
    s.writeRequest p index sub offset data w = s.answered u p index sub offset data who r := by
  obtain ⟨h1, h2, h3, h4⟩ := h
  unfold State.writeRequest State.answered
  simp [h1, h2, h3, h4, hw]

/-- A request to write that passes its checks, and that the entry's own rule answers with another status, is answered with it and
recorded nowhere. -/
theorem State.writeRequest_declined {s u : State} {p : ReqPath} {index sub offset n : Nat} {data : List Byte} {who : Option Chan}
    {r : OdRow} {w : State → State × Nat} (h : s.passes p index sub offset data who r) (hw : w s = (u, n)) (hn : n ≠ 0) :
    s.writeRequest p index sub offset data w = u.reply p n r.ty (entryLength index sub r.ty) offset [] := by
  obtain ⟨h1, h2, h3, _⟩ := h
  unfold State.writeRequest
  simp [h1, h2, h3, hw, hn]

/-- A request to write that fails a check is answered with its status, and nothing else follows. -/
theorem State.writeRequest_refused {s : State} {p : ReqPath} {index sub offset : Nat} {data : List Byte} {n : Nat}
    {k : Option OdRow} {w : State → State × Nat} (h1 : s.pathOpen p = true)
    (h2 : s.requestCheck p true index sub data.length = (n, k)) (hn : n ≠ 0) :
    s.writeRequest p index sub offset data w =
      s.reply p n ((k.map (·.ty)).getD 0) ((k.map (fun r => entryLength index sub r.ty)).getD 0) offset [] := by
  unfold State.writeRequest
  simp [h1, h2, hn]

/-- A rule that accepts a write notes nothing. -/
theorem noting_ok {index sub : Nat} {w : State → State × Nat} {s u : State} (h : w s = (u, 0)) :
    noting index sub w s = (u, 0) := by
  unfold noting
  simp [h]

end Sys2Proof.Machine
end

