-- ==== Sys2Proof/Laws/Entries.lean ====
section
/-!
SUPPORT. What changes an entry of the object dictionary and what does not: a write of another entry, a counter, an event and an
answer.
-/

namespace Sys2Proof.Machine

/-- A key reads as before when another is removed. -/
theorem mget_mdel_ne {α : Type} {d : α} {k j : Nat} (m : Map α) (h : j ≠ k) : mget d j (mdel k m) = mget d j m := by
  induction m with
  | nil => rfl
  | cons p m ih =>
    obtain ⟨q, v⟩ := p
    unfold mdel
    split
    · rename_i e
      conv_rhs => unfold mget
      rw [if_neg (by rw [e]; exact Ne.symm h)]
    · unfold mget; rw [ih]

/-- An entry is unchanged by a write of another. -/
theorem State.ent_setEnt_other (s : State) {k j : Nat} (v : Nat) (h : j ≠ k) : (s.setEnt k v).ent j = s.ent j := by
  unfold State.ent State.setEnt mset
  dsimp only
  split
  · exact mget_mdel_ne _ h
  · rw [mget_mput, if_neg (Ne.symm h)]

/-- A counter changes its own entry and its overflow entry alone. -/
theorem State.ent_bumpRaw (s : State) {k j : Nat} (n : Nat) (h : j ≠ k) (ho : ∀ q, odOverflow k = some q → j ≠ q.1) :
    (s.bumpRaw k n).2.ent j = s.ent j := by
  unfold State.bumpRaw
  dsimp only
  split
  · rfl
  · split
    · exact State.ent_setEnt_other _ _ h
    · split
      · rename_i q e
        rw [State.ent_setEnt_other _ _ (ho _ e), State.ent_setEnt_other _ _ h]
      · exact State.ent_setEnt_other _ _ h

/-- Entries are read from the dictionary alone. -/
theorem State.ent_od {s t : State} (h : t.od = s.od) (j : Nat) : t.ent j = s.ent j := by unfold State.ent; rw [h]

/-- Closing a session changes no entry. -/
theorem State.od_closeSession (s : State) (i r) : (s.closeSession i r).od = s.od := by
  unfold State.closeSession
  split
  · rfl
  · cases r <;> rfl

/-- Sending a frame changes no entry. -/
theorem State.od_sessionFrame (s : State) (i t b) : (s.sessionFrame i t b).od = s.od := by
  unfold State.sessionFrame
  split
  · rfl
  · split
    · rfl
    · exact State.od_closeSession _ _ _

/-- Sending a NOTIFY changes no entry. -/
theorem State.od_notify (s : State) (i) : (s.notify i).od = s.od := by
  unfold State.notify
  split
  · rfl
  · split
    · rfl
    · dsimp only; rw [State.od_sessionFrame]; rfl

/-- A message-signalled interrupt changes no entry. -/
theorem State.od_requestVector (s : State) (v) : (s.requestVector v).od = s.od := by
  unfold State.requestVector; dsimp only; split <;> rfl

/-- Offering one record changes no entry but NOTIFY_LOST and its overflow. -/
theorem State.ent_offerOnce (s : State) (e : Event) {j : Nat} (h : j / 256 ≠ 0x1010) : (s.offerOnce e).2.ent j = s.ent j := by
  unfold State.offerOnce
  dsimp only
  have hf : ∀ (l : List Nat) (t : State), (l.foldl State.notify t).od = t.od := by
    intro l
    induction l with
    | nil => intro t; rfl
    | cons a l ih => intro t; rw [List.foldl_cons, ih, State.od_notify]
  rw [State.ent_od (hf _ _)]
  refine (State.ent_bumpRaw _ _ ?_ ?_).trans rfl
  · intro e; rw [e] at h; exact h (by decide)
  · intro q hq e
    have : q.1 / 256 = 0x1010 := by
      have h2 : odOverflow keyNotifyLost = some (odKey 0x1010 0x1F, 0x23 - 0x20) := by decide
      rw [h2] at hq; cases hq; decide
    rw [e] at h; exact h this

/-- A record put into the module event FIFO changes no entry. -/
theorem State.od_fifoPut (s : State) (e : Event) : (s.fifoPut e).2.od = s.od := by
  unfold State.fifoPut; dsimp only
  split
  · rfl
  · dsimp only; rw [State.od_requestVector]; rfl

/-- Offering an event changes no entry but NOTIFY_LOST and its overflow. -/
theorem State.ent_offerEvent (s : State) (e : Event) {j : Nat} (h : j / 256 ≠ 0x1010) : (s.offerEvent e).ent j = s.ent j := by
  unfold State.offerEvent
  dsimp only
  split
  · rw [State.ent_od (State.od_fifoPut _ _), State.ent_offerOnce _ _ h, State.ent_offerOnce _ _ h]
  · exact State.ent_offerOnce _ _ h

/-- Losing an event changes no entry but those of index 0x1010. -/
theorem State.ent_loseEvent (s : State) (c : Chan) {j : Nat} (h : j / 256 ≠ 0x1010) : (s.loseEvent c).ent j = s.ent j := by
  unfold State.loseEvent; dsimp only
  split
  · rw [State.ent_offerEvent _ _ h]; exact State.ent_od (by simp) _
  · exact State.ent_od (by simp) _

/-- The signal of the event carousel changes no entry. -/
theorem State.ent_signalEvents (s : State) (c : Chan) (j : Nat) : (s.signalEvents c).ent j = s.ent j := by
  unfold State.signalEvents; dsimp only
  split
  · exact State.ent_od (by rw [State.od_requestVector]; simp) _
  · exact State.ent_od (by simp) _

/-- Raising an event of a channel changes no entry but those of index 0x1010. -/
theorem State.ent_raise (s : State) (c : Chan) (k d) {j : Nat} (h : j / 256 ≠ 0x1010) : (s.raise c k d).ent j = s.ent j := by
  unfold State.raise State.carouselPut State.carouselWrite; dsimp only
  split
  · split
    · rw [State.ent_loseEvent _ _ h, State.ent_offerEvent _ _ h]
    · rw [State.ent_signalEvents, State.ent_od (State.onChan_od _ _ _), State.ent_offerEvent _ _ h]
  · split
    · rw [State.ent_loseEvent _ _ h, State.ent_offerEvent _ _ h]
    · rw [State.ent_od (State.onChan_od _ _ _), State.ent_offerEvent _ _ h]

/-- An answer changes no entry. -/
theorem State.od_reply (s : State) (p st ty len off d) : (s.reply p st ty len off d).od = s.od := by
  unfold State.reply; dsimp only
  cases p with
  | mailbox => dsimp only; split <;> first | rw [State.od_requestVector]; rfl | rfl
  | session i =>
    dsimp only
    split
    · rw [State.od_sessionFrame]; rfl
    · rfl

end Sys2Proof.Machine
end

