-- ==== Sys2Proof/Laws/KeptOps.lean ====
section
/-!
SUPPORT. The operations of Machine/Ops.lean keep what Laws/Kept.lean says.
-/

set_option linter.all false

namespace Sys2Proof.Machine

theorem State.memWrite_kept (s : State) (c : Chan) (a : Nat) (bs : List Byte) {s0 : State} {kc : Option Chan} (h0 : s0.Kept s kc) (hk0 : Covers kc c := by assumption) : s0.Kept (State.memWrite s c a bs) kc := by
  unfold State.memWrite
  try dsimp only
  repeat' (first
    | with_reducible assumption | with_reducible exact Covers.any _
    | with_reducible exact CoversAll.some (by assumption) | with_reducible exact CoversAll.none
    | with_reducible exact CoversAll.get (by assumption) | with_reducible exact CoversAll.any _ | intro _
    | with_reducible apply Channel.write_kept | with_reducible apply State.Kept.ite
    | with_reducible apply State.Kept.ite_fst | with_reducible apply State.Kept.ite_snd
    | with_reducible apply State.Kept.setChan | with_reducible apply State.Kept.onChan
    | with_reducible apply State.Kept.foldl | with_reducible apply State.Kept.foldl_fst | split
    | fail_if_no_progress with_reducible apply State.Kept.mk_same | with_reducible exact Firmware.Kept.refl _
    | with_reducible exact Channel.Kept.refl _ | with_reducible apply Channel.Kept.ite
    | with_reducible apply Channel.Kept.foldl | with_reducible apply Channel.Kept.foldl_fst
    | with_reducible apply Channel.Kept.ite_fst | fail_if_no_progress with_reducible apply Channel.Kept.mk_same)

theorem State.drawFree_kept (s : State) {s0 : State} {kc : Option Chan} (h0 : s0.Kept s kc) : s0.Kept (State.drawFree s).2 kc := by
  unfold State.drawFree
  try dsimp only
  repeat' (first
    | with_reducible assumption | with_reducible exact Covers.any _
    | with_reducible exact CoversAll.some (by assumption) | with_reducible exact CoversAll.none
    | with_reducible exact CoversAll.get (by assumption) | with_reducible exact CoversAll.any _ | intro _
    | with_reducible apply State.Kept.ite | with_reducible apply State.Kept.ite_fst
    | with_reducible apply State.Kept.ite_snd | with_reducible apply State.Kept.setChan
    | with_reducible apply State.Kept.onChan | with_reducible apply State.Kept.foldl
    | with_reducible apply State.Kept.foldl_fst | split | fail_if_no_progress with_reducible apply State.Kept.mk_same
    | with_reducible exact Firmware.Kept.refl _ | with_reducible exact Channel.Kept.refl _
    | with_reducible apply Channel.Kept.ite | with_reducible apply Channel.Kept.foldl
    | with_reducible apply Channel.Kept.foldl_fst | with_reducible apply Channel.Kept.ite_fst
    | fail_if_no_progress with_reducible apply Channel.Kept.mk_same)

theorem State.emit_kept (s : State) (o : Output) {s0 : State} {kc : Option Chan} (h0 : s0.Kept s kc) : s0.Kept (State.emit s o) kc := by
  unfold State.emit
  try dsimp only
  repeat' (first
    | with_reducible assumption | with_reducible exact Covers.any _
    | with_reducible exact CoversAll.some (by assumption) | with_reducible exact CoversAll.none
    | with_reducible exact CoversAll.get (by assumption) | with_reducible exact CoversAll.any _ | intro _
    | with_reducible apply State.Kept.ite | with_reducible apply State.Kept.ite_fst
    | with_reducible apply State.Kept.ite_snd | with_reducible apply State.Kept.setChan
    | with_reducible apply State.Kept.onChan | with_reducible apply State.Kept.foldl
    | with_reducible apply State.Kept.foldl_fst | split | fail_if_no_progress with_reducible apply State.Kept.mk_same
    | with_reducible exact Firmware.Kept.refl _ | with_reducible exact Channel.Kept.refl _
    | with_reducible apply Channel.Kept.ite | with_reducible apply Channel.Kept.foldl
    | with_reducible apply Channel.Kept.foldl_fst | with_reducible apply Channel.Kept.ite_fst
    | fail_if_no_progress with_reducible apply Channel.Kept.mk_same)

theorem State.onEndpoint_kept (s : State) (f : Endpoint → Endpoint) {s0 : State} {kc : Option Chan} (h0 : s0.Kept s kc) : s0.Kept (State.onEndpoint s f) kc := by
  unfold State.onEndpoint
  try dsimp only
  repeat' (first
    | with_reducible assumption | with_reducible exact Covers.any _
    | with_reducible exact CoversAll.some (by assumption) | with_reducible exact CoversAll.none
    | with_reducible exact CoversAll.get (by assumption) | with_reducible exact CoversAll.any _ | intro _
    | with_reducible apply State.Kept.ite | with_reducible apply State.Kept.ite_fst
    | with_reducible apply State.Kept.ite_snd | with_reducible apply State.Kept.setChan
    | with_reducible apply State.Kept.onChan | with_reducible apply State.Kept.foldl
    | with_reducible apply State.Kept.foldl_fst | split | fail_if_no_progress with_reducible apply State.Kept.mk_same
    | with_reducible exact Firmware.Kept.refl _ | with_reducible exact Channel.Kept.refl _
    | with_reducible apply Channel.Kept.ite | with_reducible apply Channel.Kept.foldl
    | with_reducible apply Channel.Kept.foldl_fst | with_reducible apply Channel.Kept.ite_fst
    | fail_if_no_progress with_reducible apply Channel.Kept.mk_same)

theorem State.requestVector_kept (s : State) (v : Nat) {s0 : State} {kc : Option Chan} (h0 : s0.Kept s kc) : s0.Kept (State.requestVector s v) kc := by
  unfold State.requestVector
  try dsimp only
  repeat' (first
    | with_reducible assumption | with_reducible exact Covers.any _
    | with_reducible exact CoversAll.some (by assumption) | with_reducible exact CoversAll.none
    | with_reducible exact CoversAll.get (by assumption) | with_reducible exact CoversAll.any _ | intro _
    | with_reducible apply State.emit_kept | with_reducible apply State.onEndpoint_kept
    | with_reducible apply State.Kept.ite | with_reducible apply State.Kept.ite_fst
    | with_reducible apply State.Kept.ite_snd | with_reducible apply State.Kept.setChan
    | with_reducible apply State.Kept.onChan | with_reducible apply State.Kept.foldl
    | with_reducible apply State.Kept.foldl_fst | split | fail_if_no_progress with_reducible apply State.Kept.mk_same
    | with_reducible exact Firmware.Kept.refl _ | with_reducible exact Channel.Kept.refl _
    | with_reducible apply Channel.Kept.ite | with_reducible apply Channel.Kept.foldl
    | with_reducible apply Channel.Kept.foldl_fst | with_reducible apply Channel.Kept.ite_fst
    | fail_if_no_progress with_reducible apply Channel.Kept.mk_same)

theorem State.firePending_kept (s : State) (v : Nat) {s0 : State} {kc : Option Chan} (h0 : s0.Kept s kc) : s0.Kept (State.firePending s v) kc := by
  unfold State.firePending
  try dsimp only
  repeat' (first
    | with_reducible assumption | with_reducible exact Covers.any _
    | with_reducible exact CoversAll.some (by assumption) | with_reducible exact CoversAll.none
    | with_reducible exact CoversAll.get (by assumption) | with_reducible exact CoversAll.any _ | intro _
    | with_reducible apply State.onEndpoint_kept | with_reducible apply State.requestVector_kept
    | with_reducible apply State.Kept.ite | with_reducible apply State.Kept.ite_fst
    | with_reducible apply State.Kept.ite_snd | with_reducible apply State.Kept.setChan
    | with_reducible apply State.Kept.onChan | with_reducible apply State.Kept.foldl
    | with_reducible apply State.Kept.foldl_fst | split | fail_if_no_progress with_reducible apply State.Kept.mk_same
    | with_reducible exact Firmware.Kept.refl _ | with_reducible exact Channel.Kept.refl _
    | with_reducible apply Channel.Kept.ite | with_reducible apply Channel.Kept.foldl
    | with_reducible apply Channel.Kept.foldl_fst | with_reducible apply Channel.Kept.ite_fst
    | fail_if_no_progress with_reducible apply Channel.Kept.mk_same)

theorem State.fireAllPending_kept (s : State) {s0 : State} {kc : Option Chan} (h0 : s0.Kept s kc) : s0.Kept (State.fireAllPending s) kc := by
  unfold State.fireAllPending
  try dsimp only
  repeat' (first
    | with_reducible assumption | with_reducible exact Covers.any _
    | with_reducible exact CoversAll.some (by assumption) | with_reducible exact CoversAll.none
    | with_reducible exact CoversAll.get (by assumption) | with_reducible exact CoversAll.any _ | intro _
    | with_reducible apply State.firePending_kept | with_reducible apply State.Kept.ite
    | with_reducible apply State.Kept.ite_fst | with_reducible apply State.Kept.ite_snd
    | with_reducible apply State.Kept.setChan | with_reducible apply State.Kept.onChan
    | with_reducible apply State.Kept.foldl | with_reducible apply State.Kept.foldl_fst | split
    | fail_if_no_progress with_reducible apply State.Kept.mk_same | with_reducible exact Firmware.Kept.refl _
    | with_reducible exact Channel.Kept.refl _ | with_reducible apply Channel.Kept.ite
    | with_reducible apply Channel.Kept.foldl | with_reducible apply Channel.Kept.foldl_fst
    | with_reducible apply Channel.Kept.ite_fst | fail_if_no_progress with_reducible apply Channel.Kept.mk_same)

theorem State.setSession_kept (s : State) (q : Session) {s0 : State} {kc : Option Chan} (h0 : s0.Kept s kc) : s0.Kept (State.setSession s q) kc := by
  unfold State.setSession
  try dsimp only
  repeat' (first
    | with_reducible assumption | with_reducible exact Covers.any _
    | with_reducible exact CoversAll.some (by assumption) | with_reducible exact CoversAll.none
    | with_reducible exact CoversAll.get (by assumption) | with_reducible exact CoversAll.any _ | intro _
    | with_reducible apply State.Kept.ite | with_reducible apply State.Kept.ite_fst
    | with_reducible apply State.Kept.ite_snd | with_reducible apply State.Kept.setChan
    | with_reducible apply State.Kept.onChan | with_reducible apply State.Kept.foldl
    | with_reducible apply State.Kept.foldl_fst | split | fail_if_no_progress with_reducible apply State.Kept.mk_same
    | with_reducible exact Firmware.Kept.refl _ | with_reducible exact Channel.Kept.refl _
    | with_reducible apply Channel.Kept.ite | with_reducible apply Channel.Kept.foldl
    | with_reducible apply Channel.Kept.foldl_fst | with_reducible apply Channel.Kept.ite_fst
    | fail_if_no_progress with_reducible apply Channel.Kept.mk_same)

theorem State.sendFrame_kept (s : State) (q : Session) (ftype : Nat) (body : List Byte) {s0 : State} {kc : Option Chan} (h0 : s0.Kept s kc) : s0.Kept (State.sendFrame s q ftype body) kc := by
  unfold State.sendFrame
  try dsimp only
  repeat' (first
    | with_reducible assumption | with_reducible exact Covers.any _
    | with_reducible exact CoversAll.some (by assumption) | with_reducible exact CoversAll.none
    | with_reducible exact CoversAll.get (by assumption) | with_reducible exact CoversAll.any _ | intro _
    | with_reducible apply State.emit_kept | with_reducible apply State.setSession_kept
    | with_reducible apply State.Kept.ite | with_reducible apply State.Kept.ite_fst
    | with_reducible apply State.Kept.ite_snd | with_reducible apply State.Kept.setChan
    | with_reducible apply State.Kept.onChan | with_reducible apply State.Kept.foldl
    | with_reducible apply State.Kept.foldl_fst | split | fail_if_no_progress with_reducible apply State.Kept.mk_same
    | with_reducible exact Firmware.Kept.refl _ | with_reducible exact Channel.Kept.refl _
    | with_reducible apply Channel.Kept.ite | with_reducible apply Channel.Kept.foldl
    | with_reducible apply Channel.Kept.foldl_fst | with_reducible apply Channel.Kept.ite_fst
    | fail_if_no_progress with_reducible apply Channel.Kept.mk_same)

theorem State.closeSession_kept (s : State) (id : Nat) (reason : Option Nat) {s0 : State} {kc : Option Chan} (h0 : s0.Kept s kc) : s0.Kept (State.closeSession s id reason) kc := by
  unfold State.closeSession
  try dsimp only
  repeat' (first
    | with_reducible assumption | with_reducible exact Covers.any _
    | with_reducible exact CoversAll.some (by assumption) | with_reducible exact CoversAll.none
    | with_reducible exact CoversAll.get (by assumption) | with_reducible exact CoversAll.any _ | intro _
    | with_reducible apply State.sendFrame_kept | with_reducible apply State.Kept.ite
    | with_reducible apply State.Kept.ite_fst | with_reducible apply State.Kept.ite_snd
    | with_reducible apply State.Kept.setChan | with_reducible apply State.Kept.onChan
    | with_reducible apply State.Kept.foldl | with_reducible apply State.Kept.foldl_fst | split
    | fail_if_no_progress with_reducible apply State.Kept.mk_same | with_reducible exact Firmware.Kept.refl _
    | with_reducible exact Channel.Kept.refl _ | with_reducible apply Channel.Kept.ite
    | with_reducible apply Channel.Kept.foldl | with_reducible apply Channel.Kept.foldl_fst
    | with_reducible apply Channel.Kept.ite_fst | fail_if_no_progress with_reducible apply Channel.Kept.mk_same)

theorem State.sessionFrame_kept (s : State) (id ftype : Nat) (body : List Byte) {s0 : State} {kc : Option Chan} (h0 : s0.Kept s kc) : s0.Kept (State.sessionFrame s id ftype body) kc := by
  unfold State.sessionFrame
  try dsimp only
  repeat' (first
    | with_reducible assumption | with_reducible exact Covers.any _
    | with_reducible exact CoversAll.some (by assumption) | with_reducible exact CoversAll.none
    | with_reducible exact CoversAll.get (by assumption) | with_reducible exact CoversAll.any _ | intro _
    | with_reducible apply State.closeSession_kept | with_reducible apply State.sendFrame_kept
    | with_reducible apply State.Kept.ite | with_reducible apply State.Kept.ite_fst
    | with_reducible apply State.Kept.ite_snd | with_reducible apply State.Kept.setChan
    | with_reducible apply State.Kept.onChan | with_reducible apply State.Kept.foldl
    | with_reducible apply State.Kept.foldl_fst | split | fail_if_no_progress with_reducible apply State.Kept.mk_same
    | with_reducible exact Firmware.Kept.refl _ | with_reducible exact Channel.Kept.refl _
    | with_reducible apply Channel.Kept.ite | with_reducible apply Channel.Kept.foldl
    | with_reducible apply Channel.Kept.foldl_fst | with_reducible apply Channel.Kept.ite_fst
    | fail_if_no_progress with_reducible apply Channel.Kept.mk_same)

theorem State.setEnt_kept (s : State) (key v : Nat) {s0 : State} {kc : Option Chan} (h0 : s0.Kept s kc) : s0.Kept (State.setEnt s key v) kc := by
  unfold State.setEnt
  try dsimp only
  repeat' (first
    | with_reducible assumption | with_reducible exact Covers.any _
    | with_reducible exact CoversAll.some (by assumption) | with_reducible exact CoversAll.none
    | with_reducible exact CoversAll.get (by assumption) | with_reducible exact CoversAll.any _ | intro _
    | with_reducible apply State.Kept.ite | with_reducible apply State.Kept.ite_fst
    | with_reducible apply State.Kept.ite_snd | with_reducible apply State.Kept.setChan
    | with_reducible apply State.Kept.onChan | with_reducible apply State.Kept.foldl
    | with_reducible apply State.Kept.foldl_fst | split | fail_if_no_progress with_reducible apply State.Kept.mk_same
    | with_reducible exact Firmware.Kept.refl _ | with_reducible exact Channel.Kept.refl _
    | with_reducible apply Channel.Kept.ite | with_reducible apply Channel.Kept.foldl
    | with_reducible apply Channel.Kept.foldl_fst | with_reducible apply Channel.Kept.ite_fst
    | fail_if_no_progress with_reducible apply Channel.Kept.mk_same)

theorem State.bumpRaw_kept (s : State) (key n : Nat) {s0 : State} {kc : Option Chan} (h0 : s0.Kept s kc) : s0.Kept (State.bumpRaw s key n).2 kc := by
  unfold State.bumpRaw
  try dsimp only
  repeat' (first
    | with_reducible assumption | with_reducible exact Covers.any _
    | with_reducible exact CoversAll.some (by assumption) | with_reducible exact CoversAll.none
    | with_reducible exact CoversAll.get (by assumption) | with_reducible exact CoversAll.any _ | intro _
    | with_reducible apply State.setEnt_kept | with_reducible apply State.Kept.ite
    | with_reducible apply State.Kept.ite_fst | with_reducible apply State.Kept.ite_snd
    | with_reducible apply State.Kept.setChan | with_reducible apply State.Kept.onChan
    | with_reducible apply State.Kept.foldl | with_reducible apply State.Kept.foldl_fst | split
    | fail_if_no_progress with_reducible apply State.Kept.mk_same | with_reducible exact Firmware.Kept.refl _
    | with_reducible exact Channel.Kept.refl _ | with_reducible apply Channel.Kept.ite
    | with_reducible apply Channel.Kept.foldl | with_reducible apply Channel.Kept.foldl_fst
    | with_reducible apply Channel.Kept.ite_fst | fail_if_no_progress with_reducible apply Channel.Kept.mk_same)

theorem State.notify_kept (s : State) (id : Nat) {s0 : State} {kc : Option Chan} (h0 : s0.Kept s kc) : s0.Kept (State.notify s id) kc := by
  unfold State.notify
  try dsimp only
  repeat' (first
    | with_reducible assumption | with_reducible exact Covers.any _
    | with_reducible exact CoversAll.some (by assumption) | with_reducible exact CoversAll.none
    | with_reducible exact CoversAll.get (by assumption) | with_reducible exact CoversAll.any _ | intro _
    | with_reducible apply State.drawFree_kept | with_reducible apply State.sessionFrame_kept
    | with_reducible apply State.setSession_kept | with_reducible apply State.Kept.ite
    | with_reducible apply State.Kept.ite_fst | with_reducible apply State.Kept.ite_snd
    | with_reducible apply State.Kept.setChan | with_reducible apply State.Kept.onChan
    | with_reducible apply State.Kept.foldl | with_reducible apply State.Kept.foldl_fst | split
    | fail_if_no_progress with_reducible apply State.Kept.mk_same | with_reducible exact Firmware.Kept.refl _
    | with_reducible exact Channel.Kept.refl _ | with_reducible apply Channel.Kept.ite
    | with_reducible apply Channel.Kept.foldl | with_reducible apply Channel.Kept.foldl_fst
    | with_reducible apply Channel.Kept.ite_fst | fail_if_no_progress with_reducible apply Channel.Kept.mk_same)

theorem State.offerOnce_kept (s : State) (e : Event) {s0 : State} {kc : Option Chan} (h0 : s0.Kept s kc) : s0.Kept (State.offerOnce s e).2 kc := by
  unfold State.offerOnce
  try dsimp only
  repeat' (first
    | with_reducible assumption | with_reducible exact Covers.any _
    | with_reducible exact CoversAll.some (by assumption) | with_reducible exact CoversAll.none
    | with_reducible exact CoversAll.get (by assumption) | with_reducible exact CoversAll.any _ | intro _
    | with_reducible apply State.bumpRaw_kept | with_reducible apply State.notify_kept
    | with_reducible apply State.Kept.ite | with_reducible apply State.Kept.ite_fst
    | with_reducible apply State.Kept.ite_snd | with_reducible apply State.Kept.setChan
    | with_reducible apply State.Kept.onChan | with_reducible apply State.Kept.foldl
    | with_reducible apply State.Kept.foldl_fst | split | fail_if_no_progress with_reducible apply State.Kept.mk_same
    | with_reducible exact Firmware.Kept.refl _ | with_reducible exact Channel.Kept.refl _
    | with_reducible apply Channel.Kept.ite | with_reducible apply Channel.Kept.foldl
    | with_reducible apply Channel.Kept.foldl_fst | with_reducible apply Channel.Kept.ite_fst
    | fail_if_no_progress with_reducible apply Channel.Kept.mk_same)

theorem State.fifoPut_kept (s : State) (e : Event) {s0 : State} {kc : Option Chan} (h0 : s0.Kept s kc) : s0.Kept (State.fifoPut s e).2 kc := by
  unfold State.fifoPut
  try dsimp only
  repeat' (first
    | with_reducible assumption | with_reducible exact Covers.any _
    | with_reducible exact CoversAll.some (by assumption) | with_reducible exact CoversAll.none
    | with_reducible exact CoversAll.get (by assumption) | with_reducible exact CoversAll.any _ | intro _
    | with_reducible apply State.onEndpoint_kept | with_reducible apply State.requestVector_kept
    | with_reducible apply State.Kept.ite | with_reducible apply State.Kept.ite_fst
    | with_reducible apply State.Kept.ite_snd | with_reducible apply State.Kept.setChan
    | with_reducible apply State.Kept.onChan | with_reducible apply State.Kept.foldl
    | with_reducible apply State.Kept.foldl_fst | split | fail_if_no_progress with_reducible apply State.Kept.mk_same
    | with_reducible exact Firmware.Kept.refl _ | with_reducible exact Channel.Kept.refl _
    | with_reducible apply Channel.Kept.ite | with_reducible apply Channel.Kept.foldl
    | with_reducible apply Channel.Kept.foldl_fst | with_reducible apply Channel.Kept.ite_fst
    | fail_if_no_progress with_reducible apply Channel.Kept.mk_same)

theorem State.offerEvent_kept (s : State) (e : Event) {s0 : State} {kc : Option Chan} (h0 : s0.Kept s kc) : s0.Kept (State.offerEvent s e) kc := by
  unfold State.offerEvent
  try dsimp only
  repeat' (first
    | with_reducible assumption | with_reducible exact Covers.any _
    | with_reducible exact CoversAll.some (by assumption) | with_reducible exact CoversAll.none
    | with_reducible exact CoversAll.get (by assumption) | with_reducible exact CoversAll.any _ | intro _
    | with_reducible apply State.fifoPut_kept | with_reducible apply State.offerOnce_kept
    | with_reducible apply State.Kept.ite | with_reducible apply State.Kept.ite_fst
    | with_reducible apply State.Kept.ite_snd | with_reducible apply State.Kept.setChan
    | with_reducible apply State.Kept.onChan | with_reducible apply State.Kept.foldl
    | with_reducible apply State.Kept.foldl_fst | split | fail_if_no_progress with_reducible apply State.Kept.mk_same
    | with_reducible exact Firmware.Kept.refl _ | with_reducible exact Channel.Kept.refl _
    | with_reducible apply Channel.Kept.ite | with_reducible apply Channel.Kept.foldl
    | with_reducible apply Channel.Kept.foldl_fst | with_reducible apply Channel.Kept.ite_fst
    | fail_if_no_progress with_reducible apply Channel.Kept.mk_same)

theorem State.pushFifo_kept (s : State) (e : Event) {s0 : State} {kc : Option Chan} (h0 : s0.Kept s kc) : s0.Kept (State.pushFifo s e) kc := by
  unfold State.pushFifo
  try dsimp only
  repeat' (first
    | with_reducible assumption | with_reducible exact Covers.any _
    | with_reducible exact CoversAll.some (by assumption) | with_reducible exact CoversAll.none
    | with_reducible exact CoversAll.get (by assumption) | with_reducible exact CoversAll.any _ | intro _
    | with_reducible apply State.fifoPut_kept | with_reducible apply State.offerEvent_kept
    | with_reducible apply State.Kept.ite | with_reducible apply State.Kept.ite_fst
    | with_reducible apply State.Kept.ite_snd | with_reducible apply State.Kept.setChan
    | with_reducible apply State.Kept.onChan | with_reducible apply State.Kept.foldl
    | with_reducible apply State.Kept.foldl_fst | split | fail_if_no_progress with_reducible apply State.Kept.mk_same
    | with_reducible exact Firmware.Kept.refl _ | with_reducible exact Channel.Kept.refl _
    | with_reducible apply Channel.Kept.ite | with_reducible apply Channel.Kept.foldl
    | with_reducible apply Channel.Kept.foldl_fst | with_reducible apply Channel.Kept.ite_fst
    | fail_if_no_progress with_reducible apply Channel.Kept.mk_same)

theorem State.raisePort_kept (s : State) (c : Nat) (code : Nat) (data : List Byte) {s0 : State} {kc : Option Chan} (h0 : s0.Kept s kc) : s0.Kept (State.raisePort s c code data) kc := by
  unfold State.raisePort
  try dsimp only
  repeat' (first
    | with_reducible assumption | with_reducible exact Covers.any _
    | with_reducible exact CoversAll.some (by assumption) | with_reducible exact CoversAll.none
    | with_reducible exact CoversAll.get (by assumption) | with_reducible exact CoversAll.any _ | intro _
    | with_reducible apply State.offerEvent_kept | with_reducible apply State.pushFifo_kept
    | with_reducible apply State.Kept.ite | with_reducible apply State.Kept.ite_fst
    | with_reducible apply State.Kept.ite_snd | with_reducible apply State.Kept.setChan
    | with_reducible apply State.Kept.onChan | with_reducible apply State.Kept.foldl
    | with_reducible apply State.Kept.foldl_fst | split | fail_if_no_progress with_reducible apply State.Kept.mk_same
    | with_reducible exact Firmware.Kept.refl _ | with_reducible exact Channel.Kept.refl _
    | with_reducible apply Channel.Kept.ite | with_reducible apply Channel.Kept.foldl
    | with_reducible apply Channel.Kept.foldl_fst | with_reducible apply Channel.Kept.ite_fst
    | fail_if_no_progress with_reducible apply Channel.Kept.mk_same)

theorem State.signalEvents_kept (s : State) (c : Chan) {s0 : State} {kc : Option Chan} (h0 : s0.Kept s kc) (hk0 : Covers kc c := by assumption) : s0.Kept (State.signalEvents s c) kc := by
  unfold State.signalEvents
  try dsimp only
  repeat' (first
    | with_reducible assumption | with_reducible exact Covers.any _
    | with_reducible exact CoversAll.some (by assumption) | with_reducible exact CoversAll.none
    | with_reducible exact CoversAll.get (by assumption) | with_reducible exact CoversAll.any _ | intro _
    | with_reducible apply State.requestVector_kept | with_reducible apply State.Kept.ite
    | with_reducible apply State.Kept.ite_fst | with_reducible apply State.Kept.ite_snd
    | with_reducible apply State.Kept.setChan | with_reducible apply State.Kept.onChan
    | with_reducible apply State.Kept.foldl | with_reducible apply State.Kept.foldl_fst | split
    | fail_if_no_progress with_reducible apply State.Kept.mk_same | with_reducible exact Firmware.Kept.refl _
    | with_reducible exact Channel.Kept.refl _ | with_reducible apply Channel.Kept.ite
    | with_reducible apply Channel.Kept.foldl | with_reducible apply Channel.Kept.foldl_fst
    | with_reducible apply Channel.Kept.ite_fst | fail_if_no_progress with_reducible apply Channel.Kept.mk_same)

theorem State.loseEvent_kept (s : State) (c : Chan) {s0 : State} {kc : Option Chan} (h0 : s0.Kept s kc) (hk0 : Covers kc c := by assumption) : s0.Kept (State.loseEvent s c) kc := by
  unfold State.loseEvent
  try dsimp only
  repeat' (first
    | with_reducible assumption | with_reducible exact Covers.any _
    | with_reducible exact CoversAll.some (by assumption) | with_reducible exact CoversAll.none
    | with_reducible exact CoversAll.get (by assumption) | with_reducible exact CoversAll.any _ | intro _
    | with_reducible apply State.offerEvent_kept | with_reducible apply State.Kept.ite
    | with_reducible apply State.Kept.ite_fst | with_reducible apply State.Kept.ite_snd
    | with_reducible apply State.Kept.setChan | with_reducible apply State.Kept.onChan
    | with_reducible apply State.Kept.foldl | with_reducible apply State.Kept.foldl_fst | split
    | fail_if_no_progress with_reducible apply State.Kept.mk_same | with_reducible exact Firmware.Kept.refl _
    | with_reducible exact Channel.Kept.refl _ | with_reducible apply Channel.Kept.ite
    | with_reducible apply Channel.Kept.foldl | with_reducible apply Channel.Kept.foldl_fst
    | with_reducible apply Channel.Kept.ite_fst | fail_if_no_progress with_reducible apply Channel.Kept.mk_same)

theorem State.carouselWrite_kept (s : State) (c : Chan) (e : Event) {s0 : State} {kc : Option Chan} (h0 : s0.Kept s kc) (hk0 : Covers kc c := by assumption) : s0.Kept (State.carouselWrite s c e) kc := by
  unfold State.carouselWrite
  try dsimp only
  repeat' (first
    | with_reducible assumption | with_reducible exact Covers.any _
    | with_reducible exact CoversAll.some (by assumption) | with_reducible exact CoversAll.none
    | with_reducible exact CoversAll.get (by assumption) | with_reducible exact CoversAll.any _ | intro _
    | with_reducible apply Channel.write_kept | with_reducible apply State.loseEvent_kept
    | with_reducible apply State.signalEvents_kept | with_reducible apply State.Kept.ite
    | with_reducible apply State.Kept.ite_fst | with_reducible apply State.Kept.ite_snd
    | with_reducible apply State.Kept.setChan | with_reducible apply State.Kept.onChan
    | with_reducible apply State.Kept.foldl | with_reducible apply State.Kept.foldl_fst | split
    | fail_if_no_progress with_reducible apply State.Kept.mk_same | with_reducible exact Firmware.Kept.refl _
    | with_reducible exact Channel.Kept.refl _ | with_reducible apply Channel.Kept.ite
    | with_reducible apply Channel.Kept.foldl | with_reducible apply Channel.Kept.foldl_fst
    | with_reducible apply Channel.Kept.ite_fst | fail_if_no_progress with_reducible apply Channel.Kept.mk_same)

theorem State.carouselPut_kept (s : State) (c : Chan) (e : Event) {s0 : State} {kc : Option Chan} (h0 : s0.Kept s kc) (hk0 : Covers kc c := by assumption) : s0.Kept (State.carouselPut s c e) kc := by
  unfold State.carouselPut
  try dsimp only
  repeat' (first
    | with_reducible assumption | with_reducible exact Covers.any _
    | with_reducible exact CoversAll.some (by assumption) | with_reducible exact CoversAll.none
    | with_reducible exact CoversAll.get (by assumption) | with_reducible exact CoversAll.any _ | intro _
    | with_reducible apply State.carouselWrite_kept | with_reducible apply State.loseEvent_kept
    | with_reducible apply State.Kept.ite | with_reducible apply State.Kept.ite_fst
    | with_reducible apply State.Kept.ite_snd | with_reducible apply State.Kept.setChan
    | with_reducible apply State.Kept.onChan | with_reducible apply State.Kept.foldl
    | with_reducible apply State.Kept.foldl_fst | split | fail_if_no_progress with_reducible apply State.Kept.mk_same
    | with_reducible exact Firmware.Kept.refl _ | with_reducible exact Channel.Kept.refl _
    | with_reducible apply Channel.Kept.ite | with_reducible apply Channel.Kept.foldl
    | with_reducible apply Channel.Kept.foldl_fst | with_reducible apply Channel.Kept.ite_fst
    | fail_if_no_progress with_reducible apply Channel.Kept.mk_same)

theorem State.raise_kept (s : State) (c : Chan) (code : Nat) (data : List Byte) {s0 : State} {kc : Option Chan} (h0 : s0.Kept s kc) (hk0 : Covers kc c := by assumption) : s0.Kept (State.raise s c code data) kc := by
  unfold State.raise
  try dsimp only
  repeat' (first
    | with_reducible assumption | with_reducible exact Covers.any _
    | with_reducible exact CoversAll.some (by assumption) | with_reducible exact CoversAll.none
    | with_reducible exact CoversAll.get (by assumption) | with_reducible exact CoversAll.any _ | intro _
    | with_reducible apply State.carouselPut_kept | with_reducible apply State.offerEvent_kept
    | with_reducible apply State.Kept.ite | with_reducible apply State.Kept.ite_fst
    | with_reducible apply State.Kept.ite_snd | with_reducible apply State.Kept.setChan
    | with_reducible apply State.Kept.onChan | with_reducible apply State.Kept.foldl
    | with_reducible apply State.Kept.foldl_fst | split | fail_if_no_progress with_reducible apply State.Kept.mk_same
    | with_reducible exact Firmware.Kept.refl _ | with_reducible exact Channel.Kept.refl _
    | with_reducible apply Channel.Kept.ite | with_reducible apply Channel.Kept.foldl
    | with_reducible apply Channel.Kept.foldl_fst | with_reducible apply Channel.Kept.ite_fst
    | fail_if_no_progress with_reducible apply Channel.Kept.mk_same)

theorem State.raiseBoth_kept (s : State) (c : Chan) (code : Nat) (data : List Byte) {s0 : State} {kc : Option Chan} (h0 : s0.Kept s kc) (hk0 : Covers kc c := by assumption) : s0.Kept (State.raiseBoth s c code data) kc := by
  unfold State.raiseBoth
  try dsimp only
  repeat' (first
    | with_reducible assumption | with_reducible exact Covers.any _
    | with_reducible exact CoversAll.some (by assumption) | with_reducible exact CoversAll.none
    | with_reducible exact CoversAll.get (by assumption) | with_reducible exact CoversAll.any _ | intro _
    | with_reducible apply State.raisePort_kept | with_reducible apply State.raise_kept
    | with_reducible apply State.Kept.ite | with_reducible apply State.Kept.ite_fst
    | with_reducible apply State.Kept.ite_snd | with_reducible apply State.Kept.setChan
    | with_reducible apply State.Kept.onChan | with_reducible apply State.Kept.foldl
    | with_reducible apply State.Kept.foldl_fst | split | fail_if_no_progress with_reducible apply State.Kept.mk_same
    | with_reducible exact Firmware.Kept.refl _ | with_reducible exact Channel.Kept.refl _
    | with_reducible apply Channel.Kept.ite | with_reducible apply Channel.Kept.foldl
    | with_reducible apply Channel.Kept.foldl_fst | with_reducible apply Channel.Kept.ite_fst
    | fail_if_no_progress with_reducible apply Channel.Kept.mk_same)

theorem State.bumpBy_kept (s : State) (c : Chan) (key n : Nat) {s0 : State} {kc : Option Chan} (h0 : s0.Kept s kc) (hk0 : Covers kc c := by assumption) : s0.Kept (State.bumpBy s c key n) kc := by
  unfold State.bumpBy
  try dsimp only
  repeat' (first
    | with_reducible assumption | with_reducible exact Covers.any _
    | with_reducible exact CoversAll.some (by assumption) | with_reducible exact CoversAll.none
    | with_reducible exact CoversAll.get (by assumption) | with_reducible exact CoversAll.any _ | intro _
    | with_reducible apply State.bumpRaw_kept | with_reducible apply State.raise_kept
    | with_reducible apply State.Kept.ite | with_reducible apply State.Kept.ite_fst
    | with_reducible apply State.Kept.ite_snd | with_reducible apply State.Kept.setChan
    | with_reducible apply State.Kept.onChan | with_reducible apply State.Kept.foldl
    | with_reducible apply State.Kept.foldl_fst | split | fail_if_no_progress with_reducible apply State.Kept.mk_same
    | with_reducible exact Firmware.Kept.refl _ | with_reducible exact Channel.Kept.refl _
    | with_reducible apply Channel.Kept.ite | with_reducible apply Channel.Kept.foldl
    | with_reducible apply Channel.Kept.foldl_fst | with_reducible apply Channel.Kept.ite_fst
    | fail_if_no_progress with_reducible apply Channel.Kept.mk_same)

theorem State.bump_kept (s : State) (c : Chan) (key : Nat) {s0 : State} {kc : Option Chan} (h0 : s0.Kept s kc) (hk0 : Covers kc c := by assumption) : s0.Kept (State.bump s c key) kc := by
  unfold State.bump
  try dsimp only
  repeat' (first
    | with_reducible assumption | with_reducible exact Covers.any _
    | with_reducible exact CoversAll.some (by assumption) | with_reducible exact CoversAll.none
    | with_reducible exact CoversAll.get (by assumption) | with_reducible exact CoversAll.any _ | intro _
    | with_reducible apply State.bumpBy_kept | with_reducible apply State.Kept.ite
    | with_reducible apply State.Kept.ite_fst | with_reducible apply State.Kept.ite_snd
    | with_reducible apply State.Kept.setChan | with_reducible apply State.Kept.onChan
    | with_reducible apply State.Kept.foldl | with_reducible apply State.Kept.foldl_fst | split
    | fail_if_no_progress with_reducible apply State.Kept.mk_same | with_reducible exact Firmware.Kept.refl _
    | with_reducible exact Channel.Kept.refl _ | with_reducible apply Channel.Kept.ite
    | with_reducible apply Channel.Kept.foldl | with_reducible apply Channel.Kept.foldl_fst
    | with_reducible apply Channel.Kept.ite_fst | fail_if_no_progress with_reducible apply Channel.Kept.mk_same)

theorem State.bumpPort_kept (s : State) (key : Nat) {s0 : State} {kc : Option Chan} (h0 : s0.Kept s kc) : s0.Kept (State.bumpPort s key) kc := by
  unfold State.bumpPort
  try dsimp only
  repeat' (first
    | with_reducible assumption | with_reducible exact Covers.any _
    | with_reducible exact CoversAll.some (by assumption) | with_reducible exact CoversAll.none
    | with_reducible exact CoversAll.get (by assumption) | with_reducible exact CoversAll.any _ | intro _
    | with_reducible apply State.bumpRaw_kept | with_reducible apply State.raisePort_kept
    | with_reducible apply State.Kept.ite | with_reducible apply State.Kept.ite_fst
    | with_reducible apply State.Kept.ite_snd | with_reducible apply State.Kept.setChan
    | with_reducible apply State.Kept.onChan | with_reducible apply State.Kept.foldl
    | with_reducible apply State.Kept.foldl_fst | split | fail_if_no_progress with_reducible apply State.Kept.mk_same
    | with_reducible exact Firmware.Kept.refl _ | with_reducible exact Channel.Kept.refl _
    | with_reducible apply Channel.Kept.ite | with_reducible apply Channel.Kept.foldl
    | with_reducible apply Channel.Kept.foldl_fst | with_reducible apply Channel.Kept.ite_fst
    | fail_if_no_progress with_reducible apply Channel.Kept.mk_same)

end Sys2Proof.Machine
end

