-- ==== Sys2Proof/Laws/KeptFabric.lean ====
section
/-!
SUPPORT. The operations of Machine/Fabric.lean keep what Laws/Kept.lean says.
-/

set_option linter.all false

namespace Sys2Proof.Machine

theorem Channel.setLink_kept (h : Channel) (p : Nat) (k : Link) {s0 : Channel} (h0 : s0.Kept h) : s0.Kept (Channel.setLink h p k) := by
  unfold Channel.setLink
  try dsimp only
  repeat' (first
    | with_reducible assumption | intro _ | with_reducible apply Channel.Kept.ite
    | with_reducible apply Channel.Kept.ite_fst | with_reducible apply Channel.Kept.ite_snd
    | with_reducible apply Channel.Kept.foldl | with_reducible apply Channel.Kept.foldl_fst
    | with_reducible apply Channel.Kept.foldl_mid | with_reducible apply Channel.Kept.foldl_fst_fst | split
    | fail_if_no_progress with_reducible apply Channel.Kept.mk_same)

theorem State.onLink_kept (s : State) (c : Chan) (p : Nat) (f : Link → Link) {s0 : State} {kc : Option Chan} (h0 : s0.Kept s kc) (hk0 : Covers kc c := by assumption) : s0.Kept (State.onLink s c p f) kc := by
  unfold State.onLink
  try dsimp only
  repeat' (first
    | with_reducible assumption | with_reducible exact Covers.any _
    | with_reducible exact CoversAll.some (by assumption) | with_reducible exact CoversAll.none
    | with_reducible exact CoversAll.get (by assumption) | with_reducible exact CoversAll.any _ | intro _
    | with_reducible apply Channel.setLink_kept | with_reducible apply State.Kept.ite
    | with_reducible apply State.Kept.ite_fst | with_reducible apply State.Kept.ite_snd
    | with_reducible apply State.Kept.setChan | with_reducible apply State.Kept.onChan
    | with_reducible apply State.Kept.foldl | with_reducible apply State.Kept.foldl_fst | split
    | fail_if_no_progress with_reducible apply State.Kept.mk_same | with_reducible exact Firmware.Kept.refl _
    | with_reducible exact Channel.Kept.refl _ | with_reducible apply Channel.Kept.ite
    | with_reducible apply Channel.Kept.foldl | with_reducible apply Channel.Kept.foldl_fst
    | with_reducible apply Channel.Kept.ite_fst | fail_if_no_progress with_reducible apply Channel.Kept.mk_same)

theorem State.onNet_kept (s : State) (c : Chan) (f : Transport → Transport) {s0 : State} {kc : Option Chan} (h0 : s0.Kept s kc) (hk0 : Covers kc c := by assumption) : s0.Kept (State.onNet s c f) kc := by
  unfold State.onNet
  try dsimp only
  repeat' (first
    | with_reducible assumption | with_reducible exact Covers.any _
    | with_reducible exact CoversAll.some (by assumption) | with_reducible exact CoversAll.none
    | with_reducible exact CoversAll.get (by assumption) | with_reducible exact CoversAll.any _ | intro _
    | with_reducible apply State.Kept.ite | with_reducible apply State.Kept.ite_fst
    | with_reducible apply State.Kept.ite_snd | with_reducible apply State.Kept.setChan
    | with_reducible apply State.Kept.onChan | with_reducible apply State.Kept.foldl
    | with_reducible apply State.Kept.foldl_fst | split | fail_if_no_progress with_reducible apply State.Kept.mk_same
    | with_reducible exact Firmware.Kept.refl _ | with_reducible exact Channel.Kept.refl _
    | with_reducible apply Channel.Kept.ite | with_reducible apply Channel.Kept.foldl
    | with_reducible apply Channel.Kept.foldl_fst | with_reducible apply Channel.Kept.ite_fst
    | fail_if_no_progress with_reducible apply Channel.Kept.mk_same)

theorem State.route_kept (s : State) (c : Chan) (source dest : Nat) {s0 : State} {kc : Option Chan} (h0 : s0.Kept s kc) : s0.Kept (State.route s c source dest).2 kc := by
  unfold State.route
  try dsimp only
  repeat' (first
    | with_reducible assumption | with_reducible exact Covers.any _
    | with_reducible exact CoversAll.some (by assumption) | with_reducible exact CoversAll.none
    | with_reducible exact CoversAll.get (by assumption) | with_reducible exact CoversAll.any _ | intro _
    | with_reducible apply State.drawFree_kept | with_reducible apply State.Kept.ite
    | with_reducible apply State.Kept.ite_fst | with_reducible apply State.Kept.ite_snd
    | with_reducible apply State.Kept.setChan | with_reducible apply State.Kept.onChan
    | with_reducible apply State.Kept.foldl | with_reducible apply State.Kept.foldl_fst | split
    | fail_if_no_progress with_reducible apply State.Kept.mk_same | with_reducible exact Firmware.Kept.refl _
    | with_reducible exact Channel.Kept.refl _ | with_reducible apply Channel.Kept.ite
    | with_reducible apply Channel.Kept.foldl | with_reducible apply Channel.Kept.foldl_fst
    | with_reducible apply Channel.Kept.ite_fst | fail_if_no_progress with_reducible apply Channel.Kept.mk_same)

theorem State.enqueue_kept (s : State) (c : Chan) (p : Nat) (k : Packet) (source : Option Nat) {s0 : State} {kc : Option Chan} (h0 : s0.Kept s kc) (hk0 : Covers kc c := by assumption) : s0.Kept (State.enqueue s c p k source) kc := by
  unfold State.enqueue
  try dsimp only
  repeat' (first
    | with_reducible assumption | with_reducible exact Covers.any _
    | with_reducible exact CoversAll.some (by assumption) | with_reducible exact CoversAll.none
    | with_reducible exact CoversAll.get (by assumption) | with_reducible exact CoversAll.any _ | intro _
    | with_reducible apply State.onLink_kept | with_reducible apply State.Kept.ite
    | with_reducible apply State.Kept.ite_fst | with_reducible apply State.Kept.ite_snd
    | with_reducible apply State.Kept.setChan | with_reducible apply State.Kept.onChan
    | with_reducible apply State.Kept.foldl | with_reducible apply State.Kept.foldl_fst | split
    | fail_if_no_progress with_reducible apply State.Kept.mk_same | with_reducible exact Firmware.Kept.refl _
    | with_reducible exact Channel.Kept.refl _ | with_reducible apply Channel.Kept.ite
    | with_reducible apply Channel.Kept.foldl | with_reducible apply Channel.Kept.foldl_fst
    | with_reducible apply Channel.Kept.ite_fst | fail_if_no_progress with_reducible apply Channel.Kept.mk_same)

theorem State.toInbox_kept (s : State) (c : Chan) (port : Option Nat) (k : Packet) {s0 : State} {kc : Option Chan} (h0 : s0.Kept s kc) (hk0 : Covers kc c := by assumption) : s0.Kept (State.toInbox s c port k) kc := by
  unfold State.toInbox
  try dsimp only
  repeat' (first
    | with_reducible assumption | with_reducible exact Covers.any _
    | with_reducible exact CoversAll.some (by assumption) | with_reducible exact CoversAll.none
    | with_reducible exact CoversAll.get (by assumption) | with_reducible exact CoversAll.any _ | intro _
    | with_reducible apply State.onNet_kept | with_reducible apply State.Kept.ite
    | with_reducible apply State.Kept.ite_fst | with_reducible apply State.Kept.ite_snd
    | with_reducible apply State.Kept.setChan | with_reducible apply State.Kept.onChan
    | with_reducible apply State.Kept.foldl | with_reducible apply State.Kept.foldl_fst | split
    | fail_if_no_progress with_reducible apply State.Kept.mk_same | with_reducible exact Firmware.Kept.refl _
    | with_reducible exact Channel.Kept.refl _ | with_reducible apply Channel.Kept.ite
    | with_reducible apply Channel.Kept.foldl | with_reducible apply Channel.Kept.foldl_fst
    | with_reducible apply Channel.Kept.ite_fst | fail_if_no_progress with_reducible apply Channel.Kept.mk_same)

theorem State.giveBack_kept (s : State) (c : Chan) (port : Option Nat) (k : Packet) {s0 : State} {kc : Option Chan} (h0 : s0.Kept s kc) (hk0 : Covers kc c := by assumption) : s0.Kept (State.giveBack s c port k) kc := by
  unfold State.giveBack
  try dsimp only
  repeat' (first
    | with_reducible assumption | with_reducible exact Covers.any _
    | with_reducible exact CoversAll.some (by assumption) | with_reducible exact CoversAll.none
    | with_reducible exact CoversAll.get (by assumption) | with_reducible exact CoversAll.any _ | intro _
    | with_reducible apply State.onLink_kept | with_reducible apply State.Kept.ite
    | with_reducible apply State.Kept.ite_fst | with_reducible apply State.Kept.ite_snd
    | with_reducible apply State.Kept.setChan | with_reducible apply State.Kept.onChan
    | with_reducible apply State.Kept.foldl | with_reducible apply State.Kept.foldl_fst | split
    | fail_if_no_progress with_reducible apply State.Kept.mk_same | with_reducible exact Firmware.Kept.refl _
    | with_reducible exact Channel.Kept.refl _ | with_reducible apply Channel.Kept.ite
    | with_reducible apply Channel.Kept.foldl | with_reducible apply Channel.Kept.foldl_fst
    | with_reducible apply Channel.Kept.ite_fst | fail_if_no_progress with_reducible apply Channel.Kept.mk_same)

theorem State.sendUnreachable_kept (s : State) (c : Chan) (k : Packet) {s0 : State} {kc : Option Chan} (h0 : s0.Kept s kc) (hk0 : Covers kc c := by assumption) : s0.Kept (State.sendUnreachable s c k) kc := by
  unfold State.sendUnreachable
  try dsimp only
  repeat' (first
    | with_reducible assumption | with_reducible exact Covers.any _
    | with_reducible exact CoversAll.some (by assumption) | with_reducible exact CoversAll.none
    | with_reducible exact CoversAll.get (by assumption) | with_reducible exact CoversAll.any _ | intro _
    | with_reducible apply State.enqueue_kept | with_reducible apply State.route_kept
    | with_reducible apply State.toInbox_kept | with_reducible apply State.Kept.ite
    | with_reducible apply State.Kept.ite_fst | with_reducible apply State.Kept.ite_snd
    | with_reducible apply State.Kept.setChan | with_reducible apply State.Kept.onChan
    | with_reducible apply State.Kept.foldl | with_reducible apply State.Kept.foldl_fst | split
    | fail_if_no_progress with_reducible apply State.Kept.mk_same | with_reducible exact Firmware.Kept.refl _
    | with_reducible exact Channel.Kept.refl _ | with_reducible apply Channel.Kept.ite
    | with_reducible apply Channel.Kept.foldl | with_reducible apply Channel.Kept.foldl_fst
    | with_reducible apply Channel.Kept.ite_fst | fail_if_no_progress with_reducible apply Channel.Kept.mk_same)

theorem State.sendPacket_kept (s : State) (c : Chan) (k : Packet) (source : Option Nat) {s0 : State} {kc : Option Chan} (h0 : s0.Kept s kc) (hk0 : Covers kc c := by assumption) : s0.Kept (State.sendPacket s c k source) kc := by
  unfold State.sendPacket
  try dsimp only
  repeat' (first
    | with_reducible assumption | with_reducible exact Covers.any _
    | with_reducible exact CoversAll.some (by assumption) | with_reducible exact CoversAll.none
    | with_reducible exact CoversAll.get (by assumption) | with_reducible exact CoversAll.any _ | intro _
    | with_reducible apply State.bump_kept | with_reducible apply State.enqueue_kept
    | with_reducible apply State.giveBack_kept | with_reducible apply State.route_kept
    | with_reducible apply State.sendUnreachable_kept | with_reducible apply State.toInbox_kept
    | with_reducible apply State.Kept.ite | with_reducible apply State.Kept.ite_fst
    | with_reducible apply State.Kept.ite_snd | with_reducible apply State.Kept.setChan
    | with_reducible apply State.Kept.onChan | with_reducible apply State.Kept.foldl
    | with_reducible apply State.Kept.foldl_fst | split | fail_if_no_progress with_reducible apply State.Kept.mk_same
    | with_reducible exact Firmware.Kept.refl _ | with_reducible exact Channel.Kept.refl _
    | with_reducible apply Channel.Kept.ite | with_reducible apply Channel.Kept.foldl
    | with_reducible apply Channel.Kept.foldl_fst | with_reducible apply Channel.Kept.ite_fst
    | fail_if_no_progress with_reducible apply Channel.Kept.mk_same)

theorem State.sendNumbered_kept (s : State) (c : Chan) (t : TxSegment) (k : Packet) {s0 : State} {kc : Option Chan} (h0 : s0.Kept s kc) (hk0 : Covers kc c := by assumption) : s0.Kept (State.sendNumbered s c t k) kc := by
  unfold State.sendNumbered
  try dsimp only
  repeat' (first
    | with_reducible assumption | with_reducible exact Covers.any _
    | with_reducible exact CoversAll.some (by assumption) | with_reducible exact CoversAll.none
    | with_reducible exact CoversAll.get (by assumption) | with_reducible exact CoversAll.any _ | intro _
    | with_reducible apply State.onNet_kept | with_reducible apply State.sendPacket_kept
    | with_reducible apply State.Kept.ite | with_reducible apply State.Kept.ite_fst
    | with_reducible apply State.Kept.ite_snd | with_reducible apply State.Kept.setChan
    | with_reducible apply State.Kept.onChan | with_reducible apply State.Kept.foldl
    | with_reducible apply State.Kept.foldl_fst | split | fail_if_no_progress with_reducible apply State.Kept.mk_same
    | with_reducible exact Firmware.Kept.refl _ | with_reducible exact Channel.Kept.refl _
    | with_reducible apply Channel.Kept.ite | with_reducible apply Channel.Kept.foldl
    | with_reducible apply Channel.Kept.foldl_fst | with_reducible apply Channel.Kept.ite_fst
    | fail_if_no_progress with_reducible apply Channel.Kept.mk_same)

theorem State.pumpOne_kept (s : State) (c : Chan) (k : Packet) {s0 : State} {kc : Option Chan} (h0 : s0.Kept s kc) (hk0 : Covers kc c := by assumption) : s0.Kept (State.pumpOne s c k).1 kc := by
  unfold State.pumpOne
  try dsimp only
  repeat' (first
    | with_reducible assumption | with_reducible exact Covers.any _
    | with_reducible exact CoversAll.some (by assumption) | with_reducible exact CoversAll.none
    | with_reducible exact CoversAll.get (by assumption) | with_reducible exact CoversAll.any _ | intro _
    | with_reducible apply State.sendNumbered_kept | with_reducible apply State.Kept.ite
    | with_reducible apply State.Kept.ite_fst | with_reducible apply State.Kept.ite_snd
    | with_reducible apply State.Kept.setChan | with_reducible apply State.Kept.onChan
    | with_reducible apply State.Kept.foldl | with_reducible apply State.Kept.foldl_fst | split
    | fail_if_no_progress with_reducible apply State.Kept.mk_same | with_reducible exact Firmware.Kept.refl _
    | with_reducible exact Channel.Kept.refl _ | with_reducible apply Channel.Kept.ite
    | with_reducible apply Channel.Kept.foldl | with_reducible apply Channel.Kept.foldl_fst
    | with_reducible apply Channel.Kept.ite_fst | fail_if_no_progress with_reducible apply Channel.Kept.mk_same)

theorem State.pump_kept (s : State) (c : Chan) {s0 : State} {kc : Option Chan} (h0 : s0.Kept s kc) (hk0 : Covers kc c := by assumption) : s0.Kept (State.pump s c) kc := by
  unfold State.pump
  try dsimp only
  repeat' (first
    | with_reducible assumption | with_reducible exact Covers.any _
    | with_reducible exact CoversAll.some (by assumption) | with_reducible exact CoversAll.none
    | with_reducible exact CoversAll.get (by assumption) | with_reducible exact CoversAll.any _ | intro _
    | with_reducible apply State.onNet_kept | with_reducible apply State.pumpOne_kept
    | with_reducible apply State.Kept.ite | with_reducible apply State.Kept.ite_fst
    | with_reducible apply State.Kept.ite_snd | with_reducible apply State.Kept.setChan
    | with_reducible apply State.Kept.onChan | with_reducible apply State.Kept.foldl
    | with_reducible apply State.Kept.foldl_fst | split | fail_if_no_progress with_reducible apply State.Kept.mk_same
    | with_reducible exact Firmware.Kept.refl _ | with_reducible exact Channel.Kept.refl _
    | with_reducible apply Channel.Kept.ite | with_reducible apply Channel.Kept.foldl
    | with_reducible apply Channel.Kept.foldl_fst | with_reducible apply Channel.Kept.ite_fst
    | fail_if_no_progress with_reducible apply Channel.Kept.mk_same)

theorem State.post_kept (s : State) (c : Chan) (k : Packet) {s0 : State} {kc : Option Chan} (h0 : s0.Kept s kc) (hk0 : Covers kc c := by assumption) : s0.Kept (State.post s c k) kc := by
  unfold State.post
  try dsimp only
  repeat' (first
    | with_reducible assumption | with_reducible exact Covers.any _
    | with_reducible exact CoversAll.some (by assumption) | with_reducible exact CoversAll.none
    | with_reducible exact CoversAll.get (by assumption) | with_reducible exact CoversAll.any _ | intro _
    | with_reducible apply State.onNet_kept | with_reducible apply State.pump_kept
    | with_reducible apply State.toInbox_kept | with_reducible apply State.Kept.ite
    | with_reducible apply State.Kept.ite_fst | with_reducible apply State.Kept.ite_snd
    | with_reducible apply State.Kept.setChan | with_reducible apply State.Kept.onChan
    | with_reducible apply State.Kept.foldl | with_reducible apply State.Kept.foldl_fst | split
    | fail_if_no_progress with_reducible apply State.Kept.mk_same | with_reducible exact Firmware.Kept.refl _
    | with_reducible exact Channel.Kept.refl _ | with_reducible apply Channel.Kept.ite
    | with_reducible apply Channel.Kept.foldl | with_reducible apply Channel.Kept.foldl_fst
    | with_reducible apply Channel.Kept.ite_fst | fail_if_no_progress with_reducible apply Channel.Kept.mk_same)

theorem State.dropSegment_kept (s : State) (c : Chan) (key : SegKey) (seq : Nat) {s0 : State} {kc : Option Chan} (h0 : s0.Kept s kc) (hk0 : Covers kc c := by assumption) : s0.Kept (State.dropSegment s c key seq) kc := by
  unfold State.dropSegment
  try dsimp only
  repeat' (first
    | with_reducible assumption | with_reducible exact Covers.any _
    | with_reducible exact CoversAll.some (by assumption) | with_reducible exact CoversAll.none
    | with_reducible exact CoversAll.get (by assumption) | with_reducible exact CoversAll.any _ | intro _
    | with_reducible apply State.bump_kept | with_reducible apply State.onNet_kept
    | with_reducible apply State.pump_kept | with_reducible apply State.raise_kept | with_reducible apply State.Kept.ite
    | with_reducible apply State.Kept.ite_fst | with_reducible apply State.Kept.ite_snd
    | with_reducible apply State.Kept.setChan | with_reducible apply State.Kept.onChan
    | with_reducible apply State.Kept.foldl | with_reducible apply State.Kept.foldl_fst | split
    | fail_if_no_progress with_reducible apply State.Kept.mk_same | with_reducible exact Firmware.Kept.refl _
    | with_reducible exact Channel.Kept.refl _ | with_reducible apply Channel.Kept.ite
    | with_reducible apply Channel.Kept.foldl | with_reducible apply Channel.Kept.foldl_fst
    | with_reducible apply Channel.Kept.ite_fst | fail_if_no_progress with_reducible apply Channel.Kept.mk_same)

theorem Channel.setComm_kept (h : Channel) (g : Group) {s0 : Channel} (h0 : s0.Kept h) : s0.Kept (Channel.setComm h g) := by
  unfold Channel.setComm
  try dsimp only
  repeat' (first
    | with_reducible assumption | intro _ | with_reducible apply Channel.Kept.ite
    | with_reducible apply Channel.Kept.ite_fst | with_reducible apply Channel.Kept.ite_snd
    | with_reducible apply Channel.Kept.foldl | with_reducible apply Channel.Kept.foldl_fst
    | with_reducible apply Channel.Kept.foldl_mid | with_reducible apply Channel.Kept.foldl_fst_fst | split
    | fail_if_no_progress with_reducible apply Channel.Kept.mk_same)

theorem State.sendAck_kept (s : State) (c : Chan) (r : RxSegment) (epoch : Byte) {s0 : State} {kc : Option Chan} (h0 : s0.Kept s kc) (hk0 : Covers kc c := by assumption) : s0.Kept (State.sendAck s c r epoch) kc := by
  unfold State.sendAck
  try dsimp only
  repeat' (first
    | with_reducible assumption | with_reducible exact Covers.any _
    | with_reducible exact CoversAll.some (by assumption) | with_reducible exact CoversAll.none
    | with_reducible exact CoversAll.get (by assumption) | with_reducible exact CoversAll.any _ | intro _
    | with_reducible apply State.sendPacket_kept | with_reducible apply State.Kept.ite
    | with_reducible apply State.Kept.ite_fst | with_reducible apply State.Kept.ite_snd
    | with_reducible apply State.Kept.setChan | with_reducible apply State.Kept.onChan
    | with_reducible apply State.Kept.foldl | with_reducible apply State.Kept.foldl_fst | split
    | fail_if_no_progress with_reducible apply State.Kept.mk_same | with_reducible exact Firmware.Kept.refl _
    | with_reducible exact Channel.Kept.refl _ | with_reducible apply Channel.Kept.ite
    | with_reducible apply Channel.Kept.foldl | with_reducible apply Channel.Kept.foldl_fst
    | with_reducible apply Channel.Kept.ite_fst | fail_if_no_progress with_reducible apply Channel.Kept.mk_same)

theorem State.setRx_kept (s : State) (c : Chan) (r : RxSegment) {s0 : State} {kc : Option Chan} (h0 : s0.Kept s kc) (hk0 : Covers kc c := by assumption) : s0.Kept (State.setRx s c r) kc := by
  unfold State.setRx
  try dsimp only
  repeat' (first
    | with_reducible assumption | with_reducible exact Covers.any _
    | with_reducible exact CoversAll.some (by assumption) | with_reducible exact CoversAll.none
    | with_reducible exact CoversAll.get (by assumption) | with_reducible exact CoversAll.any _ | intro _
    | with_reducible apply State.onNet_kept | with_reducible apply State.Kept.ite
    | with_reducible apply State.Kept.ite_fst | with_reducible apply State.Kept.ite_snd
    | with_reducible apply State.Kept.setChan | with_reducible apply State.Kept.onChan
    | with_reducible apply State.Kept.foldl | with_reducible apply State.Kept.foldl_fst | split
    | fail_if_no_progress with_reducible apply State.Kept.mk_same | with_reducible exact Firmware.Kept.refl _
    | with_reducible exact Channel.Kept.refl _ | with_reducible apply Channel.Kept.ite
    | with_reducible apply Channel.Kept.foldl | with_reducible apply Channel.Kept.foldl_fst
    | with_reducible apply Channel.Kept.ite_fst | fail_if_no_progress with_reducible apply Channel.Kept.mk_same)

theorem State.intoSegment_kept (s : State) (c : Chan) (k : Packet) {s0 : State} {kc : Option Chan} (h0 : s0.Kept s kc) (hk0 : Covers kc c := by assumption) : s0.Kept (State.intoSegment s c k).1 kc := by
  unfold State.intoSegment
  try dsimp only
  repeat' (first
    | with_reducible assumption | with_reducible exact Covers.any _
    | with_reducible exact CoversAll.some (by assumption) | with_reducible exact CoversAll.none
    | with_reducible exact CoversAll.get (by assumption) | with_reducible exact CoversAll.any _ | intro _
    | with_reducible apply State.bump_kept | with_reducible apply State.sendAck_kept
    | with_reducible apply State.setRx_kept | with_reducible apply State.Kept.ite
    | with_reducible apply State.Kept.ite_fst | with_reducible apply State.Kept.ite_snd
    | with_reducible apply State.Kept.setChan | with_reducible apply State.Kept.onChan
    | with_reducible apply State.Kept.foldl | with_reducible apply State.Kept.foldl_fst | split
    | fail_if_no_progress with_reducible apply State.Kept.mk_same | with_reducible exact Firmware.Kept.refl _
    | with_reducible exact Channel.Kept.refl _ | with_reducible apply Channel.Kept.ite
    | with_reducible apply Channel.Kept.foldl | with_reducible apply Channel.Kept.foldl_fst
    | with_reducible apply Channel.Kept.ite_fst | fail_if_no_progress with_reducible apply Channel.Kept.mk_same)

theorem State.takeInbox_kept (s : State) (c : Chan) (k : Packet) {s0 : State} {kc : Option Chan} (h0 : s0.Kept s kc) (hk0 : Covers kc c := by assumption) : s0.Kept (State.takeInbox s c k) kc := by
  unfold State.takeInbox
  try dsimp only
  repeat' (first
    | with_reducible assumption | with_reducible exact Covers.any _
    | with_reducible exact CoversAll.some (by assumption) | with_reducible exact CoversAll.none
    | with_reducible exact CoversAll.get (by assumption) | with_reducible exact CoversAll.any _ | intro _
    | with_reducible apply State.giveBack_kept | with_reducible apply State.onNet_kept
    | with_reducible apply State.Kept.ite | with_reducible apply State.Kept.ite_fst
    | with_reducible apply State.Kept.ite_snd | with_reducible apply State.Kept.setChan
    | with_reducible apply State.Kept.onChan | with_reducible apply State.Kept.foldl
    | with_reducible apply State.Kept.foldl_fst | split | fail_if_no_progress with_reducible apply State.Kept.mk_same
    | with_reducible exact Firmware.Kept.refl _ | with_reducible exact Channel.Kept.refl _
    | with_reducible apply Channel.Kept.ite | with_reducible apply Channel.Kept.foldl
    | with_reducible apply Channel.Kept.foldl_fst | with_reducible apply Channel.Kept.ite_fst
    | fail_if_no_progress with_reducible apply Channel.Kept.mk_same)

theorem State.checkPacket_kept (s : State) (c : Chan) (k : Packet) (exempt : Bool) {s0 : State} {kc : Option Chan} (h0 : s0.Kept s kc) (hk0 : Covers kc c := by assumption) : s0.Kept (State.checkPacket s c k exempt).1 kc := by
  unfold State.checkPacket
  try dsimp only
  repeat' (first
    | with_reducible assumption | with_reducible exact Covers.any _
    | with_reducible exact CoversAll.some (by assumption) | with_reducible exact CoversAll.none
    | with_reducible exact CoversAll.get (by assumption) | with_reducible exact CoversAll.any _ | intro _
    | with_reducible apply State.bump_kept | with_reducible apply State.Kept.ite
    | with_reducible apply State.Kept.ite_fst | with_reducible apply State.Kept.ite_snd
    | with_reducible apply State.Kept.setChan | with_reducible apply State.Kept.onChan
    | with_reducible apply State.Kept.foldl | with_reducible apply State.Kept.foldl_fst | split
    | fail_if_no_progress with_reducible apply State.Kept.mk_same | with_reducible exact Firmware.Kept.refl _
    | with_reducible exact Channel.Kept.refl _ | with_reducible apply Channel.Kept.ite
    | with_reducible apply Channel.Kept.foldl | with_reducible apply Channel.Kept.foldl_fst
    | with_reducible apply Channel.Kept.ite_fst | fail_if_no_progress with_reducible apply Channel.Kept.mk_same)

theorem State.receive_kept (s : State) (c : Chan) (k : Packet) (exempt : Bool) {s0 : State} {kc : Option Chan} (h0 : s0.Kept s kc) (hk0 : Covers kc c := by assumption) : s0.Kept (State.receive s c k exempt).1 kc := by
  unfold State.receive
  try dsimp only
  repeat' (first
    | with_reducible assumption | with_reducible exact Covers.any _
    | with_reducible exact CoversAll.some (by assumption) | with_reducible exact CoversAll.none
    | with_reducible exact CoversAll.get (by assumption) | with_reducible exact CoversAll.any _ | intro _
    | with_reducible apply State.checkPacket_kept | with_reducible apply State.intoSegment_kept
    | with_reducible apply State.takeInbox_kept | with_reducible apply State.Kept.ite
    | with_reducible apply State.Kept.ite_fst | with_reducible apply State.Kept.ite_snd
    | with_reducible apply State.Kept.setChan | with_reducible apply State.Kept.onChan
    | with_reducible apply State.Kept.foldl | with_reducible apply State.Kept.foldl_fst | split
    | fail_if_no_progress with_reducible apply State.Kept.mk_same | with_reducible exact Firmware.Kept.refl _
    | with_reducible exact Channel.Kept.refl _ | with_reducible apply Channel.Kept.ite
    | with_reducible apply Channel.Kept.foldl | with_reducible apply Channel.Kept.foldl_fst
    | with_reducible apply Channel.Kept.ite_fst | fail_if_no_progress with_reducible apply Channel.Kept.mk_same)

end Sys2Proof.Machine
end

