-- ==== Sys2Proof/Laws/KeptMessages.lean ====
section
/-!
SUPPORT. The operations of Machine/Messages.lean keep what Laws/Kept.lean says.
-/

set_option linter.all false

namespace Sys2Proof.Machine

theorem State.onComm_kept (s : State) (c : Chan) (id : Nat) (f : Group → Group) {s0 : State} {kc : Option Chan} (h0 : s0.Kept s kc) (hk0 : Covers kc c := by assumption) : s0.Kept (State.onComm s c id f) kc := by
  unfold State.onComm
  try dsimp only
  repeat' (first
    | with_reducible assumption | with_reducible exact Covers.any _
    | with_reducible exact CoversAll.some (by assumption) | with_reducible exact CoversAll.none
    | with_reducible exact CoversAll.get (by assumption) | with_reducible exact CoversAll.any _ | intro _
    | with_reducible apply State.Kept.ite | with_reducible apply State.Kept.ite_fst
    | with_reducible apply State.Kept.ite_snd | with_reducible apply State.Kept.setChan
    | with_reducible apply State.Kept.onChan | with_reducible apply State.Kept.foldl
    | with_reducible apply State.Kept.foldl_fst | split | fail_if_no_progress with_reducible apply State.Kept.mk_same
    | with_reducible exact Firmware.Kept.refl _ | with_reducible exact Channel.Kept.refl _
    | with_reducible apply Channel.Kept.ite | with_reducible apply Channel.Kept.foldl
    | with_reducible apply Channel.Kept.foldl_fst | with_reducible apply Channel.Kept.ite_fst
    | fail_if_no_progress with_reducible apply Channel.Kept.mk_same)

theorem State.message_kept (s : State) (c : Chan) (dest gid : Nat) (epoch : Word) (msg step : Nat) (body : List Byte) {s0 : State} {kc : Option Chan} (h0 : s0.Kept s kc) (hk0 : Covers kc c := by assumption) : s0.Kept (State.message s c dest gid epoch msg step body) kc := by
  unfold State.message
  try dsimp only
  repeat' (first
    | with_reducible assumption | with_reducible exact Covers.any _
    | with_reducible exact CoversAll.some (by assumption) | with_reducible exact CoversAll.none
    | with_reducible exact CoversAll.get (by assumption) | with_reducible exact CoversAll.any _ | intro _
    | with_reducible apply State.onNet_kept | with_reducible apply State.post_kept | with_reducible apply State.Kept.ite
    | with_reducible apply State.Kept.ite_fst | with_reducible apply State.Kept.ite_snd
    | with_reducible apply State.Kept.setChan | with_reducible apply State.Kept.onChan
    | with_reducible apply State.Kept.foldl | with_reducible apply State.Kept.foldl_fst | split
    | fail_if_no_progress with_reducible apply State.Kept.mk_same | with_reducible exact Firmware.Kept.refl _
    | with_reducible exact Channel.Kept.refl _ | with_reducible apply Channel.Kept.ite
    | with_reducible apply Channel.Kept.foldl | with_reducible apply Channel.Kept.foldl_fst
    | with_reducible apply Channel.Kept.ite_fst | fail_if_no_progress with_reducible apply Channel.Kept.mk_same)

theorem State.tell_kept (s : State) (c : Chan) (g : Group) (rank msg step : Nat) (body : List Byte) {s0 : State} {kc : Option Chan} (h0 : s0.Kept s kc) (hk0 : Covers kc c := by assumption) : s0.Kept (State.tell s c g rank msg step body) kc := by
  unfold State.tell
  try dsimp only
  repeat' (first
    | with_reducible assumption | with_reducible exact Covers.any _
    | with_reducible exact CoversAll.some (by assumption) | with_reducible exact CoversAll.none
    | with_reducible exact CoversAll.get (by assumption) | with_reducible exact CoversAll.any _ | intro _
    | with_reducible apply State.message_kept | with_reducible apply State.Kept.ite
    | with_reducible apply State.Kept.ite_fst | with_reducible apply State.Kept.ite_snd
    | with_reducible apply State.Kept.setChan | with_reducible apply State.Kept.onChan
    | with_reducible apply State.Kept.foldl | with_reducible apply State.Kept.foldl_fst | split
    | fail_if_no_progress with_reducible apply State.Kept.mk_same | with_reducible exact Firmware.Kept.refl _
    | with_reducible exact Channel.Kept.refl _ | with_reducible apply Channel.Kept.ite
    | with_reducible apply Channel.Kept.foldl | with_reducible apply Channel.Kept.foldl_fst
    | with_reducible apply Channel.Kept.ite_fst | fail_if_no_progress with_reducible apply Channel.Kept.mk_same)

theorem State.tellAll_kept (s : State) (c : Chan) (g : Group) (ranks : List Nat) (msg step : Nat) (body : List Byte) {s0 : State} {kc : Option Chan} (h0 : s0.Kept s kc) (hk0 : Covers kc c := by assumption) : s0.Kept (State.tellAll s c g ranks msg step body) kc := by
  unfold State.tellAll
  try dsimp only
  repeat' (first
    | with_reducible assumption | with_reducible exact Covers.any _
    | with_reducible exact CoversAll.some (by assumption) | with_reducible exact CoversAll.none
    | with_reducible exact CoversAll.get (by assumption) | with_reducible exact CoversAll.any _ | intro _
    | with_reducible apply State.tell_kept | with_reducible apply State.Kept.ite
    | with_reducible apply State.Kept.ite_fst | with_reducible apply State.Kept.ite_snd
    | with_reducible apply State.Kept.setChan | with_reducible apply State.Kept.onChan
    | with_reducible apply State.Kept.foldl | with_reducible apply State.Kept.foldl_fst | split
    | fail_if_no_progress with_reducible apply State.Kept.mk_same | with_reducible exact Firmware.Kept.refl _
    | with_reducible exact Channel.Kept.refl _ | with_reducible apply Channel.Kept.ite
    | with_reducible apply Channel.Kept.foldl | with_reducible apply Channel.Kept.foldl_fst
    | with_reducible apply Channel.Kept.ite_fst | fail_if_no_progress with_reducible apply Channel.Kept.mk_same)

theorem State.broadcast_kept (s : State) (c : Chan) (g : Group) (msg step : Nat) (body : List Byte) {s0 : State} {kc : Option Chan} (h0 : s0.Kept s kc) (hk0 : Covers kc c := by assumption) : s0.Kept (State.broadcast s c g msg step body) kc := by
  unfold State.broadcast
  try dsimp only
  repeat' (first
    | with_reducible assumption | with_reducible exact Covers.any _
    | with_reducible exact CoversAll.some (by assumption) | with_reducible exact CoversAll.none
    | with_reducible exact CoversAll.get (by assumption) | with_reducible exact CoversAll.any _ | intro _
    | with_reducible apply State.tellAll_kept | with_reducible apply State.Kept.ite
    | with_reducible apply State.Kept.ite_fst | with_reducible apply State.Kept.ite_snd
    | with_reducible apply State.Kept.setChan | with_reducible apply State.Kept.onChan
    | with_reducible apply State.Kept.foldl | with_reducible apply State.Kept.foldl_fst | split
    | fail_if_no_progress with_reducible apply State.Kept.mk_same | with_reducible exact Firmware.Kept.refl _
    | with_reducible exact Channel.Kept.refl _ | with_reducible apply Channel.Kept.ite
    | with_reducible apply Channel.Kept.foldl | with_reducible apply Channel.Kept.foldl_fst
    | with_reducible apply Channel.Kept.ite_fst | fail_if_no_progress with_reducible apply Channel.Kept.mk_same)

theorem State.broadcastOthers_kept (s : State) (c : Chan) (g : Group) (dead : Option Nat) (msg step : Nat) (body : List Byte) {s0 : State} {kc : Option Chan} (h0 : s0.Kept s kc) (hk0 : Covers kc c := by assumption) : s0.Kept (State.broadcastOthers s c g dead msg step body) kc := by
  unfold State.broadcastOthers
  try dsimp only
  repeat' (first
    | with_reducible assumption | with_reducible exact Covers.any _
    | with_reducible exact CoversAll.some (by assumption) | with_reducible exact CoversAll.none
    | with_reducible exact CoversAll.get (by assumption) | with_reducible exact CoversAll.any _ | intro _
    | with_reducible apply State.tellAll_kept | with_reducible apply State.Kept.ite
    | with_reducible apply State.Kept.ite_fst | with_reducible apply State.Kept.ite_snd
    | with_reducible apply State.Kept.setChan | with_reducible apply State.Kept.onChan
    | with_reducible apply State.Kept.foldl | with_reducible apply State.Kept.foldl_fst | split
    | fail_if_no_progress with_reducible apply State.Kept.mk_same | with_reducible exact Firmware.Kept.refl _
    | with_reducible exact Channel.Kept.refl _ | with_reducible apply Channel.Kept.ite
    | with_reducible apply Channel.Kept.foldl | with_reducible apply Channel.Kept.foldl_fst
    | with_reducible apply Channel.Kept.ite_fst | fail_if_no_progress with_reducible apply Channel.Kept.mk_same)

theorem State.relay_kept (s : State) (c : Chan) (g : Group) (k : Packet) {s0 : State} {kc : Option Chan} (h0 : s0.Kept s kc) (hk0 : Covers kc c := by assumption) : s0.Kept (State.relay s c g k) kc := by
  unfold State.relay
  try dsimp only
  repeat' (first
    | with_reducible assumption | with_reducible exact Covers.any _
    | with_reducible exact CoversAll.some (by assumption) | with_reducible exact CoversAll.none
    | with_reducible exact CoversAll.get (by assumption) | with_reducible exact CoversAll.any _ | intro _
    | with_reducible apply State.tellAll_kept | with_reducible apply State.Kept.ite
    | with_reducible apply State.Kept.ite_fst | with_reducible apply State.Kept.ite_snd
    | with_reducible apply State.Kept.setChan | with_reducible apply State.Kept.onChan
    | with_reducible apply State.Kept.foldl | with_reducible apply State.Kept.foldl_fst | split
    | fail_if_no_progress with_reducible apply State.Kept.mk_same | with_reducible exact Firmware.Kept.refl _
    | with_reducible exact Channel.Kept.refl _ | with_reducible apply Channel.Kept.ite
    | with_reducible apply Channel.Kept.foldl | with_reducible apply Channel.Kept.foldl_fst
    | with_reducible apply Channel.Kept.ite_fst | fail_if_no_progress with_reducible apply Channel.Kept.mk_same)

theorem State.gather_kept (s : State) (c : Chan) (gid : Nat) (a : Arrival) {s0 : State} {kc : Option Chan} (h0 : s0.Kept s kc) (hk0 : Covers kc c := by assumption) : s0.Kept (State.gather s c gid a).1 kc := by
  unfold State.gather
  try dsimp only
  repeat' (first
    | with_reducible assumption | with_reducible exact Covers.any _
    | with_reducible exact CoversAll.some (by assumption) | with_reducible exact CoversAll.none
    | with_reducible exact CoversAll.get (by assumption) | with_reducible exact CoversAll.any _ | intro _
    | with_reducible apply State.onComm_kept | with_reducible apply State.Kept.ite
    | with_reducible apply State.Kept.ite_fst | with_reducible apply State.Kept.ite_snd
    | with_reducible apply State.Kept.setChan | with_reducible apply State.Kept.onChan
    | with_reducible apply State.Kept.foldl | with_reducible apply State.Kept.foldl_fst | split
    | fail_if_no_progress with_reducible apply State.Kept.mk_same | with_reducible exact Firmware.Kept.refl _
    | with_reducible exact Channel.Kept.refl _ | with_reducible apply Channel.Kept.ite
    | with_reducible apply Channel.Kept.foldl | with_reducible apply Channel.Kept.foldl_fst
    | with_reducible apply Channel.Kept.ite_fst | fail_if_no_progress with_reducible apply Channel.Kept.mk_same)

theorem State.climb_kept (s : State) (c : Chan) (g : Group) (a : Arrival) (join : List Arrival → List Byte) (top : State → List Arrival → State) {s0 : State} {kc : Option Chan} (h0 : s0.Kept s kc) (h_top : ∀ x0 x1, s0.Kept x0 kc → s0.Kept (top x0 x1) kc) (hk0 : Covers kc c := by assumption) : s0.Kept (State.climb s c g a join top) kc := by
  unfold State.climb
  try dsimp only
  repeat' (first
    | with_reducible assumption | with_reducible exact Covers.any _
    | with_reducible exact CoversAll.some (by assumption) | with_reducible exact CoversAll.none
    | with_reducible exact CoversAll.get (by assumption) | with_reducible exact CoversAll.any _ | intro _
    | with_reducible apply State.gather_kept | with_reducible apply State.tell_kept | with_reducible apply h_top
    | with_reducible apply State.Kept.ite | with_reducible apply State.Kept.ite_fst
    | with_reducible apply State.Kept.ite_snd | with_reducible apply State.Kept.setChan
    | with_reducible apply State.Kept.onChan | with_reducible apply State.Kept.foldl
    | with_reducible apply State.Kept.foldl_fst | split | fail_if_no_progress with_reducible apply State.Kept.mk_same
    | with_reducible exact Firmware.Kept.refl _ | with_reducible exact Channel.Kept.refl _
    | with_reducible apply Channel.Kept.ite | with_reducible apply Channel.Kept.foldl
    | with_reducible apply Channel.Kept.foldl_fst | with_reducible apply Channel.Kept.ite_fst
    | fail_if_no_progress with_reducible apply Channel.Kept.mk_same)

theorem State.sendUp_kept (s : State) (c : Chan) (g : Group) (msg step : Nat) (body : List Byte) {s0 : State} {kc : Option Chan} (h0 : s0.Kept s kc) (hk0 : Covers kc c := by assumption) : s0.Kept (State.sendUp s c g msg step body) kc := by
  unfold State.sendUp
  try dsimp only
  repeat' (first
    | with_reducible assumption | with_reducible exact Covers.any _
    | with_reducible exact CoversAll.some (by assumption) | with_reducible exact CoversAll.none
    | with_reducible exact CoversAll.get (by assumption) | with_reducible exact CoversAll.any _ | intro _
    | with_reducible apply State.tell_kept | with_reducible apply State.Kept.ite
    | with_reducible apply State.Kept.ite_fst | with_reducible apply State.Kept.ite_snd
    | with_reducible apply State.Kept.setChan | with_reducible apply State.Kept.onChan
    | with_reducible apply State.Kept.foldl | with_reducible apply State.Kept.foldl_fst | split
    | fail_if_no_progress with_reducible apply State.Kept.mk_same | with_reducible exact Firmware.Kept.refl _
    | with_reducible exact Channel.Kept.refl _ | with_reducible apply Channel.Kept.ite
    | with_reducible apply Channel.Kept.foldl | with_reducible apply Channel.Kept.foldl_fst
    | with_reducible apply Channel.Kept.ite_fst | fail_if_no_progress with_reducible apply Channel.Kept.mk_same)

theorem State.onMessage_kept (s : State) (c : Chan) (k : Packet) (msg : Nat) (exempt : Bool) (f : State → Group → State) {s0 : State} {kc : Option Chan} (h0 : s0.Kept s kc) (h_f : ∀ x0 x1, s0.Kept x0 kc → s0.Kept (f x0 x1) kc) (hk0 : Covers kc c := by assumption) : s0.Kept (State.onMessage s c k msg exempt f) kc := by
  unfold State.onMessage
  try dsimp only
  repeat' (first
    | with_reducible assumption | with_reducible exact Covers.any _
    | with_reducible exact CoversAll.some (by assumption) | with_reducible exact CoversAll.none
    | with_reducible exact CoversAll.get (by assumption) | with_reducible exact CoversAll.any _ | intro _
    | with_reducible apply State.receive_kept | with_reducible apply h_f | with_reducible apply State.Kept.ite
    | with_reducible apply State.Kept.ite_fst | with_reducible apply State.Kept.ite_snd
    | with_reducible apply State.Kept.setChan | with_reducible apply State.Kept.onChan
    | with_reducible apply State.Kept.foldl | with_reducible apply State.Kept.foldl_fst | split
    | fail_if_no_progress with_reducible apply State.Kept.mk_same | with_reducible exact Firmware.Kept.refl _
    | with_reducible exact Channel.Kept.refl _ | with_reducible apply Channel.Kept.ite
    | with_reducible apply Channel.Kept.foldl | with_reducible apply Channel.Kept.foldl_fst
    | with_reducible apply Channel.Kept.ite_fst | fail_if_no_progress with_reducible apply Channel.Kept.mk_same)

theorem State.topAbort_kept (s : State) (c : Chan) (g : Group) (step reason address : Nat) {s0 : State} {kc : Option Chan} (h0 : s0.Kept s kc) (hk0 : Covers kc c := by assumption) : s0.Kept (State.topAbort s c g step reason address) kc := by
  unfold State.topAbort
  try dsimp only
  repeat' (first
    | with_reducible assumption | with_reducible exact Covers.any _
    | with_reducible exact CoversAll.some (by assumption) | with_reducible exact CoversAll.none
    | with_reducible exact CoversAll.get (by assumption) | with_reducible exact CoversAll.any _ | intro _
    | with_reducible apply State.broadcast_kept | with_reducible apply State.Kept.ite
    | with_reducible apply State.Kept.ite_fst | with_reducible apply State.Kept.ite_snd
    | with_reducible apply State.Kept.setChan | with_reducible apply State.Kept.onChan
    | with_reducible apply State.Kept.foldl | with_reducible apply State.Kept.foldl_fst | split
    | fail_if_no_progress with_reducible apply State.Kept.mk_same | with_reducible exact Firmware.Kept.refl _
    | with_reducible exact Channel.Kept.refl _ | with_reducible apply Channel.Kept.ite
    | with_reducible apply Channel.Kept.foldl | with_reducible apply Channel.Kept.foldl_fst
    | with_reducible apply Channel.Kept.ite_fst | fail_if_no_progress with_reducible apply Channel.Kept.mk_same)

theorem State.sendAbort_kept (s : State) (c : Chan) (step reason : Nat) {s0 : State} {kc : Option Chan} (h0 : s0.Kept s kc) (hk0 : Covers kc c := by assumption) : s0.Kept (State.sendAbort s c step reason) kc := by
  unfold State.sendAbort
  try dsimp only
  repeat' (first
    | with_reducible assumption | with_reducible exact Covers.any _
    | with_reducible exact CoversAll.some (by assumption) | with_reducible exact CoversAll.none
    | with_reducible exact CoversAll.get (by assumption) | with_reducible exact CoversAll.any _ | intro _
    | with_reducible apply State.tell_kept | with_reducible apply State.topAbort_kept
    | with_reducible apply State.Kept.ite | with_reducible apply State.Kept.ite_fst
    | with_reducible apply State.Kept.ite_snd | with_reducible apply State.Kept.setChan
    | with_reducible apply State.Kept.onChan | with_reducible apply State.Kept.foldl
    | with_reducible apply State.Kept.foldl_fst | split | fail_if_no_progress with_reducible apply State.Kept.mk_same
    | with_reducible exact Firmware.Kept.refl _ | with_reducible exact Channel.Kept.refl _
    | with_reducible apply Channel.Kept.ite | with_reducible apply Channel.Kept.foldl
    | with_reducible apply Channel.Kept.foldl_fst | with_reducible apply Channel.Kept.ite_fst
    | fail_if_no_progress with_reducible apply Channel.Kept.mk_same)

end Sys2Proof.Machine
end

