-- ==== Sys2Proof/Laws/KeptFlags.lean ====
section
/-!
SUPPORT. The operations of Machine/Flags.lean keep what Laws/Kept.lean says.
-/

set_option linter.all false

namespace Sys2Proof.Machine

theorem State.correctWord_kept (s : State) (c : Chan) (w : Nat) (f : StoreFault) {s0 : State} {kc : Option Chan} (h0 : s0.Kept s kc) (hk0 : Covers kc c := by assumption) : s0.Kept (State.correctWord s c w f) kc := by
  unfold State.correctWord
  try dsimp only
  repeat' (first
    | with_reducible assumption | with_reducible exact Covers.any _
    | with_reducible exact CoversAll.some (by assumption) | with_reducible exact CoversAll.none
    | with_reducible exact CoversAll.get (by assumption) | with_reducible exact CoversAll.any _ | intro _
    | with_reducible apply State.bump_kept | with_reducible apply State.Kept.ite
    | with_reducible apply State.Kept.ite_fst | with_reducible apply State.Kept.ite_snd
    | with_reducible apply State.Kept.setChan | with_reducible apply State.Kept.onChan
    | with_reducible apply State.Kept.foldl | with_reducible apply State.Kept.foldl_fst | split
    | fail_if_no_progress with_reducible apply State.Kept.mk_same | with_reducible exact Firmware.Kept.refl _
    | with_reducible exact Channel.Kept.refl _ | with_reducible apply Channel.Kept.ite
    | with_reducible apply Channel.Kept.foldl | with_reducible apply Channel.Kept.foldl_fst
    | with_reducible apply Channel.Kept.ite_fst | fail_if_no_progress with_reducible apply Channel.Kept.mk_same)

theorem State.storeReads_kept (s : State) (c : Chan) (touched : Nat → Bool) {s0 : State} {kc : Option Chan} (h0 : s0.Kept s kc) (hk0 : Covers kc c := by assumption) : s0.Kept (State.storeReads s c touched) kc := by
  unfold State.storeReads
  try dsimp only
  repeat' (first
    | with_reducible assumption | with_reducible exact Covers.any _
    | with_reducible exact CoversAll.some (by assumption) | with_reducible exact CoversAll.none
    | with_reducible exact CoversAll.get (by assumption) | with_reducible exact CoversAll.any _ | intro _
    | with_reducible apply State.bump_kept | with_reducible apply State.correctWord_kept
    | with_reducible apply State.raise_kept | with_reducible apply State.Kept.ite
    | with_reducible apply State.Kept.ite_fst | with_reducible apply State.Kept.ite_snd
    | with_reducible apply State.Kept.setChan | with_reducible apply State.Kept.onChan
    | with_reducible apply State.Kept.foldl | with_reducible apply State.Kept.foldl_fst | split
    | fail_if_no_progress with_reducible apply State.Kept.mk_same | with_reducible exact Firmware.Kept.refl _
    | with_reducible exact Channel.Kept.refl _ | with_reducible apply Channel.Kept.ite
    | with_reducible apply Channel.Kept.foldl | with_reducible apply Channel.Kept.foldl_fst
    | with_reducible apply Channel.Kept.ite_fst | fail_if_no_progress with_reducible apply Channel.Kept.mk_same)

theorem State.recordReads_kept (s : State) (c : Chan) (addr : Nat) {s0 : State} {kc : Option Chan} (h0 : s0.Kept s kc) (hk0 : Covers kc c := by assumption) : s0.Kept (State.recordReads s c addr) kc := by
  unfold State.recordReads
  try dsimp only
  repeat' (first
    | with_reducible assumption | with_reducible exact Covers.any _
    | with_reducible exact CoversAll.some (by assumption) | with_reducible exact CoversAll.none
    | with_reducible exact CoversAll.get (by assumption) | with_reducible exact CoversAll.any _ | intro _
    | with_reducible apply State.storeReads_kept | with_reducible apply State.Kept.ite
    | with_reducible apply State.Kept.ite_fst | with_reducible apply State.Kept.ite_snd
    | with_reducible apply State.Kept.setChan | with_reducible apply State.Kept.onChan
    | with_reducible apply State.Kept.foldl | with_reducible apply State.Kept.foldl_fst | split
    | fail_if_no_progress with_reducible apply State.Kept.mk_same | with_reducible exact Firmware.Kept.refl _
    | with_reducible exact Channel.Kept.refl _ | with_reducible apply Channel.Kept.ite
    | with_reducible apply Channel.Kept.foldl | with_reducible apply Channel.Kept.foldl_fst
    | with_reducible apply Channel.Kept.ite_fst | fail_if_no_progress with_reducible apply Channel.Kept.mk_same)

theorem Channel.recordAdd_kept (x : Channel) (addr base k n : Nat) {s0 : Channel} (h0 : s0.Kept x) : s0.Kept (Channel.recordAdd x addr base k n).2 := by
  unfold Channel.recordAdd
  try dsimp only
  repeat' (first
    | with_reducible assumption | intro _ | with_reducible apply Channel.writeNat_kept
    | with_reducible apply Channel.Kept.ite | with_reducible apply Channel.Kept.ite_fst
    | with_reducible apply Channel.Kept.ite_snd | with_reducible apply Channel.Kept.foldl
    | with_reducible apply Channel.Kept.foldl_fst | with_reducible apply Channel.Kept.foldl_mid
    | with_reducible apply Channel.Kept.foldl_fst_fst | split
    | fail_if_no_progress with_reducible apply Channel.Kept.mk_same)

theorem State.recordBump_kept (s : State) (c : Chan) (addr base k n : Nat) {s0 : State} {kc : Option Chan} (h0 : s0.Kept s kc) (hk0 : Covers kc c := by assumption) : s0.Kept (State.recordBump s c addr base k n) kc := by
  unfold State.recordBump
  try dsimp only
  repeat' (first
    | with_reducible assumption | with_reducible exact Covers.any _
    | with_reducible exact CoversAll.some (by assumption) | with_reducible exact CoversAll.none
    | with_reducible exact CoversAll.get (by assumption) | with_reducible exact CoversAll.any _ | intro _
    | with_reducible apply Channel.recordAdd_kept | with_reducible apply State.raise_kept
    | with_reducible apply State.Kept.ite | with_reducible apply State.Kept.ite_fst
    | with_reducible apply State.Kept.ite_snd | with_reducible apply State.Kept.setChan
    | with_reducible apply State.Kept.onChan | with_reducible apply State.Kept.foldl
    | with_reducible apply State.Kept.foldl_fst | split | fail_if_no_progress with_reducible apply State.Kept.mk_same
    | with_reducible exact Firmware.Kept.refl _ | with_reducible exact Channel.Kept.refl _
    | with_reducible apply Channel.Kept.ite | with_reducible apply Channel.Kept.foldl
    | with_reducible apply Channel.Kept.foldl_fst | with_reducible apply Channel.Kept.ite_fst
    | fail_if_no_progress with_reducible apply Channel.Kept.mk_same)

theorem Channel.sticky_kept (x : Channel) (addr bits : Nat) {s0 : Channel} (h0 : s0.Kept x) : s0.Kept (Channel.sticky x addr bits) := by
  unfold Channel.sticky
  try dsimp only
  repeat' (first
    | with_reducible assumption | intro _ | with_reducible apply Channel.writeNat_kept
    | with_reducible apply Channel.Kept.ite | with_reducible apply Channel.Kept.ite_fst
    | with_reducible apply Channel.Kept.ite_snd | with_reducible apply Channel.Kept.foldl
    | with_reducible apply Channel.Kept.foldl_fst | with_reducible apply Channel.Kept.foldl_mid
    | with_reducible apply Channel.Kept.foldl_fst_fst | split
    | fail_if_no_progress with_reducible apply Channel.Kept.mk_same)

theorem Channel.firstInvalid_kept (x : Channel) (t : TensorDesc) (i : Invalid) (time : DWord) {s0 : Channel} (h0 : s0.Kept x) : s0.Kept (Channel.firstInvalid x t i time) := by
  unfold Channel.firstInvalid
  try dsimp only
  repeat' (first
    | with_reducible assumption | intro _ | with_reducible apply Channel.writeNat_kept
    | with_reducible apply Channel.Kept.ite | with_reducible apply Channel.Kept.ite_fst
    | with_reducible apply Channel.Kept.ite_snd | with_reducible apply Channel.Kept.foldl
    | with_reducible apply Channel.Kept.foldl_fst | with_reducible apply Channel.Kept.foldl_mid
    | with_reducible apply Channel.Kept.foldl_fst_fst | split
    | fail_if_no_progress with_reducible apply Channel.Kept.mk_same)

theorem State.mergeStats_kept (s : State) (c : Chan) (t : TensorDesc) (w : Stats) {s0 : State} {kc : Option Chan} (h0 : s0.Kept s kc) (hk0 : Covers kc c := by assumption) : s0.Kept (State.mergeStats s c t w) kc := by
  unfold State.mergeStats
  try dsimp only
  repeat' (first
    | with_reducible assumption | with_reducible exact Covers.any _
    | with_reducible exact CoversAll.some (by assumption) | with_reducible exact CoversAll.none
    | with_reducible exact CoversAll.get (by assumption) | with_reducible exact CoversAll.any _ | intro _
    | with_reducible apply Channel.firstInvalid_kept | with_reducible apply Channel.sticky_kept
    | with_reducible apply Channel.writeNat_kept | with_reducible apply State.recordBump_kept
    | with_reducible apply State.recordReads_kept | with_reducible apply State.Kept.ite
    | with_reducible apply State.Kept.ite_fst | with_reducible apply State.Kept.ite_snd
    | with_reducible apply State.Kept.setChan | with_reducible apply State.Kept.onChan
    | with_reducible apply State.Kept.foldl | with_reducible apply State.Kept.foldl_fst | split
    | fail_if_no_progress with_reducible apply State.Kept.mk_same | with_reducible exact Firmware.Kept.refl _
    | with_reducible exact Channel.Kept.refl _ | with_reducible apply Channel.Kept.ite
    | with_reducible apply Channel.Kept.foldl | with_reducible apply Channel.Kept.foldl_fst
    | with_reducible apply Channel.Kept.ite_fst | fail_if_no_progress with_reducible apply Channel.Kept.mk_same)

theorem State.layerBump_kept (s : State) (c : Chan) (rec k n : Nat) {s0 : State} {kc : Option Chan} (h0 : s0.Kept s kc) (hk0 : Covers kc c := by assumption) : s0.Kept (State.layerBump s c rec k n) kc := by
  unfold State.layerBump
  try dsimp only
  repeat' (first
    | with_reducible assumption | with_reducible exact Covers.any _
    | with_reducible exact CoversAll.some (by assumption) | with_reducible exact CoversAll.none
    | with_reducible exact CoversAll.get (by assumption) | with_reducible exact CoversAll.any _ | intro _
    | with_reducible apply State.recordBump_kept | with_reducible apply State.recordReads_kept
    | with_reducible apply State.Kept.ite | with_reducible apply State.Kept.ite_fst
    | with_reducible apply State.Kept.ite_snd | with_reducible apply State.Kept.setChan
    | with_reducible apply State.Kept.onChan | with_reducible apply State.Kept.foldl
    | with_reducible apply State.Kept.foldl_fst | split | fail_if_no_progress with_reducible apply State.Kept.mk_same
    | with_reducible exact Firmware.Kept.refl _ | with_reducible exact Channel.Kept.refl _
    | with_reducible apply Channel.Kept.ite | with_reducible apply Channel.Kept.foldl
    | with_reducible apply Channel.Kept.foldl_fst | with_reducible apply Channel.Kept.ite_fst
    | fail_if_no_progress with_reducible apply Channel.Kept.mk_same)

theorem State.layerSticky_kept (s : State) (c : Chan) (rec bit : Nat) {s0 : State} {kc : Option Chan} (h0 : s0.Kept s kc) (hk0 : Covers kc c := by assumption) : s0.Kept (State.layerSticky s c rec bit) kc := by
  unfold State.layerSticky
  try dsimp only
  repeat' (first
    | with_reducible assumption | with_reducible exact Covers.any _
    | with_reducible exact CoversAll.some (by assumption) | with_reducible exact CoversAll.none
    | with_reducible exact CoversAll.get (by assumption) | with_reducible exact CoversAll.any _ | intro _
    | with_reducible apply Channel.sticky_kept | with_reducible apply State.Kept.ite
    | with_reducible apply State.Kept.ite_fst | with_reducible apply State.Kept.ite_snd
    | with_reducible apply State.Kept.setChan | with_reducible apply State.Kept.onChan
    | with_reducible apply State.Kept.foldl | with_reducible apply State.Kept.foldl_fst | split
    | fail_if_no_progress with_reducible apply State.Kept.mk_same | with_reducible exact Firmware.Kept.refl _
    | with_reducible exact Channel.Kept.refl _ | with_reducible apply Channel.Kept.ite
    | with_reducible apply Channel.Kept.foldl | with_reducible apply Channel.Kept.foldl_fst
    | with_reducible apply Channel.Kept.ite_fst | fail_if_no_progress with_reducible apply Channel.Kept.mk_same)

end Sys2Proof.Machine
end

