-- ==== Sys2Proof/Laws/KeptJobs.lean ====
section
/-!
SUPPORT. The operations of Machine/Jobs.lean keep what Laws/Kept.lean says.
-/

set_option linter.all false

namespace Sys2Proof.Machine

theorem Channel.setContext_kept (h : Channel) (x : Nat) (k : Context) {s0 : Channel} (h0 : s0.Kept h) : s0.Kept (Channel.setContext h x k) := by
  unfold Channel.setContext
  try dsimp only
  repeat' (first
    | with_reducible assumption | intro _ | with_reducible apply Channel.Kept.ite
    | with_reducible apply Channel.Kept.ite_fst | with_reducible apply Channel.Kept.ite_snd
    | with_reducible apply Channel.Kept.foldl | with_reducible apply Channel.Kept.foldl_fst
    | with_reducible apply Channel.Kept.foldl_mid | with_reducible apply Channel.Kept.foldl_fst_fst | split
    | fail_if_no_progress with_reducible apply Channel.Kept.mk_same)

theorem State.requestCompletion_kept (s : State) (c : Chan) (vector : Nat) {s0 : State} {kc : Option Chan} (h0 : s0.Kept s kc) : s0.Kept (State.requestCompletion s c vector) kc := by
  unfold State.requestCompletion
  try dsimp only
  repeat' (first
    | with_reducible assumption | with_reducible exact Covers.any _
    | with_reducible exact CoversAll.some (by assumption) | with_reducible exact CoversAll.none
    | with_reducible exact CoversAll.get (by assumption) | with_reducible exact CoversAll.any _ | intro _
    | with_reducible apply State.requestVector_kept | with_reducible apply State.Kept.ite
    | with_reducible apply State.Kept.ite_fst | with_reducible apply State.Kept.ite_snd
    | with_reducible apply State.Kept.setChan | with_reducible apply State.Kept.onChan
    | with_reducible apply State.Kept.foldl | with_reducible apply State.Kept.foldl_fst | split
    | fail_if_no_progress with_reducible apply State.Kept.mk_same | with_reducible exact Firmware.Kept.refl _
    | with_reducible exact Channel.Kept.refl _ | with_reducible apply Channel.Kept.ite
    | with_reducible apply Channel.Kept.foldl | with_reducible apply Channel.Kept.foldl_fst
    | with_reducible apply Channel.Kept.ite_fst | fail_if_no_progress with_reducible apply Channel.Kept.mk_same)

theorem State.signalContext_kept (s : State) (c : Chan) (x : Nat) {s0 : State} {kc : Option Chan} (h0 : s0.Kept s kc) (hk0 : Covers kc c := by assumption) : s0.Kept (State.signalContext s c x) kc := by
  unfold State.signalContext
  try dsimp only
  repeat' (first
    | with_reducible assumption | with_reducible exact Covers.any _
    | with_reducible exact CoversAll.some (by assumption) | with_reducible exact CoversAll.none
    | with_reducible exact CoversAll.get (by assumption) | with_reducible exact CoversAll.any _ | intro _
    | with_reducible apply Channel.setContext_kept | with_reducible apply State.requestCompletion_kept
    | with_reducible apply State.Kept.ite | with_reducible apply State.Kept.ite_fst
    | with_reducible apply State.Kept.ite_snd | with_reducible apply State.Kept.setChan
    | with_reducible apply State.Kept.onChan | with_reducible apply State.Kept.foldl
    | with_reducible apply State.Kept.foldl_fst | split | fail_if_no_progress with_reducible apply State.Kept.mk_same
    | with_reducible exact Firmware.Kept.refl _ | with_reducible exact Channel.Kept.refl _
    | with_reducible apply Channel.Kept.ite | with_reducible apply Channel.Kept.foldl
    | with_reducible apply Channel.Kept.foldl_fst | with_reducible apply Channel.Kept.ite_fst
    | fail_if_no_progress with_reducible apply Channel.Kept.mk_same)

theorem State.writeCompletion_kept (s : State) (c : Chan) (x : Nat) (p : Completion) {s0 : State} {kc : Option Chan} (h0 : s0.Kept s kc) (hk0 : Covers kc c := by assumption) : s0.Kept (State.writeCompletion s c x p) kc := by
  unfold State.writeCompletion
  try dsimp only
  repeat' (first
    | with_reducible assumption | with_reducible exact Covers.any _
    | with_reducible exact CoversAll.some (by assumption) | with_reducible exact CoversAll.none
    | with_reducible exact CoversAll.get (by assumption) | with_reducible exact CoversAll.any _ | intro _
    | with_reducible apply Channel.setContext_kept | with_reducible apply Channel.write_kept
    | with_reducible apply State.signalContext_kept | with_reducible apply State.Kept.ite
    | with_reducible apply State.Kept.ite_fst | with_reducible apply State.Kept.ite_snd
    | with_reducible apply State.Kept.setChan | with_reducible apply State.Kept.onChan
    | with_reducible apply State.Kept.foldl | with_reducible apply State.Kept.foldl_fst | split
    | fail_if_no_progress with_reducible apply State.Kept.mk_same | with_reducible exact Firmware.Kept.refl _
    | with_reducible exact Channel.Kept.refl _ | with_reducible apply Channel.Kept.ite
    | with_reducible apply Channel.Kept.foldl | with_reducible apply Channel.Kept.foldl_fst
    | with_reducible apply Channel.Kept.ite_fst | fail_if_no_progress with_reducible apply Channel.Kept.mk_same)

theorem State.postCompletion_kept (s : State) (c : Chan) (x : Nat) (p : Completion) {s0 : State} {kc : Option Chan} (h0 : s0.Kept s kc) (hk0 : Covers kc c := by assumption) : s0.Kept (State.postCompletion s c x p) kc := by
  unfold State.postCompletion
  try dsimp only
  repeat' (first
    | with_reducible assumption | with_reducible exact Covers.any _
    | with_reducible exact CoversAll.some (by assumption) | with_reducible exact CoversAll.none
    | with_reducible exact CoversAll.get (by assumption) | with_reducible exact CoversAll.any _ | intro _
    | with_reducible apply Channel.setContext_kept | with_reducible apply State.raise_kept
    | with_reducible apply State.writeCompletion_kept | with_reducible apply State.Kept.ite
    | with_reducible apply State.Kept.ite_fst | with_reducible apply State.Kept.ite_snd
    | with_reducible apply State.Kept.setChan | with_reducible apply State.Kept.onChan
    | with_reducible apply State.Kept.foldl | with_reducible apply State.Kept.foldl_fst | split
    | fail_if_no_progress with_reducible apply State.Kept.mk_same | with_reducible exact Firmware.Kept.refl _
    | with_reducible exact Channel.Kept.refl _ | with_reducible apply Channel.Kept.ite
    | with_reducible apply Channel.Kept.foldl | with_reducible apply Channel.Kept.foldl_fst
    | with_reducible apply Channel.Kept.ite_fst | fail_if_no_progress with_reducible apply Channel.Kept.mk_same)

theorem Channel.setJob_kept (h : Channel) (j : Job) {s0 : Channel} (h0 : s0.Kept h) : s0.Kept (Channel.setJob h j) := by
  unfold Channel.setJob
  try dsimp only
  repeat' (first
    | with_reducible assumption | intro _ | with_reducible apply Channel.Kept.ite
    | with_reducible apply Channel.Kept.ite_fst | with_reducible apply Channel.Kept.ite_snd
    | with_reducible apply Channel.Kept.foldl | with_reducible apply Channel.Kept.foldl_fst
    | with_reducible apply Channel.Kept.foldl_mid | with_reducible apply Channel.Kept.foldl_fst_fst | split
    | fail_if_no_progress with_reducible apply Channel.Kept.mk_same)

theorem Channel.dropJob_kept (h : Channel) (id : Nat) {s0 : Channel} (h0 : s0.Kept h) : s0.Kept (Channel.dropJob h id) := by
  unfold Channel.dropJob
  try dsimp only
  repeat' (first
    | with_reducible assumption | intro _ | with_reducible apply Channel.Kept.ite
    | with_reducible apply Channel.Kept.ite_fst | with_reducible apply Channel.Kept.ite_snd
    | with_reducible apply Channel.Kept.foldl | with_reducible apply Channel.Kept.foldl_fst
    | with_reducible apply Channel.Kept.foldl_mid | with_reducible apply Channel.Kept.foldl_fst_fst | split
    | fail_if_no_progress with_reducible apply Channel.Kept.mk_same)

theorem Channel.addJob_kept (h : Channel) (owner : Owner) (addr ty : Nat) {s0 : Channel} (h0 : s0.Kept h) : s0.Kept (Channel.addJob h owner addr ty) := by
  unfold Channel.addJob
  try dsimp only
  repeat' (first
    | with_reducible assumption | intro _ | with_reducible apply Channel.Kept.ite
    | with_reducible apply Channel.Kept.ite_fst | with_reducible apply Channel.Kept.ite_snd
    | with_reducible apply Channel.Kept.foldl | with_reducible apply Channel.Kept.foldl_fst
    | with_reducible apply Channel.Kept.foldl_mid | with_reducible apply Channel.Kept.foldl_fst_fst | split
    | fail_if_no_progress with_reducible apply Channel.Kept.mk_same)

theorem Channel.settleDrain_kept (h : Channel) (x : Nat) {s0 : Channel} (h0 : s0.Kept h) : s0.Kept (Channel.settleDrain h x) := by
  unfold Channel.settleDrain
  try dsimp only
  repeat' (first
    | with_reducible assumption | intro _ | with_reducible apply Channel.setContext_kept
    | with_reducible apply Channel.Kept.ite | with_reducible apply Channel.Kept.ite_fst
    | with_reducible apply Channel.Kept.ite_snd | with_reducible apply Channel.Kept.foldl
    | with_reducible apply Channel.Kept.foldl_fst | with_reducible apply Channel.Kept.foldl_mid
    | with_reducible apply Channel.Kept.foldl_fst_fst | split
    | fail_if_no_progress with_reducible apply Channel.Kept.mk_same)

theorem State.endSubmission_kept (s : State) (c : Chan) (x sq id flags status r0 r1 : Nat) {s0 : State} {kc : Option Chan} (h0 : s0.Kept s kc) (hk0 : Covers kc c := by assumption) : s0.Kept (State.endSubmission s c x sq id flags status r0 r1) kc := by
  unfold State.endSubmission
  try dsimp only
  repeat' (first
    | with_reducible assumption | with_reducible exact Covers.any _
    | with_reducible exact CoversAll.some (by assumption) | with_reducible exact CoversAll.none
    | with_reducible exact CoversAll.get (by assumption) | with_reducible exact CoversAll.any _ | intro _
    | with_reducible apply Channel.settleDrain_kept | with_reducible apply State.postCompletion_kept
    | with_reducible apply State.Kept.ite | with_reducible apply State.Kept.ite_fst
    | with_reducible apply State.Kept.ite_snd | with_reducible apply State.Kept.setChan
    | with_reducible apply State.Kept.onChan | with_reducible apply State.Kept.foldl
    | with_reducible apply State.Kept.foldl_fst | split | fail_if_no_progress with_reducible apply State.Kept.mk_same
    | with_reducible exact Firmware.Kept.refl _ | with_reducible exact Channel.Kept.refl _
    | with_reducible apply Channel.Kept.ite | with_reducible apply Channel.Kept.foldl
    | with_reducible apply Channel.Kept.foldl_fst | with_reducible apply Channel.Kept.ite_fst
    | fail_if_no_progress with_reducible apply Channel.Kept.mk_same)

theorem State.raiseRefused_kept (s : State) (c : Chan) (r : Refused) {s0 : State} {kc : Option Chan} (h0 : s0.Kept s kc) (hk0 : Covers kc c := by assumption) : s0.Kept (State.raiseRefused s c r) kc := by
  unfold State.raiseRefused
  try dsimp only
  repeat' (first
    | with_reducible assumption | with_reducible exact Covers.any _
    | with_reducible exact CoversAll.some (by assumption) | with_reducible exact CoversAll.none
    | with_reducible exact CoversAll.get (by assumption) | with_reducible exact CoversAll.any _ | intro _
    | with_reducible apply State.raise_kept | with_reducible apply State.Kept.ite
    | with_reducible apply State.Kept.ite_fst | with_reducible apply State.Kept.ite_snd
    | with_reducible apply State.Kept.setChan | with_reducible apply State.Kept.onChan
    | with_reducible apply State.Kept.foldl | with_reducible apply State.Kept.foldl_fst | split
    | fail_if_no_progress with_reducible apply State.Kept.mk_same | with_reducible exact Firmware.Kept.refl _
    | with_reducible exact Channel.Kept.refl _ | with_reducible apply Channel.Kept.ite
    | with_reducible apply Channel.Kept.foldl | with_reducible apply Channel.Kept.foldl_fst
    | with_reducible apply Channel.Kept.ite_fst | fail_if_no_progress with_reducible apply Channel.Kept.mk_same)

theorem State.onTraining_kept (s : State) (c : Chan) (f : Training → Training) {s0 : State} {kc : Option Chan} (h0 : s0.Kept s kc) (hk0 : Covers kc c := by assumption) : s0.Kept (State.onTraining s c f) kc := by
  unfold State.onTraining
  try dsimp only
  repeat' (first
    | with_reducible assumption | with_reducible exact Covers.any _
    | with_reducible exact CoversAll.some (by assumption) | with_reducible exact CoversAll.none
    | with_reducible exact CoversAll.get (by assumption) | with_reducible exact CoversAll.any _ | intro _
    | with_reducible apply State.Kept.ite | with_reducible apply State.Kept.ite_fst
    | with_reducible apply State.Kept.ite_snd | with_reducible apply State.Kept.setChan
    | with_reducible apply State.Kept.onChan | with_reducible apply State.Kept.foldl
    | with_reducible apply State.Kept.foldl_fst | split | fail_if_no_progress with_reducible apply State.Kept.mk_same
    | with_reducible exact Firmware.Kept.refl _ | with_reducible exact Channel.Kept.refl _
    | with_reducible apply Channel.Kept.ite | with_reducible apply Channel.Kept.foldl
    | with_reducible apply Channel.Kept.foldl_fst | with_reducible apply Channel.Kept.ite_fst
    | fail_if_no_progress with_reducible apply Channel.Kept.mk_same)

theorem State.releaseKeys_kept (s : State) (c : Chan) {s0 : State} {kc : Option Chan} (h0 : s0.Kept s kc) (hk0 : Covers kc c := by assumption) : s0.Kept (State.releaseKeys s c) kc := by
  unfold State.releaseKeys
  try dsimp only
  repeat' (first
    | with_reducible assumption | with_reducible exact Covers.any _
    | with_reducible exact CoversAll.some (by assumption) | with_reducible exact CoversAll.none
    | with_reducible exact CoversAll.get (by assumption) | with_reducible exact CoversAll.any _ | intro _
    | with_reducible apply State.bumpBy_kept | with_reducible apply State.onTraining_kept
    | with_reducible apply State.raise_kept | with_reducible apply State.Kept.ite
    | with_reducible apply State.Kept.ite_fst | with_reducible apply State.Kept.ite_snd
    | with_reducible apply State.Kept.setChan | with_reducible apply State.Kept.onChan
    | with_reducible apply State.Kept.foldl | with_reducible apply State.Kept.foldl_fst | split
    | fail_if_no_progress with_reducible apply State.Kept.mk_same | with_reducible exact Firmware.Kept.refl _
    | with_reducible exact Channel.Kept.refl _ | with_reducible apply Channel.Kept.ite
    | with_reducible apply Channel.Kept.foldl | with_reducible apply Channel.Kept.foldl_fst
    | with_reducible apply Channel.Kept.ite_fst | fail_if_no_progress with_reducible apply Channel.Kept.mk_same)

theorem State.markProgramDone_kept (s : State) (c : Chan) (step : Nat) {s0 : State} {kc : Option Chan} (h0 : s0.Kept s kc) (hk0 : Covers kc c := by assumption) : s0.Kept (State.markProgramDone s c step) kc := by
  unfold State.markProgramDone
  try dsimp only
  repeat' (first
    | with_reducible assumption | with_reducible exact Covers.any _
    | with_reducible exact CoversAll.some (by assumption) | with_reducible exact CoversAll.none
    | with_reducible exact CoversAll.get (by assumption) | with_reducible exact CoversAll.any _ | intro _
    | with_reducible apply State.Kept.ite | with_reducible apply State.Kept.ite_fst
    | with_reducible apply State.Kept.ite_snd | with_reducible apply State.Kept.setChan
    | with_reducible apply State.Kept.onChan | with_reducible apply State.Kept.foldl
    | with_reducible apply State.Kept.foldl_fst | split | fail_if_no_progress with_reducible apply State.Kept.mk_same
    | with_reducible exact Firmware.Kept.refl _ | with_reducible exact Channel.Kept.refl _
    | with_reducible apply Channel.Kept.ite | with_reducible apply Channel.Kept.foldl
    | with_reducible apply Channel.Kept.foldl_fst | with_reducible apply Channel.Kept.ite_fst
    | fail_if_no_progress with_reducible apply Channel.Kept.mk_same)

theorem State.endProgram_kept (s : State) (c : Chan) (p : Program) (status r0 r1 : Nat) {s0 : State} {kc : Option Chan} (h0 : s0.Kept s kc) (hk0 : Covers kc c := by assumption) : s0.Kept (State.endProgram s c p status r0 r1) kc := by
  unfold State.endProgram
  try dsimp only
  repeat' (first
    | with_reducible assumption | with_reducible exact Covers.any _
    | with_reducible exact CoversAll.some (by assumption) | with_reducible exact CoversAll.none
    | with_reducible exact CoversAll.get (by assumption) | with_reducible exact CoversAll.any _ | intro _
    | with_reducible apply Channel.dropJob_kept | with_reducible apply State.bump_kept
    | with_reducible apply State.endSubmission_kept | with_reducible apply State.markProgramDone_kept
    | with_reducible apply State.onTraining_kept | with_reducible apply State.releaseKeys_kept
    | with_reducible apply State.Kept.ite | with_reducible apply State.Kept.ite_fst
    | with_reducible apply State.Kept.ite_snd | with_reducible apply State.Kept.setChan
    | with_reducible apply State.Kept.onChan | with_reducible apply State.Kept.foldl
    | with_reducible apply State.Kept.foldl_fst | split | fail_if_no_progress with_reducible apply State.Kept.mk_same
    | with_reducible exact Firmware.Kept.refl _ | with_reducible exact Channel.Kept.refl _
    | with_reducible apply Channel.Kept.ite | with_reducible apply Channel.Kept.foldl
    | with_reducible apply Channel.Kept.foldl_fst | with_reducible apply Channel.Kept.ite_fst
    | fail_if_no_progress with_reducible apply Channel.Kept.mk_same)

theorem State.setEntry_kept (s : State) (c : Chan) (i : Nat) (e : EntryState) {s0 : State} {kc : Option Chan} (h0 : s0.Kept s kc) (hk0 : Covers kc c := by assumption) : s0.Kept (State.setEntry s c i e) kc := by
  unfold State.setEntry
  try dsimp only
  repeat' (first
    | with_reducible assumption | with_reducible exact Covers.any _
    | with_reducible exact CoversAll.some (by assumption) | with_reducible exact CoversAll.none
    | with_reducible exact CoversAll.get (by assumption) | with_reducible exact CoversAll.any _ | intro _
    | with_reducible apply State.onTraining_kept | with_reducible apply State.Kept.ite
    | with_reducible apply State.Kept.ite_fst | with_reducible apply State.Kept.ite_snd
    | with_reducible apply State.Kept.setChan | with_reducible apply State.Kept.onChan
    | with_reducible apply State.Kept.foldl | with_reducible apply State.Kept.foldl_fst | split
    | fail_if_no_progress with_reducible apply State.Kept.mk_same | with_reducible exact Firmware.Kept.refl _
    | with_reducible exact Channel.Kept.refl _ | with_reducible apply Channel.Kept.ite
    | with_reducible apply Channel.Kept.foldl | with_reducible apply Channel.Kept.foldl_fst
    | with_reducible apply Channel.Kept.ite_fst | fail_if_no_progress with_reducible apply Channel.Kept.mk_same)

theorem State.markStarted_kept (s : State) (c : Chan) (j : Job) {s0 : State} {kc : Option Chan} (h0 : s0.Kept s kc) (hk0 : Covers kc c := by assumption) : s0.Kept (State.markStarted s c j) kc := by
  unfold State.markStarted
  try dsimp only
  repeat' (first
    | with_reducible assumption | with_reducible exact Covers.any _
    | with_reducible exact CoversAll.some (by assumption) | with_reducible exact CoversAll.none
    | with_reducible exact CoversAll.get (by assumption) | with_reducible exact CoversAll.any _ | intro _
    | with_reducible apply State.onTraining_kept | with_reducible apply State.setEntry_kept
    | with_reducible apply State.Kept.ite | with_reducible apply State.Kept.ite_fst
    | with_reducible apply State.Kept.ite_snd | with_reducible apply State.Kept.setChan
    | with_reducible apply State.Kept.onChan | with_reducible apply State.Kept.foldl
    | with_reducible apply State.Kept.foldl_fst | split | fail_if_no_progress with_reducible apply State.Kept.mk_same
    | with_reducible exact Firmware.Kept.refl _ | with_reducible exact Channel.Kept.refl _
    | with_reducible apply Channel.Kept.ite | with_reducible apply Channel.Kept.foldl
    | with_reducible apply Channel.Kept.foldl_fst | with_reducible apply Channel.Kept.ite_fst
    | fail_if_no_progress with_reducible apply Channel.Kept.mk_same)

theorem State.settleProgram_kept (s : State) (c : Chan) {s0 : State} {kc : Option Chan} (h0 : s0.Kept s kc) (hk0 : Covers kc c := by assumption) : s0.Kept (State.settleProgram s c) kc := by
  unfold State.settleProgram
  try dsimp only
  repeat' (first
    | with_reducible assumption | with_reducible exact Covers.any _
    | with_reducible exact CoversAll.some (by assumption) | with_reducible exact CoversAll.none
    | with_reducible exact CoversAll.get (by assumption) | with_reducible exact CoversAll.any _ | intro _
    | with_reducible apply State.endProgram_kept | with_reducible apply State.onTraining_kept
    | with_reducible apply State.Kept.ite | with_reducible apply State.Kept.ite_fst
    | with_reducible apply State.Kept.ite_snd | with_reducible apply State.Kept.setChan
    | with_reducible apply State.Kept.onChan | with_reducible apply State.Kept.foldl
    | with_reducible apply State.Kept.foldl_fst | split | fail_if_no_progress with_reducible apply State.Kept.mk_same
    | with_reducible exact Firmware.Kept.refl _ | with_reducible exact Channel.Kept.refl _
    | with_reducible apply Channel.Kept.ite | with_reducible apply Channel.Kept.foldl
    | with_reducible apply Channel.Kept.foldl_fst | with_reducible apply Channel.Kept.ite_fst
    | fail_if_no_progress with_reducible apply Channel.Kept.mk_same)

theorem State.abandonProgram_kept (s : State) (c : Chan) (status slot entry : Nat) (r : Option Refused) {s0 : State} {kc : Option Chan} (h0 : s0.Kept s kc) (hk0 : Covers kc c := by assumption) : s0.Kept (State.abandonProgram s c status slot entry r) kc := by
  unfold State.abandonProgram
  try dsimp only
  repeat' (first
    | with_reducible assumption | with_reducible exact Covers.any _
    | with_reducible exact CoversAll.some (by assumption) | with_reducible exact CoversAll.none
    | with_reducible exact CoversAll.get (by assumption) | with_reducible exact CoversAll.any _ | intro _
    | with_reducible apply State.onTraining_kept | with_reducible apply State.settleProgram_kept
    | with_reducible apply State.Kept.ite | with_reducible apply State.Kept.ite_fst
    | with_reducible apply State.Kept.ite_snd | with_reducible apply State.Kept.setChan
    | with_reducible apply State.Kept.onChan | with_reducible apply State.Kept.foldl
    | with_reducible apply State.Kept.foldl_fst | split | fail_if_no_progress with_reducible apply State.Kept.mk_same
    | with_reducible exact Firmware.Kept.refl _ | with_reducible exact Channel.Kept.refl _
    | with_reducible apply Channel.Kept.ite | with_reducible apply Channel.Kept.foldl
    | with_reducible apply Channel.Kept.foldl_fst | with_reducible apply Channel.Kept.ite_fst
    | fail_if_no_progress with_reducible apply Channel.Kept.mk_same)

theorem State.abandonStep_kept (s : State) (c : Chan) (status slot entry : Nat) (r : Option Refused) {s0 : State} {kc : Option Chan} (h0 : s0.Kept s kc) (hk0 : Covers kc c := by assumption) : s0.Kept (State.abandonStep s c status slot entry r) kc := by
  unfold State.abandonStep
  try dsimp only
  repeat' (first
    | with_reducible assumption | with_reducible exact Covers.any _
    | with_reducible exact CoversAll.some (by assumption) | with_reducible exact CoversAll.none
    | with_reducible exact CoversAll.get (by assumption) | with_reducible exact CoversAll.any _ | intro _
    | with_reducible apply State.abandonProgram_kept | with_reducible apply State.sendAbort_kept
    | with_reducible apply State.Kept.ite | with_reducible apply State.Kept.ite_fst
    | with_reducible apply State.Kept.ite_snd | with_reducible apply State.Kept.setChan
    | with_reducible apply State.Kept.onChan | with_reducible apply State.Kept.foldl
    | with_reducible apply State.Kept.foldl_fst | split | fail_if_no_progress with_reducible apply State.Kept.mk_same
    | with_reducible exact Firmware.Kept.refl _ | with_reducible exact Channel.Kept.refl _
    | with_reducible apply Channel.Kept.ite | with_reducible apply Channel.Kept.foldl
    | with_reducible apply Channel.Kept.foldl_fst | with_reducible apply Channel.Kept.ite_fst
    | fail_if_no_progress with_reducible apply Channel.Kept.mk_same)

theorem Channel.clearBuffer_kept (h : Channel) (t : TensorDesc) {s0 : Channel} (h0 : s0.Kept h) :
    s0.Kept (Channel.clearBuffer h t) := by
  unfold Channel.clearBuffer
  refine Channel.Kept.mk_memory h0 (fun w => ?_)
  generalize List.range t.storedRows = l
  generalize h.mem = m at w
  induction l generalizing m with
  | nil => exact w
  | cons x l ih => exact ih _ (memClear_wf _ _ _ w)

theorem State.handOver_kept (s : State) (c : Chan) (weight step : Nat) {s0 : State} {kc : Option Chan} (h0 : s0.Kept s kc) (hk0 : Covers kc c := by assumption) : s0.Kept (State.handOver s c weight step) kc := by
  unfold State.handOver
  try dsimp only
  repeat' (first
    | with_reducible assumption | with_reducible exact Covers.any _
    | with_reducible exact CoversAll.some (by assumption) | with_reducible exact CoversAll.none
    | with_reducible exact CoversAll.get (by assumption) | with_reducible exact CoversAll.any _ | intro _
    | with_reducible apply Channel.clearBuffer_kept | with_reducible apply State.bump_kept
    | with_reducible apply State.onTraining_kept | with_reducible apply State.Kept.ite
    | with_reducible apply State.Kept.ite_fst | with_reducible apply State.Kept.ite_snd
    | with_reducible apply State.Kept.setChan | with_reducible apply State.Kept.onChan
    | with_reducible apply State.Kept.foldl | with_reducible apply State.Kept.foldl_fst | split
    | fail_if_no_progress with_reducible apply State.Kept.mk_same | with_reducible exact Firmware.Kept.refl _
    | with_reducible exact Channel.Kept.refl _ | with_reducible apply Channel.Kept.ite
    | with_reducible apply Channel.Kept.foldl | with_reducible apply Channel.Kept.foldl_fst
    | with_reducible apply Channel.Kept.ite_fst | fail_if_no_progress with_reducible apply Channel.Kept.mk_same)

theorem State.endEntry_kept (s : State) (c : Chan) (index weight : Nat) (lastGrad ok : Bool) {s0 : State} {kc : Option Chan} (h0 : s0.Kept s kc) (hk0 : Covers kc c := by assumption) : s0.Kept (State.endEntry s c index weight lastGrad ok) kc := by
  unfold State.endEntry
  try dsimp only
  repeat' (first
    | with_reducible assumption | with_reducible exact Covers.any _
    | with_reducible exact CoversAll.some (by assumption) | with_reducible exact CoversAll.none
    | with_reducible exact CoversAll.get (by assumption) | with_reducible exact CoversAll.any _ | intro _
    | with_reducible apply State.handOver_kept | with_reducible apply State.onTraining_kept
    | with_reducible apply State.settleProgram_kept | with_reducible apply State.Kept.ite
    | with_reducible apply State.Kept.ite_fst | with_reducible apply State.Kept.ite_snd
    | with_reducible apply State.Kept.setChan | with_reducible apply State.Kept.onChan
    | with_reducible apply State.Kept.foldl | with_reducible apply State.Kept.foldl_fst | split
    | fail_if_no_progress with_reducible apply State.Kept.mk_same | with_reducible exact Firmware.Kept.refl _
    | with_reducible exact Channel.Kept.refl _ | with_reducible apply Channel.Kept.ite
    | with_reducible apply Channel.Kept.foldl | with_reducible apply Channel.Kept.foldl_fst
    | with_reducible apply Channel.Kept.ite_fst | fail_if_no_progress with_reducible apply Channel.Kept.mk_same)

theorem State.endOwner_kept (s : State) (c : Chan) (j : Job) (status r0 r1 : Nat) (r : Option Refused) {s0 : State} {kc : Option Chan} (h0 : s0.Kept s kc) (hk0 : Covers kc c := by assumption) : s0.Kept (State.endOwner s c j status r0 r1 r) kc := by
  unfold State.endOwner
  try dsimp only
  repeat' (first
    | with_reducible assumption | with_reducible exact Covers.any _
    | with_reducible exact CoversAll.some (by assumption) | with_reducible exact CoversAll.none
    | with_reducible exact CoversAll.get (by assumption) | with_reducible exact CoversAll.any _ | intro _
    | with_reducible apply State.abandonStep_kept | with_reducible apply State.endEntry_kept
    | with_reducible apply State.endSubmission_kept | with_reducible apply State.Kept.ite
    | with_reducible apply State.Kept.ite_fst | with_reducible apply State.Kept.ite_snd
    | with_reducible apply State.Kept.setChan | with_reducible apply State.Kept.onChan
    | with_reducible apply State.Kept.foldl | with_reducible apply State.Kept.foldl_fst | split
    | fail_if_no_progress with_reducible apply State.Kept.mk_same | with_reducible exact Firmware.Kept.refl _
    | with_reducible exact Channel.Kept.refl _ | with_reducible apply Channel.Kept.ite
    | with_reducible apply Channel.Kept.foldl | with_reducible apply Channel.Kept.foldl_fst
    | with_reducible apply Channel.Kept.ite_fst | fail_if_no_progress with_reducible apply Channel.Kept.mk_same)

theorem State.checkStash_kept (s : State) (c : Chan) {s0 : State} {kc : Option Chan} (h0 : s0.Kept s kc) (hk0 : Covers kc c := by assumption) : s0.Kept (State.checkStash s c) kc := by
  unfold State.checkStash
  try dsimp only
  repeat' (first
    | with_reducible assumption | with_reducible exact Covers.any _
    | with_reducible exact CoversAll.some (by assumption) | with_reducible exact CoversAll.none
    | with_reducible exact CoversAll.get (by assumption) | with_reducible exact CoversAll.any _ | intro _
    | with_reducible apply State.abandonStep_kept | with_reducible apply State.Kept.ite
    | with_reducible apply State.Kept.ite_fst | with_reducible apply State.Kept.ite_snd
    | with_reducible apply State.Kept.setChan | with_reducible apply State.Kept.onChan
    | with_reducible apply State.Kept.foldl | with_reducible apply State.Kept.foldl_fst | split
    | fail_if_no_progress with_reducible apply State.Kept.mk_same | with_reducible exact Firmware.Kept.refl _
    | with_reducible exact Channel.Kept.refl _ | with_reducible apply Channel.Kept.ite
    | with_reducible apply Channel.Kept.foldl | with_reducible apply Channel.Kept.foldl_fst
    | with_reducible apply Channel.Kept.ite_fst | fail_if_no_progress with_reducible apply Channel.Kept.mk_same)

theorem State.raiseInvalid_kept (s : State) (c : Chan) (j : Job) {s0 : State} {kc : Option Chan} (h0 : s0.Kept s kc) (hk0 : Covers kc c := by assumption) : s0.Kept (State.raiseInvalid s c j) kc := by
  unfold State.raiseInvalid
  try dsimp only
  repeat' (first
    | with_reducible assumption | with_reducible exact Covers.any _
    | with_reducible exact CoversAll.some (by assumption) | with_reducible exact CoversAll.none
    | with_reducible exact CoversAll.get (by assumption) | with_reducible exact CoversAll.any _ | intro _
    | with_reducible apply State.raise_kept | with_reducible apply State.Kept.ite
    | with_reducible apply State.Kept.ite_fst | with_reducible apply State.Kept.ite_snd
    | with_reducible apply State.Kept.setChan | with_reducible apply State.Kept.onChan
    | with_reducible apply State.Kept.foldl | with_reducible apply State.Kept.foldl_fst | split
    | fail_if_no_progress with_reducible apply State.Kept.mk_same | with_reducible exact Firmware.Kept.refl _
    | with_reducible exact Channel.Kept.refl _ | with_reducible apply Channel.Kept.ite
    | with_reducible apply Channel.Kept.foldl | with_reducible apply Channel.Kept.foldl_fst
    | with_reducible apply Channel.Kept.ite_fst | fail_if_no_progress with_reducible apply Channel.Kept.mk_same)

theorem State.nextRecompute_kept (s : State) (c : Chan) (parent : Nat) {s0 : State} {kc : Option Chan} (h0 : s0.Kept s kc) (hk0 : Covers kc c := by assumption) : s0.Kept (State.nextRecompute s c parent) kc := by
  unfold State.nextRecompute
  try dsimp only
  repeat' (first
    | with_reducible assumption | with_reducible exact Covers.any _
    | with_reducible exact CoversAll.some (by assumption) | with_reducible exact CoversAll.none
    | with_reducible exact CoversAll.get (by assumption) | with_reducible exact CoversAll.any _ | intro _
    | with_reducible apply Channel.dropJob_kept | with_reducible apply State.bump_kept
    | with_reducible apply State.endOwner_kept | with_reducible apply State.onTraining_kept
    | with_reducible apply State.Kept.ite | with_reducible apply State.Kept.ite_fst
    | with_reducible apply State.Kept.ite_snd | with_reducible apply State.Kept.setChan
    | with_reducible apply State.Kept.onChan | with_reducible apply State.Kept.foldl
    | with_reducible apply State.Kept.foldl_fst | split | fail_if_no_progress with_reducible apply State.Kept.mk_same
    | with_reducible exact Firmware.Kept.refl _ | with_reducible exact Channel.Kept.refl _
    | with_reducible apply Channel.Kept.ite | with_reducible apply Channel.Kept.foldl
    | with_reducible apply Channel.Kept.foldl_fst | with_reducible apply Channel.Kept.ite_fst
    | fail_if_no_progress with_reducible apply Channel.Kept.mk_same)

theorem State.completeJob_kept (s : State) (c : Chan) (j : Job) (r0 r1 : Nat) {s0 : State} {kc : Option Chan} (h0 : s0.Kept s kc) (hk0 : Covers kc c := by assumption) : s0.Kept (State.completeJob s c j r0 r1) kc := by
  unfold State.completeJob
  try dsimp only
  repeat' (first
    | with_reducible assumption | with_reducible exact Covers.any _
    | with_reducible exact CoversAll.some (by assumption) | with_reducible exact CoversAll.none
    | with_reducible exact CoversAll.get (by assumption) | with_reducible exact CoversAll.any _ | intro _
    | with_reducible apply Channel.dropJob_kept | with_reducible apply State.checkStash_kept
    | with_reducible apply State.endOwner_kept | with_reducible apply State.nextRecompute_kept
    | with_reducible apply State.raiseInvalid_kept | with_reducible apply State.Kept.ite
    | with_reducible apply State.Kept.ite_fst | with_reducible apply State.Kept.ite_snd
    | with_reducible apply State.Kept.setChan | with_reducible apply State.Kept.onChan
    | with_reducible apply State.Kept.foldl | with_reducible apply State.Kept.foldl_fst | split
    | fail_if_no_progress with_reducible apply State.Kept.mk_same | with_reducible exact Firmware.Kept.refl _
    | with_reducible exact Channel.Kept.refl _ | with_reducible apply Channel.Kept.ite
    | with_reducible apply Channel.Kept.foldl | with_reducible apply Channel.Kept.foldl_fst
    | with_reducible apply Channel.Kept.ite_fst | fail_if_no_progress with_reducible apply Channel.Kept.mk_same)

theorem State.failJob_kept (s : State) (c : Chan) (j : Job) (status r0 r1 : Nat) {s0 : State} {kc : Option Chan} (h0 : s0.Kept s kc) (hk0 : Covers kc c := by assumption) : s0.Kept (State.failJob s c j status r0 r1) kc := by
  unfold State.failJob
  try dsimp only
  repeat' (first
    | with_reducible assumption | with_reducible exact Covers.any _
    | with_reducible exact CoversAll.some (by assumption) | with_reducible exact CoversAll.none
    | with_reducible exact CoversAll.get (by assumption) | with_reducible exact CoversAll.any _ | intro _
    | with_reducible apply Channel.dropJob_kept | with_reducible apply State.checkStash_kept
    | with_reducible apply State.endOwner_kept | with_reducible apply State.raiseInvalid_kept
    | with_reducible apply State.Kept.ite | with_reducible apply State.Kept.ite_fst
    | with_reducible apply State.Kept.ite_snd | with_reducible apply State.Kept.setChan
    | with_reducible apply State.Kept.onChan | with_reducible apply State.Kept.foldl
    | with_reducible apply State.Kept.foldl_fst | split | fail_if_no_progress with_reducible apply State.Kept.mk_same
    | with_reducible exact Firmware.Kept.refl _ | with_reducible exact Channel.Kept.refl _
    | with_reducible apply Channel.Kept.ite | with_reducible apply Channel.Kept.foldl
    | with_reducible apply Channel.Kept.foldl_fst | with_reducible apply Channel.Kept.ite_fst
    | fail_if_no_progress with_reducible apply Channel.Kept.mk_same)

theorem State.refuseJob_kept (s : State) (c : Chan) (j : Job) (r : Refused) {s0 : State} {kc : Option Chan} (h0 : s0.Kept s kc) (hk0 : Covers kc c := by assumption) : s0.Kept (State.refuseJob s c j r) kc := by
  unfold State.refuseJob
  try dsimp only
  repeat' (first
    | with_reducible assumption | with_reducible exact Covers.any _
    | with_reducible exact CoversAll.some (by assumption) | with_reducible exact CoversAll.none
    | with_reducible exact CoversAll.get (by assumption) | with_reducible exact CoversAll.any _ | intro _
    | with_reducible apply Channel.dropJob_kept | with_reducible apply State.bump_kept
    | with_reducible apply State.checkStash_kept | with_reducible apply State.endOwner_kept
    | with_reducible apply State.raiseRefused_kept | with_reducible apply State.raise_kept
    | with_reducible apply State.Kept.ite | with_reducible apply State.Kept.ite_fst
    | with_reducible apply State.Kept.ite_snd | with_reducible apply State.Kept.setChan
    | with_reducible apply State.Kept.onChan | with_reducible apply State.Kept.foldl
    | with_reducible apply State.Kept.foldl_fst | split | fail_if_no_progress with_reducible apply State.Kept.mk_same
    | with_reducible exact Firmware.Kept.refl _ | with_reducible exact Channel.Kept.refl _
    | with_reducible apply Channel.Kept.ite | with_reducible apply Channel.Kept.foldl
    | with_reducible apply Channel.Kept.foldl_fst | with_reducible apply Channel.Kept.ite_fst
    | fail_if_no_progress with_reducible apply Channel.Kept.mk_same)

theorem State.finishJob_kept (s : State) (c : Chan) (j : Job) (r0 r1 : Nat) {s0 : State} {kc : Option Chan} (h0 : s0.Kept s kc) (hk0 : Covers kc c := by assumption) : s0.Kept (State.finishJob s c j r0 r1) kc := by
  unfold State.finishJob
  try dsimp only
  repeat' (first
    | with_reducible assumption | with_reducible exact Covers.any _
    | with_reducible exact CoversAll.some (by assumption) | with_reducible exact CoversAll.none
    | with_reducible exact CoversAll.get (by assumption) | with_reducible exact CoversAll.any _ | intro _
    | with_reducible apply Channel.setJob_kept | with_reducible apply State.Kept.ite
    | with_reducible apply State.Kept.ite_fst | with_reducible apply State.Kept.ite_snd
    | with_reducible apply State.Kept.setChan | with_reducible apply State.Kept.onChan
    | with_reducible apply State.Kept.foldl | with_reducible apply State.Kept.foldl_fst | split
    | fail_if_no_progress with_reducible apply State.Kept.mk_same | with_reducible exact Firmware.Kept.refl _
    | with_reducible exact Channel.Kept.refl _ | with_reducible apply Channel.Kept.ite
    | with_reducible apply Channel.Kept.foldl | with_reducible apply Channel.Kept.foldl_fst
    | with_reducible apply Channel.Kept.ite_fst | fail_if_no_progress with_reducible apply Channel.Kept.mk_same)

theorem State.holdJob_kept (s : State) (c : Chan) (j : Job) (x : Held) (kind key : Nat) {s0 : State} {kc : Option Chan} (h0 : s0.Kept s kc) (hk0 : Covers kc c := by assumption) : s0.Kept (State.holdJob s c j x kind key) kc := by
  unfold State.holdJob
  try dsimp only
  repeat' (first
    | with_reducible assumption | with_reducible exact Covers.any _
    | with_reducible exact CoversAll.some (by assumption) | with_reducible exact CoversAll.none
    | with_reducible exact CoversAll.get (by assumption) | with_reducible exact CoversAll.any _ | intro _
    | with_reducible apply Channel.setJob_kept | with_reducible apply State.bump_kept
    | with_reducible apply State.Kept.ite | with_reducible apply State.Kept.ite_fst
    | with_reducible apply State.Kept.ite_snd | with_reducible apply State.Kept.setChan
    | with_reducible apply State.Kept.onChan | with_reducible apply State.Kept.foldl
    | with_reducible apply State.Kept.foldl_fst | split | fail_if_no_progress with_reducible apply State.Kept.mk_same
    | with_reducible exact Firmware.Kept.refl _ | with_reducible exact Channel.Kept.refl _
    | with_reducible apply Channel.Kept.ite | with_reducible apply Channel.Kept.foldl
    | with_reducible apply Channel.Kept.foldl_fst | with_reducible apply Channel.Kept.ite_fst
    | fail_if_no_progress with_reducible apply Channel.Kept.mk_same)

end Sys2Proof.Machine
end

