-- ==== Sys2Proof/Laws/KeptRequests.lean ====
section
/-!
SUPPORT. The operations of Machine/Requests.lean keep what Laws/Kept.lean says.
-/

set_option linter.all false

namespace Sys2Proof.Machine

theorem State.setRole_kept (s : State) (p : ReqPath) (role : Nat) {s0 : State} {kc : Option Chan} (h0 : s0.Kept s kc) : s0.Kept (State.setRole s p role) kc := by
  unfold State.setRole
  try dsimp only
  repeat' (first
    | with_reducible assumption | with_reducible exact Covers.any _
    | with_reducible exact CoversAll.some (by assumption) | with_reducible exact CoversAll.none
    | with_reducible exact CoversAll.get (by assumption) | with_reducible exact CoversAll.any _ | intro _
    | with_reducible apply State.onEndpoint_kept | with_reducible apply State.setSession_kept
    | with_reducible apply State.Kept.ite | with_reducible apply State.Kept.ite_fst
    | with_reducible apply State.Kept.ite_snd | with_reducible apply State.Kept.setChan
    | with_reducible apply State.Kept.onChan | with_reducible apply State.Kept.foldl
    | with_reducible apply State.Kept.foldl_fst | split | fail_if_no_progress with_reducible apply State.Kept.mk_same
    | with_reducible exact Firmware.Kept.refl _ | with_reducible exact Channel.Kept.refl _
    | with_reducible apply Channel.Kept.ite | with_reducible apply Channel.Kept.foldl
    | with_reducible apply Channel.Kept.foldl_fst | with_reducible apply Channel.Kept.ite_fst
    | fail_if_no_progress with_reducible apply Channel.Kept.mk_same)

theorem State.reply_kept (s : State) (p : ReqPath) (status ty len off : Nat) (data : List Byte) {s0 : State} {kc : Option Chan} (h0 : s0.Kept s kc) : s0.Kept (State.reply s p status ty len off data) kc := by
  unfold State.reply
  try dsimp only
  repeat' (first
    | with_reducible assumption | with_reducible exact Covers.any _
    | with_reducible exact CoversAll.some (by assumption) | with_reducible exact CoversAll.none
    | with_reducible exact CoversAll.get (by assumption) | with_reducible exact CoversAll.any _ | intro _
    | with_reducible apply State.emit_kept | with_reducible apply State.onEndpoint_kept
    | with_reducible apply State.requestVector_kept | with_reducible apply State.sessionFrame_kept
    | with_reducible apply State.setSession_kept | with_reducible apply State.Kept.ite
    | with_reducible apply State.Kept.ite_fst | with_reducible apply State.Kept.ite_snd
    | with_reducible apply State.Kept.setChan | with_reducible apply State.Kept.onChan
    | with_reducible apply State.Kept.foldl | with_reducible apply State.Kept.foldl_fst | split
    | fail_if_no_progress with_reducible apply State.Kept.mk_same | with_reducible exact Firmware.Kept.refl _
    | with_reducible exact Channel.Kept.refl _ | with_reducible apply Channel.Kept.ite
    | with_reducible apply Channel.Kept.foldl | with_reducible apply Channel.Kept.foldl_fst
    | with_reducible apply Channel.Kept.ite_fst | fail_if_no_progress with_reducible apply Channel.Kept.mk_same)

theorem State.signChannel_kept (s : State) (c : Chan) {s0 : State} {kc : Option Chan} (h0 : s0.Kept s kc) (hk0 : Covers kc c := by assumption) : s0.Kept (State.signChannel s c) kc := by
  unfold State.signChannel
  try dsimp only
  repeat' (first
    | with_reducible assumption | with_reducible exact Covers.any _
    | with_reducible exact CoversAll.some (by assumption) | with_reducible exact CoversAll.none
    | with_reducible exact CoversAll.get (by assumption) | with_reducible exact CoversAll.any _ | intro _
    | with_reducible apply State.bump_kept | with_reducible apply State.Kept.ite
    | with_reducible apply State.Kept.ite_fst | with_reducible apply State.Kept.ite_snd
    | with_reducible apply State.Kept.setChan | with_reducible apply State.Kept.onChan
    | with_reducible apply State.Kept.foldl | with_reducible apply State.Kept.foldl_fst | split
    | fail_if_no_progress with_reducible apply State.Kept.mk_same | with_reducible exact Firmware.Kept.refl _
    | with_reducible exact Channel.Kept.refl _ | with_reducible apply Channel.Kept.ite
    | with_reducible apply Channel.Kept.foldl | with_reducible apply Channel.Kept.foldl_fst
    | with_reducible apply Channel.Kept.ite_fst | fail_if_no_progress with_reducible apply Channel.Kept.mk_same)

theorem State.signPort_kept (s : State) {s0 : State} {kc : Option Chan} (h0 : s0.Kept s kc) : s0.Kept (State.signPort s) kc := by
  unfold State.signPort
  try dsimp only
  repeat' (first
    | with_reducible assumption | with_reducible exact Covers.any _
    | with_reducible exact CoversAll.some (by assumption) | with_reducible exact CoversAll.none
    | with_reducible exact CoversAll.get (by assumption) | with_reducible exact CoversAll.any _ | intro _
    | with_reducible apply State.Kept.ite | with_reducible apply State.Kept.ite_fst
    | with_reducible apply State.Kept.ite_snd | with_reducible apply State.Kept.setChan
    | with_reducible apply State.Kept.onChan | with_reducible apply State.Kept.foldl
    | with_reducible apply State.Kept.foldl_fst | split | fail_if_no_progress with_reducible apply State.Kept.mk_same
    | with_reducible exact Firmware.Kept.refl _ | with_reducible exact Channel.Kept.refl _
    | with_reducible apply Channel.Kept.ite | with_reducible apply Channel.Kept.foldl
    | with_reducible apply Channel.Kept.foldl_fst | with_reducible apply Channel.Kept.ite_fst
    | fail_if_no_progress with_reducible apply Channel.Kept.mk_same)

theorem State.auditRecord_kept (s : State) (who : Option Chan) (r : AuditRecord) {s0 : State} {kc : Option Chan} (h0 : s0.Kept s kc) (hq0 : CoversAll kc who := by assumption) : s0.Kept (State.auditRecord s who r) kc := by
  unfold State.auditRecord
  try dsimp only
  repeat' (first
    | with_reducible assumption | with_reducible exact Covers.any _
    | with_reducible exact CoversAll.some (by assumption) | with_reducible exact CoversAll.none
    | with_reducible exact CoversAll.get (by assumption) | with_reducible exact CoversAll.any _ | intro _
    | with_reducible apply State.signChannel_kept | with_reducible apply State.signPort_kept
    | with_reducible apply State.Kept.ite | with_reducible apply State.Kept.ite_fst
    | with_reducible apply State.Kept.ite_snd | with_reducible apply State.Kept.setChan
    | with_reducible apply State.Kept.onChan | with_reducible apply State.Kept.foldl
    | with_reducible apply State.Kept.foldl_fst | split | fail_if_no_progress with_reducible apply State.Kept.mk_same
    | with_reducible exact Firmware.Kept.refl _ | with_reducible exact Channel.Kept.refl _
    | with_reducible apply Channel.Kept.ite | with_reducible apply Channel.Kept.foldl
    | with_reducible apply Channel.Kept.foldl_fst | with_reducible apply Channel.Kept.ite_fst
    | fail_if_no_progress with_reducible apply Channel.Kept.mk_same)

theorem State.noteRecent_kept (s : State) (key : Nat) {s0 : State} {kc : Option Chan} (h0 : s0.Kept s kc) : s0.Kept (State.noteRecent s key) kc := by
  unfold State.noteRecent
  try dsimp only
  repeat' (first
    | with_reducible assumption | with_reducible exact Covers.any _
    | with_reducible exact CoversAll.some (by assumption) | with_reducible exact CoversAll.none
    | with_reducible exact CoversAll.get (by assumption) | with_reducible exact CoversAll.any _ | intro _
    | with_reducible apply State.Kept.ite | with_reducible apply State.Kept.ite_fst
    | with_reducible apply State.Kept.ite_snd | with_reducible apply State.Kept.setChan
    | with_reducible apply State.Kept.onChan | with_reducible apply State.Kept.foldl
    | with_reducible apply State.Kept.foldl_fst | split | fail_if_no_progress with_reducible apply State.Kept.mk_same
    | with_reducible exact Firmware.Kept.refl _ | with_reducible exact Channel.Kept.refl _
    | with_reducible apply Channel.Kept.ite | with_reducible apply Channel.Kept.foldl
    | with_reducible apply Channel.Kept.foldl_fst | with_reducible apply Channel.Kept.ite_fst
    | fail_if_no_progress with_reducible apply Channel.Kept.mk_same)

theorem State.loseRecent_kept (s : State) {s0 : State} {kc : Option Chan} (h0 : s0.Kept s kc) : s0.Kept (State.loseRecent s) kc := by
  unfold State.loseRecent
  try dsimp only
  repeat' (first
    | with_reducible assumption | with_reducible exact Covers.any _
    | with_reducible exact CoversAll.some (by assumption) | with_reducible exact CoversAll.none
    | with_reducible exact CoversAll.get (by assumption) | with_reducible exact CoversAll.any _ | intro _
    | with_reducible apply State.setEnt_kept | with_reducible apply State.Kept.ite
    | with_reducible apply State.Kept.ite_fst | with_reducible apply State.Kept.ite_snd
    | with_reducible apply State.Kept.setChan | with_reducible apply State.Kept.onChan
    | with_reducible apply State.Kept.foldl | with_reducible apply State.Kept.foldl_fst | split
    | fail_if_no_progress with_reducible apply State.Kept.mk_same | with_reducible exact Firmware.Kept.refl _
    | with_reducible exact Channel.Kept.refl _ | with_reducible apply Channel.Kept.ite
    | with_reducible apply Channel.Kept.foldl | with_reducible apply Channel.Kept.foldl_fst
    | with_reducible apply Channel.Kept.ite_fst | fail_if_no_progress with_reducible apply Channel.Kept.mk_same)

theorem State.storeEnt_kept (s : State) (index sub v : Nat) {s0 : State} {kc : Option Chan} (h0 : s0.Kept s kc) : s0.Kept (State.storeEnt s index sub v) kc := by
  unfold State.storeEnt
  try dsimp only
  repeat' (first
    | with_reducible assumption | with_reducible exact Covers.any _
    | with_reducible exact CoversAll.some (by assumption) | with_reducible exact CoversAll.none
    | with_reducible exact CoversAll.get (by assumption) | with_reducible exact CoversAll.any _ | intro _
    | with_reducible apply State.noteRecent_kept | with_reducible apply State.setEnt_kept
    | with_reducible apply State.Kept.ite | with_reducible apply State.Kept.ite_fst
    | with_reducible apply State.Kept.ite_snd | with_reducible apply State.Kept.setChan
    | with_reducible apply State.Kept.onChan | with_reducible apply State.Kept.foldl
    | with_reducible apply State.Kept.foldl_fst | split | fail_if_no_progress with_reducible apply State.Kept.mk_same
    | with_reducible exact Firmware.Kept.refl _ | with_reducible exact Channel.Kept.refl _
    | with_reducible apply Channel.Kept.ite | with_reducible apply Channel.Kept.foldl
    | with_reducible apply Channel.Kept.foldl_fst | with_reducible apply Channel.Kept.ite_fst
    | fail_if_no_progress with_reducible apply Channel.Kept.mk_same)

/-- That the core which serves an index is of the channel that a command may change, or of the port. -/
def Serves (kc : Option Chan) (index : Nat) : Prop := ∀ c, servedBy index = some (some c) → Covers kc c

theorem Serves.any (index : Nat) : Serves none index := fun c _ => Covers.any c

theorem Serves.port {kc : Option Chan} {index : Nat} (h : servedBy index = some none) : Serves kc index :=
  fun c e => by rw [h] at e; cases e

theorem Serves.of {kc : Option Chan} {c : Chan} {index : Nat} (hk : Covers kc c) (h : servedBy index = some (some c)) : Serves kc index :=
  fun d e => by rw [h] at e; cases e; exact hk

theorem Serves.at_1110 {kc : Option Chan} {c : Chan} (hk : Covers kc c) : Serves kc (0x1110 + c.val) :=
  .of hk (by clear hk; revert c; decide)

theorem Serves.at_2000 {kc : Option Chan} {c : Chan} (hk : Covers kc c) : Serves kc (0x2000 + 0x100 * c.val) :=
  .of hk (by clear hk; revert c; decide)

theorem Serves.at_5030 {kc : Option Chan} {c : Chan} (hk : Covers kc c) : Serves kc (0x5030 + c.val) :=
  .of hk (by clear hk; revert c; decide)

theorem Serves.at_5100 {kc : Option Chan} {c : Chan} (hk : Covers kc c) : Serves kc (0x5100 + 0x100 * c.val) :=
  .of hk (by clear hk; revert c; decide)

theorem Serves.at_6100 {kc : Option Chan} {c : Chan} (hk : Covers kc c) : Serves kc (0x6100 + 0x100 * c.val) :=
  .of hk (by clear hk; revert c; decide)

theorem Serves.at_7100 {kc : Option Chan} {c : Chan} (hk : Covers kc c) : Serves kc (0x7100 + 0x100 * c.val) :=
  .of hk (by clear hk; revert c; decide)

theorem Serves.at_1100 {kc : Option Chan} : Serves kc 0x1100 := .port (by decide)

theorem Serves.at_2800 {kc : Option Chan} : Serves kc 0x2800 := .port (by decide)

theorem Serves.all {kc : Option Chan} {index : Nat} {who : Option Chan} (h : Serves kc index) (e : servedBy index = some who) :
    CoversAll kc who := fun c hc => h c (by rw [e, hc])

theorem State.raiseIgnored_kept (s : State) (index sub : Nat) {s0 : State} {kc : Option Chan} (h0 : s0.Kept s kc)
    (hs : Serves kc index := by assumption) : s0.Kept (State.raiseIgnored s index sub) kc := by
  unfold State.raiseIgnored
  split
  · rename_i c e
    exact State.raise_kept _ _ _ _ h0 (hs c e)
  · exact State.raisePort_kept _ _ _ _ h0

theorem State.writeRequest_kept (s : State) (p : ReqPath) (index sub offset : Nat) (data : List Byte) (w : State → State × Nat)
    {s0 : State} {kc : Option Chan} (h0 : s0.Kept s kc) (h_w : ∀ x0, s0.Kept x0 kc → s0.Kept (w x0).1 kc)
    (hs : Serves kc index := by assumption) : s0.Kept (State.writeRequest s p index sub offset data w) kc := by
  unfold State.writeRequest
  split
  · exact h0
  · extract_lets q ty len status r role s'
    split
    · exact State.reply_kept _ _ _ _ _ _ _ h0
    · refine State.reply_kept _ _ _ _ _ _ _ (?_ : s0.Kept s' kc)
      show s0.Kept (if _ then _ else _) kc
      split
      · split
        · rename_i who e
          exact State.auditRecord_kept _ _ _ (h_w _ h0) (hs.all e)
        · exact h_w _ h0
      · exact h_w _ h0

theorem noting_kept (index sub : Nat) (w : State → State × Nat) (s : State) {s0 : State} {kc : Option Chan} (h0 : s0.Kept s kc) (h_w : ∀ x0, s0.Kept x0 kc → s0.Kept (w x0).1 kc) (hs : Serves kc index := by assumption) : s0.Kept (noting index sub w s).1 kc := by
  unfold noting
  try dsimp only
  repeat' (first
    | with_reducible assumption | with_reducible exact Covers.any _
    | with_reducible exact CoversAll.some (by assumption) | with_reducible exact CoversAll.none
    | with_reducible exact CoversAll.get (by assumption) | with_reducible exact CoversAll.any _
    | with_reducible exact Serves.any _ | with_reducible exact Serves.at_2800 | with_reducible exact Serves.at_1100
    | with_reducible exact Serves.at_1110 (CoversAll.get (by assumption))
    | with_reducible exact Serves.at_1110 (by assumption) | with_reducible exact Serves.at_2000 (by assumption)
    | with_reducible exact Serves.at_5030 (by assumption) | with_reducible exact Serves.at_5100 (by assumption)
    | with_reducible exact Serves.at_6100 (by assumption) | with_reducible exact Serves.at_7100 (by assumption)
    | intro _ | with_reducible apply State.raiseIgnored_kept | with_reducible apply h_w
    | with_reducible apply State.Kept.ite | with_reducible apply State.Kept.ite_fst
    | with_reducible apply State.Kept.ite_snd | with_reducible apply State.Kept.setChan
    | with_reducible apply State.Kept.onChan | with_reducible apply State.Kept.foldl
    | with_reducible apply State.Kept.foldl_fst | split | fail_if_no_progress with_reducible apply State.Kept.mk_same
    | with_reducible exact Firmware.Kept.refl _ | with_reducible exact Channel.Kept.refl _
    | with_reducible apply Channel.Kept.ite | with_reducible apply Channel.Kept.foldl
    | with_reducible apply Channel.Kept.foldl_fst | with_reducible apply Channel.Kept.ite_fst
    | fail_if_no_progress with_reducible apply Channel.Kept.mk_same)

theorem State.writeRegister_kept (s : State) (c : Chan) (offset : Nat) (w : State → State × Nat) {s0 : State} {kc : Option Chan} (h0 : s0.Kept s kc) (h_w : ∀ x0, s0.Kept x0 kc → s0.Kept (w x0).1 kc) (hk0 : Covers kc c := by assumption) : s0.Kept (State.writeRegister s c offset w) kc := by
  unfold State.writeRegister
  try dsimp only
  repeat' (first
    | with_reducible assumption | with_reducible exact Covers.any _
    | with_reducible exact CoversAll.some (by assumption) | with_reducible exact CoversAll.none
    | with_reducible exact CoversAll.get (by assumption) | with_reducible exact CoversAll.any _ | intro _
    | with_reducible apply State.raise_kept | with_reducible apply h_w | with_reducible apply State.Kept.ite
    | with_reducible apply State.Kept.ite_fst | with_reducible apply State.Kept.ite_snd
    | with_reducible apply State.Kept.setChan | with_reducible apply State.Kept.onChan
    | with_reducible apply State.Kept.foldl | with_reducible apply State.Kept.foldl_fst | split
    | fail_if_no_progress with_reducible apply State.Kept.mk_same | with_reducible exact Firmware.Kept.refl _
    | with_reducible exact Channel.Kept.refl _ | with_reducible apply Channel.Kept.ite
    | with_reducible apply Channel.Kept.foldl | with_reducible apply Channel.Kept.foldl_fst
    | with_reducible apply Channel.Kept.ite_fst | fail_if_no_progress with_reducible apply Channel.Kept.mk_same)

theorem State.writeThen_kept (s : State) (p : ReqPath) (index sub offset : Nat) (data : List Byte) (w : State → State × Nat) (after : State → State) {s0 : State} {kc : Option Chan} (h0 : s0.Kept s kc) (h_w : ∀ x0, s0.Kept x0 kc → s0.Kept (w x0).1 kc) (h_after : ∀ x0, s0.Kept x0 kc → s0.Kept (after x0) kc) (hs : Serves kc index := by assumption) : s0.Kept (State.writeThen s p index sub offset data w after) kc := by
  unfold State.writeThen
  try dsimp only
  repeat' (first
    | with_reducible assumption | with_reducible exact Covers.any _
    | with_reducible exact CoversAll.some (by assumption) | with_reducible exact CoversAll.none
    | with_reducible exact CoversAll.get (by assumption) | with_reducible exact CoversAll.any _
    | with_reducible exact Serves.any _ | with_reducible exact Serves.at_2800 | with_reducible exact Serves.at_1100
    | with_reducible exact Serves.at_1110 (CoversAll.get (by assumption))
    | with_reducible exact Serves.at_1110 (by assumption) | with_reducible exact Serves.at_2000 (by assumption)
    | with_reducible exact Serves.at_5030 (by assumption) | with_reducible exact Serves.at_5100 (by assumption)
    | with_reducible exact Serves.at_6100 (by assumption) | with_reducible exact Serves.at_7100 (by assumption)
    | intro _ | with_reducible apply State.writeRequest_kept | with_reducible apply h_w | with_reducible apply h_after
    | with_reducible apply State.Kept.ite | with_reducible apply State.Kept.ite_fst
    | with_reducible apply State.Kept.ite_snd | with_reducible apply State.Kept.setChan
    | with_reducible apply State.Kept.onChan | with_reducible apply State.Kept.foldl
    | with_reducible apply State.Kept.foldl_fst | split | fail_if_no_progress with_reducible apply State.Kept.mk_same
    | with_reducible exact Firmware.Kept.refl _ | with_reducible exact Channel.Kept.refl _
    | with_reducible apply Channel.Kept.ite | with_reducible apply Channel.Kept.foldl
    | with_reducible apply Channel.Kept.foldl_fst | with_reducible apply Channel.Kept.ite_fst
    | fail_if_no_progress with_reducible apply Channel.Kept.mk_same)

theorem State.writeScalar_kept (s : State) (p : ReqPath) (index sub : Nat) (bytes v : Nat) (w : State → State × Nat) {s0 : State} {kc : Option Chan} (h0 : s0.Kept s kc) (h_w : ∀ x0, s0.Kept x0 kc → s0.Kept (w x0).1 kc) (hs : Serves kc index := by assumption) : s0.Kept (State.writeScalar s p index sub bytes v w) kc := by
  unfold State.writeScalar
  try dsimp only
  repeat' (first
    | with_reducible assumption | with_reducible exact Covers.any _
    | with_reducible exact CoversAll.some (by assumption) | with_reducible exact CoversAll.none
    | with_reducible exact CoversAll.get (by assumption) | with_reducible exact CoversAll.any _
    | with_reducible exact Serves.any _ | with_reducible exact Serves.at_2800 | with_reducible exact Serves.at_1100
    | with_reducible exact Serves.at_1110 (CoversAll.get (by assumption))
    | with_reducible exact Serves.at_1110 (by assumption) | with_reducible exact Serves.at_2000 (by assumption)
    | with_reducible exact Serves.at_5030 (by assumption) | with_reducible exact Serves.at_5100 (by assumption)
    | with_reducible exact Serves.at_6100 (by assumption) | with_reducible exact Serves.at_7100 (by assumption)
    | intro _ | with_reducible apply State.writeRequest_kept | with_reducible apply h_w
    | with_reducible apply State.Kept.ite | with_reducible apply State.Kept.ite_fst
    | with_reducible apply State.Kept.ite_snd | with_reducible apply State.Kept.setChan
    | with_reducible apply State.Kept.onChan | with_reducible apply State.Kept.foldl
    | with_reducible apply State.Kept.foldl_fst | split | fail_if_no_progress with_reducible apply State.Kept.mk_same
    | with_reducible exact Firmware.Kept.refl _ | with_reducible exact Channel.Kept.refl _
    | with_reducible apply Channel.Kept.ite | with_reducible apply Channel.Kept.foldl
    | with_reducible apply Channel.Kept.foldl_fst | with_reducible apply Channel.Kept.ite_fst
    | fail_if_no_progress with_reducible apply Channel.Kept.mk_same)

end Sys2Proof.Machine
end

