-- ==== Sys2Proof/WellFormed.lean ====
section
/-!
DEFINITION. Which operands a command can have: the widths of the fields that the spec gives them. `exec` is total on
every operand; a well-formed command is one that the hardware, a host or a peer can bring about.
-/

namespace Sys2Proof

/-- `data` has a length that DATA_LENGTH can hold (Table 10.4). -/
def dataLengthOk (data : List Byte) : Bool := data.length ≤ 512 && data.length % 16 == 0

/-- The header fields of a packet fit the widths of Table 10.4. -/
def Packet.wf (p : Packet) : Bool :=
  p.ptype < 256 && p.cls < 4 && p.dest < 131072 && p.source < 131072 && p.group < 1024 && p.segment < 65536 &&
  p.seq < 65536 && p.hops < 256 && dataLengthOk p.data

/-- The fields of a flit fit Tables 10.1 and 10.2. -/
def Flit.wf (f : Flit) : Bool :=
  f.ftype < 16 && f.firstWord < 64 && f.tickets.length == 4 && f.tickets.all (fun n => n < 128) &&
  f.area.length == 624

/-- The fields of a capability message fit R310. -/
def Capability.wf (k : Capability) : Bool :=
  k.version < 256 && k.moduleNumber < 65536 && k.channel < 4 && k.port < 42 && k.replayDepth < 65536 &&
  k.pools.length == 4 && k.pools.all (fun n => n < 65536)

/-- The fields of an uplink notice fit R327: a position and channel of the block, a U port. -/
def Notice.wf (n : Notice) : Bool :=
  n.position < 32 && n.channel < 4 && n.port < 8 && n.remoteBlock < 1024

/-- The fields of a segment's identity fit Table 10.4. -/
def SegKey.wf (k : SegKey) : Bool :=
  k.source < 131072 && k.dest < 131072 && k.group < 1024 && k.segment < 65536

/-- A frame's body and TAG have lengths that a datagram of Table 17.5 can carry. -/
def Frame.wf (f : Frame) : Bool := f.body.length ≤ 1452 && f.tag.length == 32

/-- One temperature for each junction and each slot (R465). -/
def ThrottleSample.wf (x : ThrottleSample) : Bool := x.junction.length == 4 && x.slots.length == 8

/-- OFFSET and LENGTH of a request are 32-bit words (Table 17.4). -/
def spanOk (offset length : Nat) : Bool := offset < 4294967296 && length < 4294967296

/-- The operands of a command lie in the widths that the spec gives them. -/
def Instr.wellFormed : Instr → Bool
  | .throttleTick x => x.wf
  | .accumulateWrite _ _ _ incs => incs.length == 10
  | .linkEyeMeasure _ _ w h _ _ => w < 65536 && h < 65536
  | .linkRecalibrationComplete _ _ _ w h => w < 65536 && h < 65536
  | .silenceWatchWrite _ _ o d => spanOk o d.length
  | .capabilityMessage _ _ k => k.wf
  | .dataFlit _ _ f => f.flit.wf
  | .idleFlit _ _ f => f.flit.wf
  | .badFlit _ _ (.arrived b _) => b.length == 640
  | .packetForward _ k => k.wf
  | .dataPacket _ k => k.wf
  | .unknownPacketType _ _ k => k.wf
  | .segAck _ k => k.wf
  | .segAckTimer _ k => k.wf
  | .e2eTimeout _ k q => k.wf && q < 65536
  | .unreachable _ k => k.wf
  | .uplinkNotice _ _ n => n.wf
  | .groupFree _ g => g < 1024
  | .joinRepeat _ g => g < 1024
  | .groupFormTimeout _ g => g < 1024
  | .heartbeatSend _ g => g < 1024
  | .ringmasterTimeout _ g => g < 1024
  | .bucketConvert _ g _ => g < 1024
  | .join _ k => k.wf
  | .blockReady _ k => k.wf
  | .admitMsg _ k => k.wf
  | .refuse _ k => k.wf
  | .heartbeat _ k => k.wf
  | .takeoverRequest _ k => k.wf
  | .newEpoch _ k => k.wf
  | .partialPkt _ k => k.wf
  | .param _ k => k.wf
  | .normPart _ k => k.wf
  | .norm _ k => k.wf
  | .reduced _ k => k.wf
  | .prepared _ k => k.wf
  | .sealed _ k => k.wf
  | .digestUp _ k => k.wf
  | .digestDown _ k => k.wf
  | .recorded _ k => k.wf
  | .commit _ k => k.wf
  | .abort _ k => k.wf
  | .statusQuery _ k => k.wf
  | .status _ k => k.wf
  | .barrierArrive _ k => k.wf
  | .barrierRelease _ k => k.wf
  | .replica _ k => k.wf
  | .replicaEnd _ k => k.wf
  | .replicaVerified _ k => k.wf
  | .secure _ k => k.wf
  | .secured _ k => k.wf
  | .unwind _ k => k.wf
  | .memberLost _ k => k.wf
  | .spareClaim _ k => k.wf
  | .spareAccept _ k => k.wf
  | .replace _ k => k.wf
  | .fillRequest _ k => k.wf
  | .paramResend _ k => k.wf
  | .filled _ k => k.wf
  | .rebuilt _ k => k.wf
  | .shardsLost _ k => k.wf
  | .resetMsg _ k => k.wf
  | .resetDone _ k => k.wf
  | .resetRelease _ k => k.wf
  | .odRead _ _ _ o n => spanOk o n
  | .odWrite _ _ _ o d => spanOk o d.length
  | .portImage _ o d => spanOk o d.length
  | .recoveryImage _ _ o d => spanOk o d.length
  | .authenticate _ d => spanOk 0 d.length
  | .subscribe _ d => spanOk 0 d.length
  | .attestNonce _ _ d => spanOk 0 d.length
  | .installerSecret _ d => spanOk 0 d.length
  | .sessionInit _ _ _ d => d.length ≤ 1452
  | .request f => f.wf
  | .notifyAck f => f.wf
  | .keepalive f => f.wf
  | .close f => f.wf
  | _ => true

end Sys2Proof
end

