-- ==== Sys2Proof/Tests/Slice0.lean ====
section
/-!
SUPPORT. Tests: the checks of WellFormed, values of the spec's worked examples and tables, single commands on small states, and for each
obligation with hypotheses a witness that meets them. A theorem witness_X lists, in the order of the clauses of the obligation X, states
and operands that meet the hypotheses of each clause.
-/

set_option maxRecDepth 100000
set_option Elab.async false

open Sys2Proof Sys2Proof.Machine

namespace Sys2Proof.Tests

/-! ### Small states -/

/-- The reset state with its module changed. -/
def modular (f : Module → Module) (s : State) : State := { s with module := f s.module }

/-- The module on, its port complex started, its link up and the mailbox in the hands of the maker. -/
def hosted (s : State) : State :=
  modular (fun m => { m with on := true, alive := true }) (modular (fun m => { m with
    endpoint := { m.endpoint with linkUp := true, busMaster := true, mailbox := { m.endpoint.mailbox with role := 2 } } }) s)

/-- Channel 0 changed. -/
def on0 (f : Channel → Channel) (s : State) : State := { s with ch0 := f s.ch0 }

/-- Channel 0 with its power changed. -/
def power0 (f : Power → Power) (s : State) : State := on0 (fun h => { h with power := f h.power }) s

/-- A module with a host and MODULE_NUMBER 0, and channel 0 in P0 with its cartridges powered. -/
def live : State :=
  power0 (fun p => { p with state := .p0, target := .p0, stepTo := .p0, ready := true, cartSupply := true })
    ((hosted State.reset).setEnt (odKey 0x5000 1) 0)

/-- Fields of a descriptor at `a` of channel 0: byte offset, bytes and value. -/
def fields (a : Nat) (l : List (Nat × Nat × Nat)) (s : State) : State :=
  l.foldl (fun s f => on0 (fun h => h.writeNat (a + f.1) f.2.1 f.2.2) s) s

/-- A job of channel 0 for a descriptor at `a`, entered by context 0. -/
def job (ty a : Nat) (s : State) : State := on0 (fun h => h.addJob (.sub 0 0 0 0) a ty) s

/-- A job of channel 0 in a phase. -/
def phased (ty a : Nat) (p : Phase) (s : State) : State :=
  on0 (fun h => { h with jobs := h.jobs ++ [⟨h.nextId, .sub 0 0 0 0, a, ty, p, [], []⟩], nextId := h.nextId + 1 }) s

/-- A tensor descriptor at `a` (Table 7.3): format, layout, rows, columns and DATA, with the stride of its padded row. -/
def tensor (a format layout rows cols data : Nat) (s : State) : State :=
  let stride := paddedLen format (if layout = 0 then cols else rows)
  fields a [(0, 2, 0x10), (2, 1, format), (3, 1, layout), (8, 4, rows), (12, 4, cols), (16, 8, data), (24, 8, stride),
    (32, 4, 0x3F800000)] s

/-- Whether an answer is a value that satisfies `p`. -/
def okAnd {ε α : Type} (x : Except ε α) (p : α → Bool) : Bool :=
  match x with
  | .ok a => p a
  | .error _ => false

/-- Whether an answer is an error. -/
def isErr {ε α : Type} (x : Except ε α) : Bool := !okAnd x (fun _ => true)

/-- Whether a request to write passes its checks (State.passes) and its row satisfies `q`. -/
def passing (s : State) (p : ReqPath) (i sub o : Nat) (d : List Byte) (who : Option Chan) (q : OdRow → Bool := fun _ => true) : Bool :=
  s.pathOpen p && (s.requestCheck p true i sub d.length).1 == 0 &&
    (s.requestCheck p true i sub d.length).2.any (fun r => r.writeStatus i sub o d == 0 && q r) && servedBy i == some who

theorem passing_passes {s : State} {p : ReqPath} {i sub o : Nat} {d : List Byte} {who : Option Chan} {q : OdRow → Bool}
    (h : passing s p i sub o d who q = true) : ∃ r, s.passes p i sub o d who r := by
  simp only [passing, Bool.and_eq_true, beq_iff_eq, Option.any_eq_true] at h
  obtain ⟨⟨⟨h1, h2⟩, r, h3, h4, -⟩, h5⟩ := h
  exact ⟨r, h1, Prod.ext h2 h3, h4, h5⟩

/-- A packet of group 7 from channel address 0 to itself with this type and data, sealed (Table 10.4). -/
def packet (ptype : Nat) (data : List Byte) : Packet :=
  Packet.seal ⟨ptype, 0, true, 0, 0, 7, 0, 0, 0, 0, 0, 0, 0, data⟩

/-- A control message with MSG_TYPE `m`, step `step` and what follows byte 16 (Table 12.11). -/
def message (m step : Nat) (body : List Byte) : Packet :=
  packet 5 (leBytes 4 m ++ leBytes 4 0 ++ leBytes 8 step ++ body ++ List.replicate (16 * ceilDiv body.length 16 - body.length) 0#8)

/-- Group 7 of the one member at channel address 0, which is its ringmaster and its top. -/
def alone (state : GroupState) : Group :=
  { id := 7, state := state, job := none, desc := List.replicate 48 0#8, members := [0], ring := [⟨0, 0, noRank, noRank⟩], top := 0,
    topSucc1 := noRank, topSucc2 := noRank, epoch := 0, features := 15, rank := 0, joins := [], readies := [], arrivals := [],
    heartbeat := 10, timeout := 30, beats := [], barriers := [], resets := [], asked := false, owed := [], low := 1, high := 1, version := 1,
    imaged := false, phases := [] }

/-- Channel 0 with a group. -/
def grouped (g : Group) (s : State) : State := on0 (fun h => { h with groups := h.groups ++ [g] }) s

/-- Whether channel 0 takes a control message (State.delivered), and its group and the state then satisfy `q`. -/
def delivers (s : State) (k : Packet) (msg : Nat) (exempt : Bool) (q : State → Group → Bool := fun _ _ => true) : Bool :=
  k.ptype == 5 && k.msg == msg && (s.receive 0 k exempt).2 &&
    ((s.receive 0 k exempt).1.chan 0 |>.comm k.group).any (fun g => q (s.receive 0 k exempt).1 g)

theorem delivers_delivered {s : State} {k : Packet} {msg : Nat} {exempt : Bool} {q : State → Group → Bool}
    (h : delivers s k msg exempt q = true) : ∃ t g, s.delivered 0 k msg exempt t g ∧ q t g = true := by
  simp only [delivers, Bool.and_eq_true, beq_iff_eq, Option.any_eq_true] at h
  obtain ⟨⟨⟨h1, h2⟩, h3⟩, g, h4, h5⟩ := h
  exact ⟨_, g, ⟨h1, h2, Prod.ext rfl h3, h4⟩, h5⟩

/-- Whether channel 0 does not take a packet as a control message (State.undelivered). -/
def undelivers (s : State) (k : Packet) (msg : Nat) (exempt : Bool) : Bool :=
  k.ptype != 5 || k.msg != msg || !(s.receive 0 k exempt).2 || ((s.receive 0 k exempt).1.chan 0 |>.comm k.group).isNone

theorem undelivers_undelivered {s : State} {k : Packet} {msg : Nat} {exempt : Bool} (h : undelivers s k msg exempt = true) :
    s.undelivered 0 k msg exempt := by
  rintro t g ⟨h1, h2, h3, h4⟩
  have h5 : (s.receive 0 k exempt).2 = true := by rw [h3]
  have h6 : (s.receive 0 k exempt).1 = t := by rw [h3]
  simp only [undelivers, h1, h2, h5, h6, h4, bne_self_eq_false, Bool.not_true, Option.isNone_some, Bool.or_false] at h
  cases h

/-- A session with empty keys and the role maker. -/
def session (s : State) : State :=
  modular (fun m => { m with sessions := [⟨1, 2, [], [], [], [], 0, none, 0, 0, 0, 0, [], false, none, none, 0⟩] }) s

/-- The port complex with an image that speaks Miger version 1. -/
def speaking (s : State) : State :=
  modular (fun m => { m with fw := { m.fw with bank0 := ⟨List.replicate 20 0#8 ++ [1#8, 0#8, 1#8, 0#8], true, 0⟩ } }) s

/-- An empty frame of session 1 with SEQUENCE 5 and the tag that empty keys give it. -/
def frame (ftype : Nat) : Frame := ⟨1#8, 1, 5, [], frameTag [] 1 ftype 1 5 []⟩

/-- Group 7 as COMMIT_GROUP of channel 0. -/
def committing (s : State) : State := s.setEnt (kUpd 0 1) 7

/-- Channel 0 with a program of STEP `step` loaded. -/
def prog (step : Nat) (slots : List (List SlotEntry)) (s : State) : State :=
  on0 (fun h => { h with training := { h.training with program := some ⟨99, 0, false, 1, step, slots, 0,
    List.replicate (slots.getD 0 []).length .idle, [], [], [], none, false⟩ } }) s

/-- The loaded program of channel 0 changed. -/
def program0 (f : Program → Program) (s : State) : State :=
  on0 (fun h => { h with training := { h.training with program := h.training.program.map f } }) s

/-- A program of STEP `step` with one entry, which has started and not completed, so that tag `step` − 1 is live. -/
def live1 (step : Nat) (s : State) : State :=
  program0 (fun p => { p with begun := [0] }) (prog step [[⟨64, 0, 0, 1, true, 3⟩]] s)

/-- Channel 0 with a job of a descriptor at 64 that was loaded as `x` and waits. -/
def holding (ty : Nat) (x : Held) (s : State) : State := phased ty 64 (.held x) s

/-- Three 1 × 1 BF16 tensors in the shared store: A by rows at 0x400, B by columns at 0x480, C by rows at 0x500. -/
def tensors (s : State) : State :=
  tensor 0x500 0x10 0 1 1 (storeBase + 128) (tensor 0x480 0x10 1 1 1 (storeBase + 64) (tensor 0x400 0x10 0 1 1 storeBase s))

/-- Weight 3, whose parameter bank 0 is the tensor described at `a`. -/
def weight3 (a : Nat) (s : State) : State :=
  on0 (fun h => { h with training := { h.training with weights := h.training.weights ++ [⟨3, 0xFFFF, h.tensorDesc a, h.tensorDesc 0x2000,
    none, none, none, none, h.tensorDesc 0x2000, none, none, none, none, none⟩] } }) s

/-- A product descriptor of the three tensors at 64. -/
def product (s : State) : State :=
  job 0x20 64 (fields 64 [(0, 2, 0x20), (6, 2, 1), (8, 8, 0x400), (16, 8, 0x480), (24, 8, 0x500)] (tensors s))

/-- A transpose descriptor of A into C at 64. -/
def transposeOf (s : State) : State :=
  job 0x32 64 (fields 64 [(0, 2, 0x32), (8, 8, 0x400), (16, 8, 0x500)] (tensors s))

/-- A row descriptor, operation 1, of A into C at 64. -/
def rowOf (s : State) : State :=
  job 0x30 64 (fields 64 [(0, 2, 0x30), (2, 1, 1), (8, 8, 0x400), (16, 8, 0x500)] (tensors s))

/-- A raster descriptor at 64: one band of a 8 × 8 image, patches of 8, into a 1 × 64 BF16 tensor. -/
def rasterOf (s : State) : State :=
  job 0x60 64 (fields 64 [(0, 2, 0x60), (4, 1, 1), (5, 1, 8), (8, 4, 8), (12, 4, 8), (56, 8, 0x580)]
    (tensor 0x580 0x10 0 1 64 storeBase s))

/-- A weight descriptor at 64: BF16 parameters at 0x400 and 0x600, its KA48 gradient at 0x680, as weight 5. -/
def weightOf (s : State) : State :=
  job 0x73 64 (fields 64 [(0, 2, 0x73), (4, 2, 5), (6, 2, 0xFFFF), (16, 8, 0x400), (24, 8, 0x600), (64, 8, 0x680)]
    (tensor 0x680 0x12 0 1 1 0x20000 (tensor 0x600 0x10 0 1 1 (storeBase + 192) (tensors s))))

/-- A descriptor at 64 with FLAGS. -/
def flagged (ty flags : Nat) (l : List (Nat × Nat × Nat)) (s : State) : State :=
  job ty 64 (fields 64 ([(0, 2, ty), (2, 2, flags)] ++ l) s)

/-- A program descriptor at 64 of one slot at 0x100 with one entry, STEP 1. -/
def programOf (s : State) : State :=
  flagged 0x70 0 [(4, 4, 1), (8, 2, 1), (16, 8, 1), (24, 8, 0x100)]
    (fields 0x100 [(0, 2, 0x71), (2, 1, 1), (30, 2, 0xFFFF)] s)

/-- A stash descriptor at 64 of tensor A with direction and KEY 9. -/
def stashOf (dir : Nat) (s : State) : State :=
  job 0x38 64 (fields 64 [(0, 2, 0x38), (2, 1, dir), (4, 4, 9), (8, 8, 0x400)] (tensors s))

/-- KEY 9 held, or dropped, as tensor A. -/
def keyed (dropped : Bool) (s : State) : State :=
  on0 (fun h => { h with training := { h.training with stash := [⟨9, 0, 1, dropped, h.tensorDesc 0x400⟩] } }) s

/-- A slot entry that runs the descriptor at 64 for a weight. -/
def entryOf (w : Nat) : SlotEntry := ⟨64, 0, 0, 1, false, w⟩

/-- Layer 4 on tile entry 0: one input, one output, tag 0 of a rank. -/
def layer4 (rank : Nat) (switched : Option Half) (s : State) : State :=
  on0 (fun h => { h with arrays := { h.arrays with layers := h.arrays.layers ++ [⟨4, 1, 1, [0], 0, h.tensorDesc 0x400, h.tensorDesc 0x700, 0, 0,
    rank, false, 0, none, false, switched⟩] } }) s

/-- A channel with both cartridge slots attached. -/
def slotted (s : State) : State :=
  on0 (fun h => (h.setSlot 0 { h.slotA with present := true, attached := true }).setSlot 1 { h.slotB with present := true, attached := true }) s

/-- A program descriptor at 64 for layer 4 of one weight on tile entry 0. -/
def layerDesc (s : State) : State :=
  job 0x50 64 (fields 64 [(0, 2, 0x50), (4, 4, 1), (8, 4, 1), (16, 8, 0x900), (24, 8, 0x180000), (32, 8, 0x400), (40, 8, 0x700),
    (48, 8, 0x200000), (74, 2, 4)] (fields 0x700 [(40, 8, 0xA00)] (tensor 0x700 0 0 1 1 0x10000 (tensors (slotted s)))))

/-- An array layer descriptor at 64 of one input, one output and one vector on tile entry 0. -/
def arrayOf (s : State) : State :=
  job 0x41 64 (fields 64 [(0, 2, 0x41), (4, 4, 1), (8, 4, 1), (12, 4, 1), (16, 8, 0x900), (24, 8, 0x940), (32, 8, 0x700), (40, 8, 0xB00),
    (48, 8, 0x400), (56, 8, 0x500), (72, 4, 0x3F800000), (88, 8, 0x980)]
    (tensor 0xB00 0x10 0 1 1 0x20000 (tensor 0x700 0 0 1 1 0x10000 (tensors s))))

/-- An array layer descriptor as it executes, with its vectors. -/
def execution (vecs : List VecState) (s : State) : ArrayExec :=
  let t := s.ch0.tensorDesc 0x400
  ⟨64, false, false, 1, 1, 2, [0], 0x940, t, t, t, t, 0, 0, 0x3F800000, 0, 1, 0x980, 4, 0, vecs, 0, false, false, []⟩

/-- Vector 0 with all its tiles in. -/
def vector0 : VecState := ⟨0, .zero, [], [], [], 0, false, [], []⟩

/-- Link 3 of channel 0, up, and then changed by `f`. -/
def link3 (f : Link → Link) (s : State) : State :=
  on0 (fun h => { h with net := { h.net with links := [(3, f { Link.reset with state := 2 })] } }) s

/-- An IDLE flit or a DATA flit with this sequence. -/
def flit (seq : BitVec 12) : Flit := ⟨1, seq, 0, false, false, 63, [0, 0, 0, 0], List.replicate 624 0#8⟩

/-- The segment of `packet`. -/
def key0 : SegKey := ⟨0, 0, 7, 0, 0⟩

/-- A plan of group 7: one bucket of one element of weight 3, owned by rank `owner`. -/
def plan7 (owner flags : Nat) : Plan :=
  { group := 7, flags := flags, optimizer := 1, format := 0x11, window := 1, buckets := [⟨3, 1, 0, owner⟩], shard := 0, shards := [],
    gradScale := 0x3F800000, beta1 := 0, beta2 := 0, epsilon := 0, decay := 0, clipNorm := 0, lrTable := 0, lrCount := 1, firstStep := 0,
    status := 0, area := 0, areaBytes := 0 }

/-- Channel 0 with a plan. -/
def planned7 (p : Plan) (s : State) : State := on0 (fun h => { h with coll := { h.coll with plans := h.coll.plans ++ [p] } }) s

/-- The collective engine of channel 0 changed. -/
def coll0 (f : Collective → Collective) (s : State) : State := on0 (fun h => { h with coll := f h.coll }) s

/-- The safety net of channel 0 changed. -/
def safety0 (f : Safety → Safety) (s : State) : State := on0 (fun h => { h with safety := f h.safety }) s

/-- A step of channel 0, its program done. -/
def step7 (step : Nat) : StepRun := ⟨step, true, 0, false, false, [], [], [], []⟩

/-- An active group 7, alone. -/
def active7 (s : State) : State := grouped (alone .active) s

/-- A plan descriptor at 64 for `plan7`, with weight 3 in FP32. -/
def planDesc (s : State) : State :=
  let s := tensor 0x2000 0x11 0 1 1 0x300000 (tensor 0xA00 0x11 0 1 1 0x310000 s)
  let s := fields 0x800 [(0, 2, 3), (4, 4, 1)] (fields 0x980 [(0, 4, 0x3F800000), (4, 4, 0x3F000000), (8, 4, 0x3F000000)] s)
  let s := fields 0x940 [(8, 8, 0x100000), (16, 8, 0x200000)] (weight3 0xA00 s)
  flagged 0x90 0 [(4, 2, 7), (6, 1, 1), (7, 1, 0x11), (8, 2, 1), (10, 2, 1), (16, 8, 0x800), (24, 8, 0x900), (32, 8, 0x980),
    (40, 8, 0x9C0), (48, 4, 1)] (s.setEnt (kUpd 0 3) 0x4000000)

/-- The declaration of group 7 alone: no buddy, an area of 128 KiB. -/
def replica7 : Replica := ⟨7, [noRank], [], 0x400000, 131072⟩

/-- A replica descriptor at 64 that declares `replica7`. -/
def replicaDesc (s : State) : State :=
  flagged 0x92 0 [(4, 2, 7), (8, 8, 0x800), (32, 8, 0x400000), (40, 8, 131072)] (fields 0x800 [(0, 4, noRank)] s)

/-- A group descriptor at 64 of group 7 alone. -/
def groupDesc (s : State) : State :=
  flagged 0x80 0 [(4, 2, 7), (8, 4, 1), (14, 2, 1), (16, 8, 0x800), (24, 8, 0x840), (36, 4, noRank), (40, 4, noRank)]
    (fields 0x840 [(8, 4, noRank), (12, 4, noRank)] s)

/-- A NEW_EPOCH of epoch 1 with this top and this block's ring (Table 12.12). -/
def epochMessage (top block : Nat) : Packet :=
  packet 5 (leBytes 4 0x06 ++ leBytes 4 1 ++ leBytes 8 0 ++ leBytes 4 top ++ leBytes 4 noRank ++ leBytes 4 noRank ++ leBytes 4 block ++
    leBytes 4 noRank ++ leBytes 4 noRank ++ leBytes 4 noRank ++ leBytes 4 0)


/-- A capability message of the module. -/
def cap0 : Capability := ⟨1, 0, 0, 0, 0, 0, 256, [1, 1, 1, 1], 460⟩

/-- A flit that acknowledges nothing, without a corrected symbol. -/
def heard : Received := ⟨0, false, false, 0⟩

/-- An uplink notice of port U0. -/
def notice0 : Notice := ⟨0, 0, 0, true, 1, 0⟩

/-- A packet whose group is none. -/
def badPacket : Packet := { packet 4 [] with group := 1024 }

/-! ### The checks of WellFormed -/

/-- Every field of a packet has its bound (Table 10.4). -/
theorem test_wf_packet :
    ((packet 4 []).wf : Bool) = true ∧ (!({ packet 4 [] with ptype := 256 }).wf : Bool) = true ∧
    (!({ packet 4 [] with cls := 4 }).wf : Bool) = true ∧ (!({ packet 4 [] with dest := 131072 }).wf : Bool) = true ∧
    (!({ packet 4 [] with source := 131072 }).wf : Bool) = true ∧ (!({ packet 4 [] with group := 1024 }).wf : Bool) = true ∧
    (!({ packet 4 [] with segment := 65536 }).wf : Bool) = true ∧ (!({ packet 4 [] with seq := 65536 }).wf : Bool) = true ∧
    (!({ packet 4 [] with hops := 256 }).wf : Bool) = true ∧ (!(Packet.wf { packet 4 [] with data := List.replicate 15 0#8 }) : Bool) = true ∧
    (!(Packet.wf { packet 4 [] with data := List.replicate 528 0#8 }) : Bool) = true := by
  decide +kernel

/-- Every field of a flit has its bound (Tables 10.1 and 10.2). -/
theorem test_wf_flit :
    ((flit 0).wf : Bool) = true ∧ (!({ flit 0 with ftype := 16 }).wf : Bool) = true ∧ (!({ flit 0 with firstWord := 64 }).wf : Bool) = true ∧
    (!({ flit 0 with tickets := [0, 0, 0] }).wf : Bool) = true ∧ (!({ flit 0 with tickets := [0, 0, 0, 128] }).wf : Bool) = true ∧
    (!({ flit 0 with area := [] }).wf : Bool) = true := by
  decide +kernel

/-- Every field of a capability message has its bound (R310). -/
theorem test_wf_capability :
    (cap0.wf : Bool) = true ∧ (!({ cap0 with version := 256 }).wf : Bool) = true ∧ (!({ cap0 with moduleNumber := 65536 }).wf : Bool) = true ∧
    (!({ cap0 with channel := 4 }).wf : Bool) = true ∧ (!({ cap0 with port := 42 }).wf : Bool) = true ∧
    (!({ cap0 with replayDepth := 65536 }).wf : Bool) = true ∧ (!({ cap0 with pools := [1, 1, 1] }).wf : Bool) = true ∧
    (!({ cap0 with pools := [1, 1, 1, 65536] }).wf : Bool) = true := by
  decide +kernel

/-- Every field of an uplink notice has its bound (R327). -/
theorem test_wf_notice :
    (notice0.wf : Bool) = true ∧ (!({ notice0 with position := 32 }).wf : Bool) = true ∧ (!({ notice0 with channel := 4 }).wf : Bool) = true ∧
    ({ notice0 with port := 7 }.wf : Bool) = true ∧ (!({ notice0 with port := 8 }).wf : Bool) = true ∧
    (!({ notice0 with remoteBlock := 1024 }).wf : Bool) = true := by
  decide +kernel

/-- Every field of a segment has its bound (Table 10.4). -/
theorem test_wf_segment :
    (key0.wf : Bool) = true ∧ (!({ key0 with source := 131072 }).wf : Bool) = true ∧ (!({ key0 with dest := 131072 }).wf : Bool) = true ∧
    (!({ key0 with group := 1024 }).wf : Bool) = true ∧ (!({ key0 with segment := 65536 }).wf : Bool) = true := by
  decide +kernel

/-- A frame has a TAG of 32 bytes and a body that a datagram carries (Table 17.5). -/
theorem test_wf_frame :
    ((Frame.mk 1 1 0 [] (List.replicate 32 0)).wf : Bool) = true ∧ (!(Frame.mk 1 1 0 [] []).wf : Bool) = true ∧
    (!(Frame.mk 1 1 0 (List.replicate 1453 0) (List.replicate 32 0)).wf : Bool) = true := by
  decide +kernel

/-- The remaining checks, each with a command that passes it and commands that it refuses. -/
theorem test_wf_commands :
    ((Instr.throttleTick ⟨List.replicate 4 0, List.replicate 8 0, 0⟩).wellFormed : Bool) = true ∧
    (!(Instr.throttleTick ⟨List.replicate 3 0, List.replicate 8 0, 0⟩).wellFormed : Bool) = true ∧
    (!(Instr.throttleTick ⟨List.replicate 4 0, List.replicate 7 0, 0⟩).wellFormed : Bool) = true ∧
    ((Instr.accumulateWrite 0 0 0 (List.replicate 10 0)).wellFormed : Bool) = true ∧
    (!(Instr.accumulateWrite 0 0 0 (List.replicate 9 0)).wellFormed : Bool) = true ∧
    ((Instr.linkEyeMeasure 0 0 0 0 0 0).wellFormed : Bool) = true ∧ (!(Instr.linkEyeMeasure 0 0 65536 0 0 0).wellFormed : Bool) = true ∧
    (!(Instr.linkEyeMeasure 0 0 0 65536 0 0).wellFormed : Bool) = true ∧
    ((Instr.linkRecalibrationComplete 0 0 true 0 0).wellFormed : Bool) = true ∧
    (!(Instr.linkRecalibrationComplete 0 0 true 65536 0).wellFormed : Bool) = true ∧
    (!(Instr.linkRecalibrationComplete 0 0 true 0 65536).wellFormed : Bool) = true ∧
    ((Instr.e2eTimeout 0 key0 65535).wellFormed : Bool) = true ∧ (!(Instr.e2eTimeout 0 key0 65536).wellFormed : Bool) = true ∧
    ((Instr.groupFree 0 1023).wellFormed : Bool) = true ∧ (!(Instr.groupFree 0 1024).wellFormed : Bool) = true ∧
    (!(Instr.joinRepeat 0 1024).wellFormed : Bool) = true ∧ (!(Instr.groupFormTimeout 0 1024).wellFormed : Bool) = true ∧
    (!(Instr.heartbeatSend 0 1024).wellFormed : Bool) = true ∧ (!(Instr.ringmasterTimeout 0 1024).wellFormed : Bool) = true ∧
    (!(Instr.bucketConvert 0 1024 0).wellFormed : Bool) = true ∧ ((Instr.odRead .mailbox 0 0 0 4).wellFormed : Bool) = true ∧
    (!(Instr.odRead .mailbox 0 0 4294967296 4).wellFormed : Bool) = true ∧
    (!(Instr.odRead .mailbox 0 0 0 4294967296).wellFormed : Bool) = true ∧
    (!(Instr.odWrite .mailbox 0 0 4294967296 []).wellFormed : Bool) = true ∧
    (!(Instr.silenceWatchWrite .mailbox 0 4294967296 []).wellFormed : Bool) = true ∧
    (!(Instr.portImage .mailbox 4294967296 []).wellFormed : Bool) = true ∧
    (!(Instr.recoveryImage .mailbox 0 4294967296 []).wellFormed : Bool) = true ∧ ((Instr.authenticate .mailbox []).wellFormed : Bool) = true ∧
    ((Instr.subscribe .mailbox []).wellFormed : Bool) = true ∧ ((Instr.attestNonce .mailbox 0 []).wellFormed : Bool) = true ∧
    ((Instr.installerSecret .mailbox []).wellFormed : Bool) = true ∧
    ((Instr.sessionInit 0 1 0 (List.replicate 1452 0)).wellFormed : Bool) = true ∧
    (!(Instr.sessionInit 0 1 0 (List.replicate 1453 0)).wellFormed : Bool) = true ∧
    (!(Instr.dataFlit 0 0 ⟨{ flit 0 with ftype := 16 }, 0⟩).wellFormed : Bool) = true ∧
    (!(Instr.idleFlit 0 0 ⟨{ flit 0 with ftype := 16 }, 0⟩).wellFormed : Bool) = true ∧
    ((Instr.badFlit 0 0 (.arrived (List.replicate 640 0) 0)).wellFormed : Bool) = true ∧
    (!(Instr.badFlit 0 0 (.arrived (List.replicate 639 0) 0)).wellFormed : Bool) = true ∧
    (!(Instr.capabilityMessage 0 ⟨0, heard⟩ { cap0 with channel := 4 }).wellFormed : Bool) = true ∧
    (!(Instr.uplinkNotice 0 ⟨0, heard⟩ { notice0 with port := 8 }).wellFormed : Bool) = true ∧
    (!(Instr.segAckTimer 0 { key0 with group := 1024 }).wellFormed : Bool) = true ∧
    (!(Instr.request (Frame.mk 1 1 0 [] [])).wellFormed : Bool) = true ∧ (!(Instr.notifyAck (Frame.mk 1 1 0 [] [])).wellFormed : Bool) = true ∧
    (!(Instr.keepalive (Frame.mk 1 1 0 [] [])).wellFormed : Bool) = true ∧ (!(Instr.close (Frame.mk 1 1 0 [] [])).wellFormed : Bool) = true ∧
    (Instr.epochPulse.wellFormed : Bool) = true := by
  decide +kernel

/-- Every command that carries a packet refuses one with a group of 1,024. -/
theorem test_wf_packet_commands :
    ([Instr.packetForward 0 badPacket, Instr.dataPacket 0 badPacket, Instr.segAck 0 badPacket, Instr.unreachable 0 badPacket, Instr.join 0 badPacket, Instr.blockReady 0 badPacket, Instr.admitMsg 0 badPacket, Instr.refuse 0 badPacket, Instr.heartbeat 0 badPacket, Instr.takeoverRequest 0 badPacket, Instr.newEpoch 0 badPacket, Instr.partialPkt 0 badPacket, Instr.param 0 badPacket, Instr.normPart 0 badPacket, Instr.norm 0 badPacket, Instr.reduced 0 badPacket, Instr.prepared 0 badPacket, Instr.sealed 0 badPacket, Instr.digestUp 0 badPacket, Instr.digestDown 0 badPacket, Instr.recorded 0 badPacket, Instr.commit 0 badPacket, Instr.abort 0 badPacket, Instr.statusQuery 0 badPacket, Instr.status 0 badPacket, Instr.barrierArrive 0 badPacket, Instr.barrierRelease 0 badPacket, Instr.replica 0 badPacket, Instr.replicaEnd 0 badPacket, Instr.replicaVerified 0 badPacket, Instr.secure 0 badPacket, Instr.secured 0 badPacket, Instr.unwind 0 badPacket, Instr.memberLost 0 badPacket, Instr.spareClaim 0 badPacket, Instr.spareAccept 0 badPacket, Instr.replace 0 badPacket, Instr.fillRequest 0 badPacket, Instr.paramResend 0 badPacket, Instr.filled 0 badPacket, Instr.rebuilt 0 badPacket, Instr.shardsLost 0 badPacket, Instr.resetMsg 0 badPacket, Instr.resetDone 0 badPacket, Instr.resetRelease 0 badPacket, Instr.unknownPacketType 0 0 badPacket].all (fun i => !i.wellFormed) : Bool) = true := by
  decide +kernel

/-! ### Values of the spec's tables and worked examples -/

/-- 03_number_formats.md, the worked example of R71: the values of codes 0x7E, 0x99 and 0x70 are 1.75, 18 and 0.5. -/
theorem test_ks8_values : w32 (ks8Value 0x7E) = 0x3FE00000 ∧ w32 (ks8Value 0x99) = 0x41900000 ∧ w32 (ks8Value 0x70) = 0x3F000000 := by
  decide +kernel

/-- The sixteen values of the worked block of 03_number_formats.md, before the multiplication by 1,024. -/
def workedBlock : List Fp := [0x3C233333, 0xBB533333, 0x3A333333, 0x37A3D70A, 0x3BA33333, 0xBC1E6666, 0x3ACCCCCD, 0x00000000, 0x00000000, 0x00000000, 0x00000000, 0x00000000, 0x00000000, 0x00000000, 0x00000000, 0x39CCCCCD].map f32

/-- 03_number_formats.md, the worked example of R77: scale 0x7E, the codes of its table, two flushes, neither crushed nor saturated. -/
theorem test_worked_block : convertBlock .kf4 false 16 (some 12) .nearest (f32 0x44800000) workedBlock =
    ⟨0x7E, [7, 12, 1, 0, 5, 15, 2, 0, 0, 0, 0, 0, 0, 0, 0, 0], false, false, 2, none⟩ := by decide +kernel

/-- 03_number_formats.md: a block of 100 and fifteen values between 0.5 and 3 takes scale 0x99 and is crushed, with fifteen flushes. -/
theorem test_crushed_block : let r := convertBlock .kf4 false 16 (some 12) .nearest Fp.one ([0x42C80000, 0x3F000000, 0x40400000, 0x3F800000, 0x40000000, 0x3F400000, 0x40200000, 0x3FC00000, 0x3F000000, 0x40400000, 0x40100000, 0x3FA00000, 0x3F19999A, 0x4039999A, 0x3F8CCCCD, 0x3F666666].map f32)
    r.scale = 0x99 ∧ r.flushes = 15 ∧ r.crushed = true ∧ r.saturated = false := by decide +kernel

/-- 03_number_formats.md: with 1,000,000 for 100 the scale is 0xFE, the large value clamps to 6 (code 7), and the block is saturated and
crushed. -/
theorem test_saturated_block : let r := convertBlock .kf4 false 16 (some 12) .nearest Fp.one ([0x49742400, 0x3F000000, 0x40400000, 0x3F800000, 0x40000000, 0x3F400000, 0x40200000, 0x3FC00000, 0x3F000000, 0x40400000, 0x40100000, 0x3FA00000, 0x3F19999A, 0x4039999A, 0x3F8CCCCD, 0x3F666666].map f32)
    r.scale = 0xFE ∧ r.codes.getD 0 0 = 7 ∧ r.crushed = true ∧ r.saturated = true := by decide +kernel

/-- 09_training_numerics.md, Table 9.4 (R264): the state after round 0, and U. -/
theorem test_draw_vector : drawRound 0x89ABCDEF#32 0x01234567#32 (0x1234#32, 0#32, 0x42#32, 0xBB9#32) 0 =
      (0x89ABE023#32, 0x5EE7AA76#32, 0xECBDCF54#32, 0xEB9A89AB#32) ∧
    draw 0x0123456789ABCDEF 3001 0x42 0x1234 0 = 0x2F048B38 := by decide +kernel

/-- 09_training_numerics.md, the worked example of R265: with that draw, element 4 of the worked block becomes 3.0, code 5. -/
theorem test_stochastic_element : (convertBlock .kf4 false 16 (some 12) (.stochastic (List.replicate 16 0x2F048B38)) (f32 0x44800000)
    workedBlock).codes.getD 4 0 = 5 := by decide +kernel

/-- 09_training_numerics.md: under K2 emulation the worked block's scale is 2 (0x80), and 10.2 becomes 6.0 (code 7). -/
theorem test_k2_block : let r := convertBlock .kf4 true 32 (some 24) .nearest (f32 0x44800000) workedBlock
    r.scale = 0x80 ∧ r.codes.getD 0 0 = 7 := by decide +kernel

/-- 03_number_formats.md, the worked example of R101: P is 42, the block result 9.1875, and 100,000,000 becomes 100,000,008. -/
theorem test_block_product : let a : Block := ⟨0x7E, Fp.one, [12, -4, 1, 0, 6, -12, 2], none, false⟩
    let b : Block := ⟨0x70, Fp.one, [2, 3, -4, 12, 1, -1, 8], none, false⟩
    blockSum a.ks b.ks = 42 ∧ w32 (blockResult .kf4 .kf4 a b) = 0x41130000 ∧
      w32 ((Acc.zero.add .nearest 0 (Fp.ofInt 100000000)).add .nearest 0 (blockResult .kf4 .kf4 a b)).value = 0x4CBEBC21 := by decide +kernel

/-- 09_training_numerics.md: 13.5 added to 100,000,000 gives 100,000,008 toward zero and 100,000,016 to nearest. -/
theorem test_accumulator_roundings :
    w32 ((Acc.zero.add .towardZero 0 (Fp.ofInt 100000000)).add .towardZero 0 (.fin false 27 (-1))).value = 0x4CBEBC21 ∧
    w32 ((Acc.zero.add .nearest 0 (Fp.ofInt 100000000)).add .nearest 0 (.fin false 27 (-1))).value = 0x4CBEBC22 := by decide +kernel

/-- 03_number_formats.md, the worked example of R98: mantissa −26,414,049 has residue 3, and the entry is 0x3E6C_F41F. -/
theorem test_kp32_entry : residue7 (-26414049) = 3 ∧ (⟨120, [(-26414049, 3)]⟩ : Kp32).packed = 0x3E6CF41F := by decide +kernel

/-- 03_number_formats.md, the same example: −0.0123 gives X = 120 and, with a draw below its fraction, that mantissa; 10⁻⁹ is 2 or 3. -/
theorem test_kp32_conversion : let u := toKp32 (.stochastic [0, 0]) [.fin true (26414048 * 128 + 111) (-38), .fin false 2199 (-41)]
    u.x = 120 ∧ u.entries.getD 0 (0, 0) = (-26414049, 3) ∧ (u.entries.getD 1 (0, 0)).1 = 3 := by decide +kernel

/-- A unit of one entry. -/
def unitOf (x : Nat) (m : Int) : Kp32 := ⟨x, (m, residue7 m) :: List.replicate 31 (0, 0)⟩

/-- The unit that an addition gives. -/
def sumOf (r : AddResult) : Kp32 :=
  match r with
  | .sum u _ _ => u
  | .residueFault => Kp32.poisonedUnit

/-- 12_collective_update.md, the worked example of R353: a + b + c is 55,000,000 × 2⁻³⁰, and c + a + b is 110,000,002 × 2⁻³¹. -/
theorem test_combiner_orders :
    sumOf (kpAdd (sumOf (kpAdd (unitOf 120 100000001) (unitOf 120 60000000))) (unitOf 120 (-49999999))) = unitOf 121 55000000 ∧
    sumOf (kpAdd (sumOf (kpAdd (unitOf 120 (-49999999)) (unitOf 120 100000001))) (unitOf 120 60000000)) = unitOf 120 110000002 := by
  decide +kernel

/-- 05_array_programming.md, the worked example of R142: c is 25/512, −0.017333984375 gives m = −23 and the largest weight 51. -/
theorem test_row_scale : let c := rowScale (.fin false 5 (-2)) [.fin false 40 (-10), .fin true 71 (-12)]
    c.cmp (.fin false 25 (-9)) = some .eq ∧ target c (.fin true 71 (-12)) = (-23, false) ∧ target c (.fin false 40 (-10)) = (51, false) := by
  decide +kernel

/-- 16_power_and_metrology.md, the worked example of R469: input 8 with 6,291,456 gives 48.000 V. -/
theorem test_input_voltage : State.reset.ch1.metroValue 1 8 6291456#24 = 0x42400000#32 := by decide +kernel

/-- 00_scope.md, R7: CH0 M0 joins CH1 M2, and CH1 M1 joins CH3 M1. -/
theorem test_module_ports : mPort 0 1 = 0 ∧ mPort 1 0 = 2 ∧ mPort 1 3 = 1 ∧ mPort 3 1 = 1 := by decide

/-- 11_system_topology.md (R324): CH1.B13 of position 6 joins CH1.B17 of position 20; B13 is port 16 and B17 port 20 (R192). -/
theorem test_block_ports : bPort 6 20 = 16 ∧ bPort 20 6 = 20 := by decide

/-- 13_safety_net.md: CH2 of module 70 is channel address 282, in block 2. -/
theorem test_channel_address : let s := live.setEnt (odKey 0x5000 1) 70
    s.address 2 = 282 ∧ s.block = 2 ∧ addrBlock 282 = 2 ∧ addrPos 282 = 6 ∧ addrChan 282 = 2 := by decide +kernel

/-- 00_scope.md, the worked example of R16, in the 32-bit space of a Miger SEQUENCE: 3 is later than −2, and not the other way round. -/
theorem test_sequence_order : seqLater 3 (-2) = true ∧ seqLater (-2) 3 = false := by decide

/-! ### Commands -/

/-- The state that a command answers satisfies `p`. -/
def runs (i : Instr) (s : State) (p : State → Bool) : Bool :=
  match exec i s with
  | .next t => p t
  | _ => false

/-- No row of the table gives bits (log entry 3), so no word spells a command and withFetchWord changes nothing. -/
theorem test_no_word : decodeTableWord 32 0 = none ∧ State.reset.withFetchWord 32 0 = State.reset := ⟨rfl, rfl⟩

/-- A step takes the front command and leaves the rest of the queue. -/
theorem test_queue : (match step { live with pending := [.timebaseLowRead 0, .epochPulse] } with
    | .next t => t.pending == [.epochPulse] && t.out == [.readData 0]
    | _ => false) = true := by decide +kernel

/-- An empty queue lets the timebases under power advance by one (R55: 10 ns; log entry 1). -/
theorem test_tick : (match step (modular (fun m => { m with on := true }) State.reset) with
    | .next t => t.module.clock.timebase == 1 && t.ch0.clock.timebase == 0
    | _ => false) = true := by decide +kernel

/-- R60: the low half is returned, the high half latched. -/
theorem test_timebase_low_read : runs (.timebaseLowRead 0)
    (on0 (fun h => { h with clock := { h.clock with timebase := 0x0000000700000009#64 } }) live)
    (fun t => t.out.head? == some (.readData 9) && t.ch0.clock.high == 7) = true := by decide +kernel

/-- R246, R95: 1.0 added to value 1 of a group by its mask bit, and not to value 0; the statuses name no occurrence. -/
theorem test_accumulate_write : runs (.accumulateWrite 0 64 2 (List.replicate 10 0x3F800000#32)) live
    (fun t => t.ch0.nat 64 6 == 0 && t.ch0.nat 70 6 == 0x3F8000000000 && t.out.head? == some (.accumulateStatus (List.replicate 10 0))) =
      true := by decide +kernel

/-- R95, R269, Table 9.5: +∞ added to −∞ in value 0 gives NaN, with kind 0x01. -/
theorem test_accumulate_invalid : runs (.accumulateWrite 0 64 1 (List.replicate 10 0x7F800000#32))
    (on0 (fun h => h.writeNat 64 6 0xFF8000000000) live)
    (fun t => Fp.decode ka48 (t.ch0.nat 64 6) == .nan && t.out.head? == some (.accumulateStatus (1 :: List.replicate 9 0))) = true := by
  decide +kernel

/-- R246: READ_CLEAR returns the ten values and leaves +0. -/
theorem test_read_clear : runs (.readClear 0 64) (on0 (fun h => h.writeNat 64 6 0x3F8000000000) live)
    (fun t => t.ch0.nat 64 6 == 0 && t.out.head? == some (.readValues (0x3F8000000000 :: List.replicate 9 0))) = true := by decide +kernel

/-- A burst that is none: no multiple of 64 (log entry 104). -/
theorem test_misplaced_burst : (match exec (.clear 0 32 64) live with
    | .fault f => f == .noSuchBurst
    | _ => false) = true := by decide +kernel

/-- 17_object_dictionary.md, Table 17.2: a reserved index is answered with status 0x01 and no data. -/
theorem test_read_of_no_object : runs (.odRead .mailbox 0x0FFF 0 0 4) live
    (fun t => t.out.head?.any (fun o => match o with
      | .odResponse _ status _ _ _ data => status == 1 && data.isEmpty
      | _ => false)) = true := by decide +kernel

/-- R416: with SQ_SIZE 8, head 4 and tail 5, SQ_TAIL moves to 3 and not to 4, which would fill the carousel. -/
theorem test_tail_bound : let s := on0 (fun h => h.setContext 0 { h.context 0 with enabled := true, sqSize := 8, sqHead := 4, sqTail := 5 }) live
    runs (.sqTail 0 0 3) s (fun t => (t.ch0.context 0).sqTail == 3) = true ∧
      runs (.sqTail 0 0 4) s (fun t => (t.ch0.context 0).sqTail == 5) = true := by decide +kernel

/-- R454: POWER_COMMAND 1 on the mailbox in P0 makes P1 the target of a transition. -/
theorem test_power_command : runs (.powerCommand .mailbox 0 1) live (fun t => t.ch0.power.target == .p1 && t.ch1.power == live.ch1.power) = true := by
  decide +kernel

/-- R547: after module power-off no channel and no port complex is on. -/
theorem test_power_off : runs .modulePowerOff live (fun t => !t.module.on && !t.module.alive && t.ch0.power.state == .p4) = true := by
  decide +kernel

/-! ### Witnesses -/

/-- Meets the hypotheses of EmptyQueueTicks, clause by clause. -/
theorem witness_EmptyQueueTicks :
    (live.pending.isEmpty && live.module.on : Bool) = true ∧ (State.reset.pending.isEmpty && !State.reset.module.on : Bool) = true := by
  decide +kernel

/-- Meets the hypotheses of MemoryFormKept, clause by clause. -/
theorem witness_MemoryFormKept :
    (Memory.wf (fields 64 [(0, 4, 7)] live).ch0.mem && (match step live with | .next _ => true | _ => false) : Bool) = true := by
  decide +kernel

/-- Meets the hypotheses of ChannelsKeptApart, clause by clause. -/
theorem witness_ChannelsKeptApart :
    (decide (commandChannel (.perfSnapshot 0) = some 0) && (match exec (.perfSnapshot 0) live with | .next _ => true | _ => false) : Bool) = true := by
  decide +kernel

/-- Meets the hypotheses of TimebaseLowRead, clause by clause. -/
theorem witness_TimebaseLowRead :
    (live.hostReaches && live.available 0 : Bool) = true ∧ (live.hostReaches && !live.available 1 : Bool) = true := by
  decide +kernel

/-- Meets the hypotheses of EpochPulseLoadsOrChecks, clause by clause. -/
theorem witness_EpochPulseLoadsOrChecks :
    (live.module.on : Bool) = true ∧ (TbStatus.holdover ⟨0, false, false, true, false, false⟩ : Bool) = true ∧
    (!(TbStatus.reset.holdover) && TbStatus.loadArmed ⟨0, true, false, false, false, false⟩ : Bool) = true ∧
    (!(TbStatus.reset.holdover) && !TbStatus.reset.loadArmed : Bool) = true := by
  decide +kernel

/-- Meets the hypotheses of ReferenceLossAndSnapshots, clause by clause. -/
theorem witness_ReferenceLossAndSnapshots :
    (live.module.refPresent && live.module.on : Bool) = true ∧
    (!(modular (fun m => { m with refPresent := false }) live).module.refPresent : Bool) = true ∧
    (State.reset.module.refPresent && !State.reset.module.on : Bool) = true ∧ (live.hostServed 0 && !live.ch0.perf.busy : Bool) = true ∧
    ((on0 (fun h => { h with perf := { h.perf with busy := true } }) live).hostServed 0 : Bool) = true := by
  decide +kernel

/-- Meets the hypotheses of ModulePowerOnAndOff, clause by clause. -/
theorem witness_ModulePowerOnAndOff :
    (!State.reset.module.on && decide (36000 ≤ 36000 ∧ 60000 ≤ 60000) : Bool) = true ∧ (live.module.on : Bool) = true ∧
    (State.reset.module.refPresent : Bool) = true ∧
    (let s := modular (fun m => { m with refPresent := false }) State.reset; !s.module.on && !s.module.refPresent : Bool) = true := by
  decide +kernel

/-- Meets the hypotheses of PortComplexRestartAndFailure, clause by clause. -/
theorem witness_PortComplexRestartAndFailure :
    (live.module.on && live.module.alive : Bool) = true ∧
    ((modular (fun m => { m with fw := { m.fw with trial := 1 } }) live).module.fw.trial == 1 : Bool) = true ∧
    ((modular (fun m => { m with fw := { m.fw with state := 4 } }) live).module.fw.state == 4 : Bool) = true ∧
    (let s := modular (fun m => { m with rampQueue := [0, 1] }) live; s.module.on && s.module.rampQueue == [0, 1] : Bool) = true := by
  decide +kernel

/-- Meets the hypotheses of PowerLossOpensFuses, clause by clause. -/
theorem witness_PowerLossOpensFuses :
    (live.module.on && live.ch0.power.fuseClosed : Bool) = true ∧ (decide (36000 ≤ 36000 ∧ 36000 < 39000) : Bool) = true ∧
    (decide (36000 ≤ 60001 ∧ 60000 < 60001) : Bool) = true ∧
    (live.module.alive && decide (36000 ≤ 38999 ∧ 38999 < 39000 ∧ 39000 ≤ 39000 ∧ 60000 ≤ 60000 ∧ 35999 < 36000) : Bool) = true ∧
    (!State.reset.module.on && !(power0 (fun p => { p with fuseClosed := false }) live).ch0.power.fuseClosed : Bool) = true ∧
    (!(modular (fun m => { m with alive := false }) live).module.alive : Bool) = true := by
  decide +kernel

/-- Meets the hypotheses of ProtectionTrips, clause by clause. -/
theorem witness_ProtectionTrips :
    (live.ch0.up && !live.ch0.safe : Bool) = true ∧
    (let s := on0 (fun h => h.setSlot 1 { h.slotB with present := true }) live; s.ch0.power.cartSupply && (s.ch0.slot 1).present && decide (Slot.owner 1 = 0 ∧ (Slot.side 1).val = 1) : Bool) = true ∧
    (live.module.on : Bool) = true ∧
    (!State.reset.module.on && !State.reset.ch0.up : Bool) = true ∧
    (!(live.ch0.slot 1).present && !(power0 (fun p => { p with cartSupply := false }) live).ch0.power.cartSupply : Bool) = true ∧
    ((power0 (fun p => { p with safeCause := 8 }) live).ch0.up : Bool) = true := by
  decide +kernel

/-- Meets the hypotheses of SafeStateEntered, clause by clause. -/
theorem witness_SafeStateEntered :
    (live.ch0.up && !live.ch0.safe : Bool) = true ∧ ((power0 (fun p => { p with safeCause := 8 }) live).ch0.safe : Bool) = true ∧
    (!State.reset.ch0.up : Bool) = true := by
  decide +kernel

/-- Meets the hypotheses of ThrottleRun, clause by clause. -/
theorem witness_ThrottleRun :
    (live.module.on : Bool) = true ∧ (decide (8 < 9 ∧ 9 ≤ 9) : Bool) = true ∧ (decide (2 ≤ 2 ∧ 2 ≤ 16 ∧ 9 ≤ 9) : Bool) = true := by
  decide +kernel

/-- Meets the hypotheses of PcieLinkAndVectors, clause by clause. -/
theorem witness_PcieLinkAndVectors :
    (live.module.on && live.module.alive : Bool) = true ∧
    (!(modular (fun m => { m with endpoint := Endpoint.reset }) live).module.endpoint.linkUp : Bool) = true ∧ (live.hostReaches : Bool) = true := by
  decide +kernel

/-- Meets the hypotheses of PcieEventsKeepChannels, clause by clause. -/
theorem witness_PcieEventsKeepChannels :
    ([live.ch0, live.ch1, live.ch2, live.ch3].all (fun h => h.transfer.isNone) : Bool) = true := by
  decide +kernel

/-- Meets the hypotheses of CartridgeLatches, clause by clause. -/
theorem witness_CartridgeLatches :
    (!(live.ch0.slot 0).latchClosed : Bool) = true ∧
    (let s := on0 (fun h => h.setSlot 0 { h.slotA with latchClosed := true }) live; (s.ch0.slot 0).latchClosed && s.ch0.power.cartSupply : Bool) = true ∧
    (let s := power0 (fun p => { p with cartSupply := false }) (on0 (fun h => h.setSlot 0 { h.slotA with latchClosed := true }) live); (s.ch0.slot 0).latchClosed && !s.ch0.power.cartSupply : Bool) = true := by
  decide +kernel

/-- Meets the hypotheses of PowerCommandsAndSteps, clause by clause. -/
theorem witness_PowerCommandsAndSteps :
    (passing live .mailbox 0x2800 1 0 (leBytes 1 1) none && (live.commandPower 0 1).2 == 0 : Bool) = true ∧
    (passing live .mailbox 0x2800 4 0 (leBytes 1 4) none && (live.commandPower 3 4).2 == 0 : Bool) = true ∧
    ((modular (fun m => { m with rampQueue := [0, 2] }) live).module.rampQueue == 0 :: [2] && State.reset.ch0.power.state == .p4 : Bool) = true ∧
    (let s := power0 (fun p => { p with state := .p0, stepTo := .p1, inTransition := true }) live; s.ch0.power.waiting == 0 && !s.starting 0 && !s.ch0.safe && !s.ch0.jobs.any Job.running && s.ch0.selfTest.isNone && s.ch0.arrays.progs.isEmpty && s.ch0.arrays.cals.isEmpty : Bool) = true ∧
    (let s := power0 (fun p => { p with state := .p1, stepTo := .p0, inTransition := true }) live; s.ch0.power.waiting == 0 && !s.starting 0 && !s.ch0.safe && !s.ch0.jobs.any Job.running && s.ch0.selfTest.isNone && s.ch0.arrays.progs.isEmpty && s.ch0.arrays.cals.isEmpty : Bool) = true ∧
    (let s := power0 (fun p => { p with state := .p1, stepTo := .p2, inTransition := true }) live; s.ch0.power.waiting == 0 && !s.starting 0 && !s.ch0.safe && !s.ch0.jobs.any Job.running && s.ch0.selfTest.isNone && s.ch0.arrays.progs.isEmpty && s.ch0.arrays.cals.isEmpty : Bool) = true ∧
    (let s := power0 (fun p => { p with state := .p2, stepTo := .p1, inTransition := true }) live; s.ch0.power.waiting == 0 && !s.starting 0 && !s.ch0.safe && !s.ch0.jobs.any Job.running && s.ch0.selfTest.isNone && s.ch0.arrays.progs.isEmpty && s.ch0.arrays.cals.isEmpty : Bool) = true ∧
    (let s := power0 (fun p => { p with state := .p2, stepTo := .p3, inTransition := true }) live; s.ch0.power.waiting == 0 && !s.starting 0 && !s.ch0.safe && !s.ch0.jobs.any Job.running && s.ch0.selfTest.isNone && s.ch0.arrays.progs.isEmpty && s.ch0.arrays.cals.isEmpty : Bool) = true ∧
    (let s := power0 (fun p => { p with state := .p3, stepTo := .p4, inTransition := true }) live; s.ch0.power.waiting == 0 && !s.starting 0 && !s.ch0.safe && !s.ch0.jobs.any Job.running && s.ch0.selfTest.isNone && s.ch0.arrays.progs.isEmpty && s.ch0.arrays.cals.isEmpty : Bool) = true ∧
    ((power0 (fun p => { p with booting := some .cold }) live).ch0.power.booting == some .cold : Bool) = true ∧
    (live.module.rampQueue.isEmpty && live.module.on && live.module.alive : Bool) = true ∧
    (let s := power0 (fun p => { p with state := .p3 }) (modular (fun m => { m with rampQueue := [0] }) live); s.module.rampQueue == 0 :: [] && s.ch0.power.state == .p3 : Bool) = true ∧
    (State.reset.module.rampQueue.isEmpty && !State.reset.module.on && !(modular (fun m => { m with alive := false }) live).module.alive : Bool) = true := by
  decide +kernel

/-- Meets the hypotheses of PowerTargetsRefused, clause by clause. -/
theorem witness_PowerTargetsRefused :
    ((power0 (fun p => { p with safeCause := 2 }) live).ch0.safe && decide (2 < 3) : Bool) = true ∧
    (State.reset.ch0.power.state == .p4 : Bool) = true ∧
    (live.ch0.power.state == PState.ofTarget 0 && !live.ch0.power.inTransition && !live.ch0.safe : Bool) = true := by
  decide +kernel

/-- Meets the hypotheses of CoreVoltageAndLimitWrites, clause by clause. -/
theorem witness_CoreVoltageAndLimitWrites :
    (live.hostServed 0 && decide (600 ≤ (850#32).toNat % 65536 ∧ (850#32).toNat % 65536 % 5 = 0) : Bool) = true ∧
    (decide (850 < (851#32).toNat % 65536) : Bool) = true ∧
    (passing live .mailbox 0x2000 1 0 (leBytes 2 600) (some 0) && (live.setVoltage 0 600).2 == 0 : Bool) = true ∧
    ((live.setClamp 0 600).2 == 0 && (live.setTempLimits 0 1 0x04 840 480 40 (480 * 65536 + 440)).2 == 0 && (live.setTempLimits 0 2 0x05 680 320 24 (320 * 65536 + 296)).2 == 0 : Bool) = true ∧
    (passing live .mailbox 0x2800 0x12 0 (leBytes 4 0x41700000) none && (live.setCurrentLimit false 0x41700000).2 == 0 : Bool) = true ∧
    (passing live .mailbox 0x2800 0x13 0 (leBytes 4 0x41A00000) none && (live.setCurrentLimit true 0x41A00000).2 == 0 : Bool) = true := by
  decide +kernel

/-- Meets the hypotheses of MetrologyConversion, clause by clause. -/
theorem witness_MetrologyConversion :
    (live.ch0.up && (on0 (fun h => { h with metro := { h.metro with input := 8 } }) live).ch0.metro.input != 0 : Bool) = true := by
  decide +kernel

/-- Meets the hypotheses of RegisterWrites, clause by clause. -/
theorem witness_RegisterWrites :
    (live.hostReaches && decide (6 < bar2Base) && decide (6 % 4 ≠ 0) : Bool) = true ∧
    (live.takesWrites (chBase 0 + 0x40) && wideRegister (chBase 0 + 0x40) && decide (chBase 0 + 0x40 < bar2Base) : Bool) = true ∧
    (let o := chBase 0 + 0x40; let s := modular (fun m => { m with endpoint := { m.endpoint with halves := [(o, some 5#32)] } }) live; s.takesWrites (o + 4) && !wideRegister (o + 4) && wideRegister o && mget none o s.module.endpoint.halves == some 5#32 && o % 8 == 0 : Bool) = true ∧
    (live.takesWrites (chBase 0 + 0x50) && !wideRegister (chBase 0 + 0x50) && !wideRegister (chBase 0 + 0x4C) : Bool) = true := by
  decide +kernel

/-- Meets the hypotheses of ApertureWriteFrame, clause by clause. -/
theorem witness_ApertureWriteFrame :
    (live.hostReaches && Memory.wf live.ch0.mem && Memory.wf live.ch1.mem && Memory.wf live.ch2.mem && Memory.wf live.ch3.mem && [live.ch0, live.ch1, live.ch2, live.ch3].all (fun h => mapWf 0 h.perf.counters && decide (mget 0 78 h.perf.counters + 8 < 2 ^ 64 - 1)) : Bool) = true ∧
    (let e := { Endpoint.reset with apertures := [(0, 1)] }; (e.apertureByte 0).any (fun q => live.available q.1 && apertureReaches q.2) : Bool) = true ∧
    (!live.available 1 && !apertureReaches retransmitBase : Bool) = true ∧
    (let h := { live.ch0 with perf := { live.ch0.perf with counters := [(78, 2 ^ 64 - 1)] } }; mapWf 0 h.perf.counters && mget 0 78 h.perf.counters == 2 ^ 64 - 1 : Bool) = true := by
  decide +kernel

/-- Meets the hypotheses of UnavailableChannelRegisters, clause by clause. -/
theorem witness_UnavailableChannelRegisters :
    (!live.available 1 && live.hostReaches : Bool) = true ∧
    ((power0 (fun p => { p with safeCause := 1, state := .p4 }) live).available 0 : Bool) = true := by
  decide +kernel

/-- Meets the hypotheses of DoorbellRule, clause by clause. -/
theorem witness_DoorbellRule :
    (live.hostServed 0 && (let k := { Context.reset 0 with enabled := true, sqSize := 4, cqSize := 4 }; k.enabled && !k.draining && decide (k.sqTail < k.sqSize ∧ k.sqHead < k.sqSize ∧ k.cqTail < k.cqSize ∧ k.cqHead < k.cqSize)) : Bool) = true ∧
    (decide (live.ch0.host.events.tail < 8192 ∧ live.ch0.host.events.head < 8192) : Bool) = true ∧
    (!(live.ch0.context 0).enabled : Bool) = true ∧ (decide (live.ch0.host.doorbellErrors.value + 1 < 2 ^ 63 - 1) : Bool) = true := by
  decide +kernel

/-- Meets the hypotheses of ContextsAndEventCarousel, clause by clause. -/
theorem witness_ContextsAndEventCarousel :
    (let s := on0 (fun h => h.setContext 0 { Context.reset 0 with sqSize := 16, cqSize := 8192, sqBase := 4096, cqBase := 8192 }) live; !(s.ch0.context 0).enabled && s.ch0.contextOk 0 : Bool) = true ∧
    (!(live.ch0.context 0).enabled && !live.ch0.contextOk 0 : Bool) = true ∧
    (let s := on0 (fun h => h.setContext 0 { Context.reset 0 with enabled := true, sqSize := 4, cqSize := 4 }) live; (s.ch0.context 0).enabled : Bool) = true ∧
    (!(0#32 &&& 0xFFFFFF01#32).getLsbD 0 : Bool) = true ∧
    ((1#32 &&& 0xFFFFFF01#32).getLsbD 0 && !live.ch0.host.events.enabled && live.ch0.host.events.base % 4096 == 0 && hbmFree live.ch0.host.events.base (32 * 8192) && !(live.ch0.carousels none).any (overlapRange live.ch0.host.events.span) : Bool) = true ∧
    (let k := { Context.reset 0 with gathered := ⟨1, none⟩, coalesceReg := 0x00010004#32 }; k.gathered.count != 0 && k.coalesceReg.extractLsb' 16 16 != 0 : Bool) = true ∧
    (let k := { Carousel.reset with gathered := ⟨1, none⟩, control := 0x00010001#32 }; k.gathered.count != 0 && k.control.extractLsb' 16 16 != 0 : Bool) = true := by
  decide +kernel

/-- Meets the hypotheses of EntriesThatNameNoWork, clause by clause. -/
theorem witness_EntriesThatNameNoWork :
    (let s := on0 (fun h => h.setContext 0 { Context.reset 0 with enabled := true, sqSize := 4, cqSize := 4, sqBase := 4096, cqBase := 8192, sqTail := 1 }) live; s.ch0.served && !s.ch0.safe && s.ch0.nextFetch == some 0 && ((s.onChan 0 (fun h => h.fetch 0)).ready 0 s.ch0.nextId tyBadAddress).isNone : Bool) = true ∧
    (((job tyNop 0 live).ready 0 0 tyNop).isSome : Bool) = true ∧ (((job tyFence 0 live).ready 0 0 tyFence).isSome : Bool) = true ∧
    (((job tyAbandon 0 live).ready 0 0 tyAbandon).isSome && live.ch0.training.program.isNone : Bool) = true ∧
    (let s := prog 1 [] (job tyAbandon 0 live); (s.ready 0 0 tyAbandon).any (fun j => !(j.phase == .begun)) && s.ch0.training.program.isSome : Bool) = true ∧
    (let s := job tyInvalid 0 live; (s.ready 0 0 tyInvalid).any (fun j => ((s.failJob 0 j 0x04 0 0).ready 0 0 tyBadAddress).isNone) : Bool) = true ∧
    (let s := job tyBadAddress 0 live; (s.ready 0 0 tyInvalid).isNone && (s.ready 0 0 tyBadAddress).isSome : Bool) = true := by
  decide +kernel

/-- Meets the hypotheses of HostTransfersAndCounters, clause by clause. -/
theorem witness_HostTransfersAndCounters :
    (let s := fields 64 [(0, 2, 0xA0), (2, 1, 1), (8, 8, 64), (16, 8, 128), (24, 8, 64)] (job 0xA0 64 live); (s.ready 0 0 0xA0).any (fun j => (s.ch0.transferOffence j.addr).isNone) && s.moverOpen : Bool) = true ∧
    (let s := phased 0xA0 64 (.transfer true 0 0 8192 0) live; s.moverOpen && s.nextMoved == some 0 && s.ch0.transfer.any (fun j => j.phase == .transfer true 0 0 8192 0) && decide (0 + pieceLength 8192 0 ≠ 8192) : Bool) = true ∧
    (let s := phased 0xA0 64 (.transfer false 0 0 64 0) live; s.moverOpen && s.nextMoved == some 0 && s.ch0.transfer.any (fun j => j.phase == .transfer false 0 0 64 0) && decide (0 + pieceLength 64 0 = 64) : Bool) = true ∧
    (live.hostReaches && live.available 0 : Bool) = true ∧
    (let s := phased 0xA0 64 (.transfer false 0 0 8192 4096) live; s.moverOpen && s.nextMoved == some 0 && s.ch0.transfer.any (fun j => j.phase == .transfer false 0 0 8192 4096) && decide (4096 + pieceLength 8192 4096 = 8192 ∧ ([] : List Byte).length ≠ pieceLength 8192 4096 ∧ (List.replicate 4096 0#8).length = pieceLength 8192 4096) : Bool) = true ∧
    (let s := phased 0xA0 64 (.transfer true 0 0 4096 0) live; s.nextMoved == some 0 && decide (0 + pieceLength 4096 0 = 4096) : Bool) = true := by
  decide +kernel

/-- Meets the hypotheses of RequestsServed, clause by clause. -/
theorem witness_RequestsServed :
    (passing live .mailbox 0x5000 1 0 (leBytes 2 5) none && (live.entryRule .mailbox 0x5000 1 0 (leBytes 2 5)).2 == 0 && !watchesDegraded 0x5000 1 && (odArea 0x5000).1 != 0x7100 && (odArea 0x5000).1 != 0x1110 : Bool) = true ∧
    (live.pathOpen .mailbox && (live.requestCheck .mailbox false 0x5000 1 2).1 == 0 && (live.requestCheck .mailbox false 0x5000 1 2).2.any (fun r => decide (r.ty < 8) && odSize r.ty == 2 && r.code (live.roleOf .mailbox) != 3) : Bool) = true ∧
    ((live.requestCheck .mailbox false 0x1100 2 32).1 == 0 && (live.requestCheck .mailbox false 0x1100 2 32).2.any (fun r => r.ty == 9 && r.index == 0x1100 && r.code (live.roleOf .mailbox) != 3) : Bool) = true ∧
    (let s := session live; s.pathOpen (.session 1) && (s.session 1).isSome && decide ((List.replicate 8 0#8).length = 8) : Bool) = true := by
  decide +kernel

/-- Meets the hypotheses of RefusedRequestsChangeNothing, clause by clause. -/
theorem witness_RefusedRequestsChangeNothing :
    (live.pathOpen .mailbox && [(live.requestCheck .mailbox true 0xFFFF 1 1).1, (live.requestCheck .mailbox true 0x6200 0x10 1).1, (live.requestCheck .mailbox true 0x7200 0x12 1).1, (live.requestCheck .mailbox true 0x1111 0x30 1).1, (live.requestCheck .mailbox true 0x1111 0x03 1).1, (live.requestCheck .mailbox true 0x5100 1 4).1, (live.requestCheck .mailbox true 0x7000 0x10 4081).1, (live.requestCheck .mailbox true 0x1100 0x03 4081).1].all (fun n => n != 0) : Bool) = true ∧
    (let s := modular (fun m => { m with endpoint := { m.endpoint with mailbox := { m.endpoint.mailbox with role := 0 } } }) live; s.pathOpen .mailbox && (s.requestCheck .mailbox true 0x2800 1 1).1 == 0 && (s.requestCheck .mailbox true 0x5000 1 2).1 != 0 && servedBy 0x5000 == some none && (odFind 0x5000 1).any (fun r => r.code (s.roleOf .mailbox) == 0 || r.code (s.roleOf .mailbox) == 1) : Bool) = true := by
  decide +kernel

/-- Meets the hypotheses of EntriesWritten, clause by clause. -/
theorem witness_EntriesWritten :
    (passing live .mailbox 0x5000 1 0 (leBytes 2 5) none : Bool) = true ∧
    (passing live .mailbox 0x8000 (policySub .mixedVersion) 0 (leBytes 1 1) none && passing live .mailbox 0x8000 (policySub .liveService) 0 (leBytes 1 1) none : Bool) = true ∧
    (passing live .mailbox 0x5100 (0x81 + 41) 0 (leBytes 1 0) (some 0) : Bool) = true ∧
    (passing live .mailbox 0x5100 (1 + 41) 0 (leBytes 4 0) (some 0) && (live.setPlan 0 41 0).2 == 0 : Bool) = true ∧
    (passing live .mailbox 0x6100 0x18 0 (List.replicate 16 0#8) (some 0) : Bool) = true ∧
    (passing live .mailbox 0x6100 0x10 0 (leBytes 1 3) (some 0) && live.ch0.numericsIdle : Bool) = true ∧
    (let s := on0 (fun h => { h with training := { h.training with recordSinceSeed := true } }) (committing (grouped (alone .active) live)); passing s .mailbox 0x5030 0x0A 0 (leBytes 1 1) (some 0) && (s.commitGroup 0).any Group.live && s.ch0.training.program.isNone && s.ent (kSafe 0 2) == s.ch0.lastStep && s.ch0.coll.steps.isEmpty : Bool) = true := by
  decide +kernel

/-- Meets the hypotheses of ChannelFirmwareUpdate, clause by clause. -/
theorem witness_ChannelFirmwareUpdate :
    (passing live .mailbox 0x7100 0x12 0 (leBytes 1 1) (some 0) && live.ch0.fw.mayStage : Bool) = true ∧
    (let s := on0 (fun h => { h with fw := { h.fw with state := 1 } }) live; s.ch0.fw.state == 1 && s.ch0.up : Bool) = true ∧
    (let s := on0 (fun h => { h with fw := { h.fw with state := 2 } }) live; s.ch0.fw.state == 2 && s.ch0.up && !s.ch0.safe : Bool) = true ∧
    (let s := on0 (fun h => { h with fw := { h.fw with state := 3 } }) live; passing s .mailbox 0x7100 0x12 0 (leBytes 1 2) (some 0) && s.ch0.fw.mayActivate && s.ch0.free && !s.ch0.safe && !s.othersHoldGroup 0 : Bool) = true ∧
    (let s := on0 (fun h => { h with fw := { h.fw with state := 4 } }) live; passing s .mailbox 0x7100 0x12 0 (leBytes 1 3) (some 0) && s.ch0.fw.state == 4 : Bool) = true ∧
    (passing live .mailbox 0x7100 0x12 0 (leBytes 1 4) (some 0) && live.ch0.mayReboot : Bool) = true ∧
    (let s := on0 (fun h => { h with fw := { h.fw with trial := 2 } }) live; s.ch0.fw.trial == 2 && s.ch0.up : Bool) = true := by
  decide +kernel

/-- Meets the hypotheses of PortFirmwareRecoveryAndKeys, clause by clause. -/
theorem witness_PortFirmwareRecoveryAndKeys :
    (passing live .mailbox 0x7000 0x10 0 [1#8, 2#8] none && live.module.fw.mayStage : Bool) = true ∧
    (passing live .mailbox 0x7000 0x11 0 (leBytes 1 1) none : Bool) = true ∧
    (let s := modular (fun m => { m with fw := { m.fw with state := 3 } }) live; passing s .mailbox 0x7000 0x11 0 (leBytes 1 2) none && s.module.fw.mayActivate : Bool) = true ∧
    (let s := modular (fun m => { m with fw := { m.fw with state := 4 } }) live; passing s .mailbox 0x7000 0x11 0 (leBytes 1 3) none && s.module.fw.state == 4 : Bool) = true ∧
    (let s := on0 (fun h => { h with fw := { h.fw with bootState := 2 } }) live; passing s .mailbox 0x1110 0x30 0 [1#8] (some 0) && s.ch0.fw.bootState == 2 && s.ch0.fw.trial != 1 && !recoveryDone [1#8] : Bool) = true ∧
    (passing live .mailbox 0x1110 2 0 (leBytes 1 1) (some 0) && decide ((live.dieFw (some 0)).revoked ||| 1 ≠ 15) : Bool) = true ∧
    (passing live .mailbox 0x1100 0x16 0 (leBytes 1 14) none && decide ((live.dieFw none).revoked ||| 14 ≠ 15) : Bool) = true := by
  decide +kernel

/-- Meets the hypotheses of AttestationRolesAndDebug, clause by clause. -/
theorem witness_AttestationRolesAndDebug :
    (passing live .mailbox 0x1110 0x10 0 (List.replicate 32 0#8) (some 0) && live.ch0.attest.nonce.length == 32 && live.ch0.fw.debugState == 0 : Bool) = true ∧
    ((on0 (fun h => { h with attest := { h.attest with signing := true } }) live).ch0.attest.signing && live.ch0.served : Bool) = true ∧
    (let s := modular (fun m => { m with creds := { m.creds with installerSecret := List.replicate 32 0#8 } }) live; passing s .mailbox 0x1100 3 0 (List.replicate 32 1#8) none && s.module.creds.installerSecret.length == 32 : Bool) = true ∧
    (live.pathOpen .mailbox && (live.challengeOf .mailbox).isNone : Bool) = true ∧
    (live.ch0.up && live.module.on && live.module.alive : Bool) = true ∧
    (let s := power0 (fun p => { p with state := .p1 }) live; passing s .mailbox 0x1110 3 0 (leBytes 1 1) (some 0) && decide (s.ch0.fw.debugCount < 16) && s.ch0.mayDebug : Bool) = true := by
  decide +kernel

/-- Meets the hypotheses of SelfTestOnDemand, clause by clause. -/
theorem witness_SelfTestOnDemand :
    (let s := power0 (fun p => { p with state := .p1 }) (live.setEnt (kFw 0 0x38) 65536); passing s .mailbox 0x7100 0x33 0 (leBytes 2 0x20) (some 0) && s.mayTest 0 (0x20 % 256) false : Bool) = true ∧
    (passing live .mailbox 0x7100 0x33 0 (leBytes 2 0x20) (some 0) && !live.mayTest 0 (0x20 % 256) false : Bool) = true ∧
    ((on0 (fun h => { h with selfTest := some ⟨0x20, false, []⟩ }) live).ch0.selfTest.any (fun x => !x.compat) : Bool) = true := by
  decide +kernel

/-- Meets the hypotheses of PowerOnLeavesChannels, clause by clause. -/
theorem witness_PowerOnLeavesChannels :
    (!State.reset.module.on && decide (36000 ≤ 36000 ∧ 60000 ≤ 60000) : Bool) = true := by
  decide +kernel

/-- Meets the hypotheses of BranchFaultStaysInItsChannel, clause by clause. -/
theorem witness_BranchFaultStaysInItsChannel :
    (live.module.on && live.ch0.power.fuseClosed : Bool) = true := by
  decide +kernel

/-- Meets the hypotheses of CommandsLeaveQueue, clause by clause. -/
theorem witness_CommandsLeaveQueue :
    (match exec (.snapshotComplete 0) live with | .next _ => true | _ => false : Bool) = true := by
  decide +kernel

/-- Meets the hypotheses of FusesOnlyAdded, clause by clause. -/
theorem witness_FusesOnlyAdded :
    ((match step live with | .next _ => true | _ => false) && [live.module.fw, live.ch0.fw, live.ch1.fw, live.ch2.fw, live.ch3.fw].all (fun f => decide (f.revoked < 15 ∧ f.debugCount ≤ 16)) : Bool) = true := by
  decide +kernel

/-- Meets the hypotheses of EngineDescriptors, clause by clause. -/
theorem witness_EngineDescriptors :
    ((job 0x20 64 live).ready 0 0 0x20 |>.any (fun j => isErr (live.ch0.loadProduct (live.loadEnv 0 j) j)) : Bool) = true ∧
    (let s := product live; (s.ready 0 0 0x20).any (fun j => okAnd (s.ch0.loadProduct (s.loadEnv 0 j) j) (fun e => okAnd (s.ch0.banksCheck j ([e.a, e.b, e.c] ++ e.deriv.toList)) (fun x => !x))) : Bool) = true ∧
    (let s := weight3 0x400 (product live); (s.ready 0 0 0x20).any (fun j => okAnd (s.ch0.loadProduct (s.loadEnv 0 j) j) (fun e => okAnd (s.ch0.banksCheck j ([e.a, e.b, e.c] ++ e.deriv.toList)) id)) : Bool) = true ∧
    (let s := product live; s.ch0.issues && okAnd (s.ch0.loadProduct (s.loadEnv 0 ⟨0, .sub 0 0 0 0, 64, 0x20, .started, [], []⟩) ⟨0, .sub 0 0 0 0, 64, 0x20, .started, [], []⟩) (fun e => decide (0 < e.tileCount) && !e.done.contains 0 && decide (e.tileCount ≤ 1) && { e with done := [0] }.done.contains 0) : Bool) = true ∧
    ((job 0x32 64 live).ready 0 0 0x32 |>.any (fun j => isErr (live.ch0.loadTranspose (live.loadEnv 0 j) j)) : Bool) = true ∧
    (let s := transposeOf live; (s.ready 0 0 0x32).any (fun j => okAnd (s.ch0.loadTranspose (s.loadEnv 0 j) j) (fun e => okAnd (s.ch0.banksCheck j [e.1, e.2]) (fun x => !x))) : Bool) = true ∧
    (let s := weight3 0x400 (transposeOf live); (s.ready 0 0 0x32).any (fun j => okAnd (s.ch0.loadTranspose (s.loadEnv 0 j) j) (fun e => okAnd (s.ch0.banksCheck j [e.1, e.2]) id)) : Bool) = true ∧
    ((job 0x30 64 live).ready 0 0 0x30 |>.any (fun j => isErr (live.ch0.loadRow (live.loadEnv 0 j) j)) : Bool) = true ∧
    (let s := rowOf live; (s.ready 0 0 0x30).any (fun j => okAnd (s.ch0.loadRow (s.loadEnv 0 j) j) (fun e => okAnd (s.ch0.banksCheck j e.tensors) (fun x => !x))) : Bool) = true ∧
    (let s := weight3 0x400 (rowOf live); (s.ready 0 0 0x30).any (fun j => okAnd (s.ch0.loadRow (s.loadEnv 0 j) j) (fun e => okAnd (s.ch0.banksCheck j e.tensors) id)) : Bool) = true ∧
    ((job 0x60 64 live).ready 0 0 0x60 |>.any (fun j => isErr (live.ch0.loadRaster (live.loadEnv 0 j) j)) : Bool) = true ∧
    (let s := rasterOf live; (s.ready 0 0 0x60).any (fun j => okAnd (s.ch0.loadRaster (s.loadEnv 0 j) j) (fun e => okAnd (s.ch0.banksCheck j [e.out]) (fun x => !x))) : Bool) = true ∧
    (let s := weight3 0x580 (rasterOf live); (s.ready 0 0 0x60).any (fun j => okAnd (s.ch0.loadRaster (s.loadEnv 0 j) j) (fun e => okAnd (s.ch0.banksCheck j [e.out]) id)) : Bool) = true ∧
    (let s := product live; (s.ready 0 0 0x20).any (fun j => okAnd (s.ch0.loadProduct (s.loadEnv 0 j) j) (fun e => let u := holding 0x20 (.product e) live; (u.ready 0 0 0x20).any (fun i => i.phase == .held (.product e) && !u.ch0.entryStarted i && okAnd (u.heldWait 0 i (.product e)) (fun w => w.isNone)))) : Bool) = true ∧
    (let s := transposeOf live; (s.ready 0 0 0x32).any (fun j => okAnd (s.ch0.loadTranspose (s.loadEnv 0 j) j) (fun e => let u := holding 0x32 (.transpose e.1 e.2) live; (u.ready 0 0 0x32).any (fun i => i.phase == .held (.transpose e.1 e.2) && !u.ch0.entryStarted i && okAnd (u.heldWait 0 i (.transpose e.1 e.2)) (fun w => w.isNone)))) : Bool) = true ∧
    (let s := rowOf live; (s.ready 0 0 0x30).any (fun j => okAnd (s.ch0.loadRow (s.loadEnv 0 j) j) (fun e => let u := holding 0x30 (.row e) live; (u.ready 0 0 0x30).any (fun i => i.phase == .held (.row e) && !u.ch0.entryStarted i && okAnd (u.heldWait 0 i (.row e)) (fun w => w.isNone)))) : Bool) = true ∧
    (let s := rasterOf live; (s.ready 0 0 0x60).any (fun j => okAnd (s.ch0.loadRaster (s.loadEnv 0 j) j) (fun e => let u := holding 0x60 (.raster e) live; (u.ready 0 0 0x60).any (fun i => i.phase == .held (.raster e) && !u.ch0.entryStarted i && okAnd (u.heldWait 0 i (.raster e)) (fun w => w.isNone)))) : Bool) = true ∧
    (let s := on0 (fun h => { h with training := { h.training with weights := h.training.weights.map (fun w => w.setHeld 0 (some 5)) } }) (weight3 0x400 (transposeOf live)); (s.ready 0 0 0x32).any (fun j => okAnd (s.ch0.loadTranspose (s.loadEnv 0 j) j) (fun e => isErr (s.ch0.banksCheck j [e.1, e.2]))) : Bool) = true ∧
    (let s := program0 (fun p => { p with states := [.running] }) (prog 1 [[entryOf 0xFFFF]] (transposeOf live)); let s := on0 (fun h => { h with jobs := h.jobs.map (fun j => { j with owner := .entry 0 0 0 1 0xFFFF false }) }) s; (s.ready 0 0 0x32).any (fun j => okAnd (s.ch0.loadTranspose (s.loadEnv 0 j) j) (fun _ => s.ch0.entryStarted j)) : Bool) = true := by
  decide +kernel

/-- Meets the hypotheses of BaseDieBursts, clause by clause. -/
theorem witness_BaseDieBursts :
    (burstOk 0 && burstOk (hbmSize - 64) && !burstOk hbmSize && !burstOk 6 && live.ch0.up : Bool) = true ∧
    (Memory.wf live.ch0.mem && Memory.wf live.ch1.mem && Memory.wf live.ch2.mem && Memory.wf live.ch3.mem : Bool) = true ∧
    (inHbm 64 128 && decide (64 % 64 = 0 ∧ 128 % 64 = 0) && !inHbm hbmSize 64 : Bool) = true := by
  decide +kernel

/-- Meets the hypotheses of WeightsAndPrograms, clause by clause. -/
theorem witness_WeightsAndPrograms :
    (let s := job 0x73 64 live; (s.ready 0 0 0x73).any (fun j => !s.ch0.releases j.addr && isErr (s.ch0.loadWeight (s.loadEnv 0 j) j)) : Bool) = true ∧
    (let s := weightOf live; (s.ready 0 0 0x73).any (fun j => !s.ch0.releases j.addr && s.ch0.nat (j.addr + 8) 2 == 0 && okAnd (s.ch0.loadWeight (s.loadEnv 0 j) j) (fun w => let u := on0 (fun h => { h.clearBuffer w.grad with training := { h.training with weights := h.training.weights ++ [w.setHeld 0 (some 0)] } }) s; !u.ch0.live (0 - 2))) : Bool) = true ∧
    (let s := live1 0xFFFF (weightOf live); (s.ready 0 0 0x73).any (fun j => !s.ch0.releases j.addr && s.ch0.nat (j.addr + 8) 2 == 0 && okAnd (s.ch0.loadWeight (s.loadEnv 0 j) j) (fun w => let u := on0 (fun h => { h.clearBuffer w.grad with training := { h.training with weights := h.training.weights ++ [w.setHeld 0 (some 0)] } }) s; u.ch0.live (0 - 2))) : Bool) = true ∧
    (let s := flagged 0x73 1 [(4, 2, 4095)] live; (s.ready 0 0 0x73).any (fun j => s.ch0.releases j.addr && s.ch0.nat j.addr 2 == 0x73 && decide (s.ch0.nat (j.addr + 4) 2 < 4096)) && s.ch0.training.program.isNone : Bool) = true ∧
    (let s := on0 (fun h => { h with training := { h.training with builds := [(2, [3])] } }) live; s.ch0.training.builds == (2, [3]) :: [] && s.ch0.issues && !s.ch0.live (2 - 2) : Bool) = true ∧
    (let s := prog 3 [[{ entryOf 3 with lastGrad := true }]] live; let s := on0 (fun h => { h with training := { h.training with builds := [(4, [3])], program := h.training.program.map (fun p => { p with begun := [0] }) } }) s; s.ch0.training.builds == (4, [3]) :: [] && s.ch0.issues && s.ch0.live (4 - 2) : Bool) = true ∧
    (let s := job 0x70 64 live; (s.ready 0 0 0x70).any (fun j => isErr (s.checkProgram 0 j)) && s.ch0.training.program.isNone && s.ch0.safety.refreshFirst.isEmpty : Bool) = true ∧
    (let s := programOf (committing (grouped (alone .active) live)); (s.ready 0 0 0x70).any (fun j => okAnd (s.checkProgram 0 j) (fun p => p.step == 1)) && s.ch0.training.program.isNone && s.ch0.safety.refreshFirst.isEmpty : Bool) = true ∧
    (let s := prog 1 [] (job 0x70 64 live); (s.ready 0 0 0x70).isSome && s.ch0.training.program.isSome : Bool) = true ∧
    (let s := safety0 (fun y => { y with refreshFirst := [4] }) (job 0x70 64 live); (s.ready 0 0 0x70).isSome && !s.ch0.safety.refreshFirst.isEmpty : Bool) = true ∧
    (let s := prog 1 [[entryOf 0xFFFF]] live; s.ch0.runs && s.ch0.training.program.any (fun p => ((p.slots.getD p.slot [])[0]?).any (fun e => p.mayStart 0 && e.weight == 0xFFFF)) : Bool) = true ∧
    (let s := weight3 0x400 (prog 1 [[entryOf 3]] live); let s := on0 (fun h => { h with training := { h.training with weights := h.training.weights.map (fun w => { w with handed := some 1 }) } }) s; s.ch0.runs && s.ch0.training.program.any (fun p => ((p.slots.getD p.slot [])[0]?).any (fun e => p.mayStart 0 && e.weight != 0xFFFF && s.ch0.bufferBusy e.weight && !p.gradWaited.contains 0)) : Bool) = true ∧
    (let x : Held := .transpose (live.ch0.tensorDesc 0) (live.ch0.tensorDesc 0); let s := program0 (fun p => { p with states := [.loaded] }) (prog 1 [[entryOf 3]] live); let s := on0 (fun h => { h with jobs := [⟨0, .entry 0 0 0 1 3 false, 64, 0x32, .held x, [], []⟩] }) s; s.ch0.runs && s.ch0.training.program.any (fun p => ((p.slots.getD p.slot [])[0]?).isSome && p.abandoned.isNone && p.states.getD 0 .done == .loaded && (s.ch0.entryJob p 0).any (fun j => j.phase == .held x)) : Bool) = true ∧
    (let s := phased 0x73 64 (.ended 0 0) live; (s.ch0.job 0).any (fun j => j.phase == .ended 0 0) : Bool) = true ∧
    (let s := on0 (fun h => { h with jobs := [⟨99, .sub 0 0 0 0, 64, 0x70, .started, [], []⟩], coll := { h.coll with steps := [⟨1, false, 0, false, false, [], [], [], []⟩] } }) (prog 1 [[entryOf 3]] live); s.ch0.training.program.any (fun p => (((((s.onTraining 0 (fun t => { t with program := none })).markProgramDone 0 p.step).releaseKeys 0).ch0.job p.job).any (fun j => j.owner == .sub 0 0 0 0)) && (((((s.onTraining 0 (fun t => { t with program := none, silence := t.silence.filter (fun q => q.step != p.step) })).bump 0 (kEng 0 0x0E)).releaseKeys 0).ch0.job p.job).any (fun j => j.owner == .sub 0 0 0 0))) : Bool) = true := by
  decide +kernel

/-- Meets the hypotheses of StashRegion, clause by clause. -/
theorem witness_StashRegion :
    (passing live .mailbox 0x6100 0x40 0 (leBytes 8 65536) (some 0) && decide (65536 % 65536 = 0 ∧ 65536 ≤ hbmSize) && passing live .mailbox 0x6100 0x41 0 (leBytes 8 hbmSize) (some 0) && decide (hbmSize % 65536 = 0 ∧ hbmSize ≤ hbmSize) && live.ch0.training.program.isNone && live.ch0.training.stash.isEmpty : Bool) = true ∧
    (let s := prog 1 [] live; passing s .mailbox 0x6100 0x40 0 (leBytes 8 0) (some 0) && s.ch0.training.program.isSome : Bool) = true ∧
    (let s := keyed false live; passing s .mailbox 0x6100 0x41 0 (leBytes 8 0) (some 0) && s.ch0.training.stash.any (fun k => !k.dropped) : Bool) = true ∧
    (let s := stashOf 0 live; s.ent (kEng 0 0x41) == 0 && (s.ready 0 0 0x38).any (fun j => !s.ch0.isIn j.addr && okAnd (s.ch0.loadOut (s.loadEnv 0 j) j) (fun x => okAnd (s.ch0.banksCheck j [x.1]) (fun b => !b) && decide (0 < x.1.granules))) : Bool) = true ∧
    (let t := (stashOf 0 live).ch0.tensorDesc 0x400; let s := holding 0x38 (.stashOut t 9) live; s.ent (kEng 0 0x41) == 0 && (s.ready 0 0 0x38).any (fun j => j.phase == .held (.stashOut t 9) && okAnd (s.ch0.banksCheck j [t]) (fun b => !b) && decide (0 < t.granules)) : Bool) = true := by
  decide +kernel

/-- Meets the hypotheses of StashMoves, clause by clause. -/
theorem witness_StashMoves :
    ((job 0x38 64 live).ready 0 0 0x38 |>.any (fun j => !live.ch0.isIn j.addr && isErr (live.ch0.loadOut (live.loadEnv 0 j) j)) : Bool) = true ∧
    (let s := keyed false (stashOf 0 live); (s.ready 0 0 0x38).any (fun j => !s.ch0.isIn j.addr && okAnd (s.ch0.loadStash (s.loadEnv 0 j) j) (fun x => (s.ch0.training.key x.2.1).isSome)) : Bool) = true ∧
    (let s := (stashOf 0 live).setEnt (kEng 0 0x41) 65536; (s.ready 0 0 0x38).any (fun j => !s.ch0.isIn j.addr && okAnd (s.ch0.loadOut (s.loadEnv 0 j) j) (fun x => okAnd (s.ch0.banksCheck j [x.1]) (fun b => !b) && s.ch0.training.freeRun (s.stashGranules 0) x.1.granules == some 0)) : Bool) = true ∧
    (let s := stashOf 0 live; (s.ready 0 0 0x38).any (fun j => !s.ch0.isIn j.addr && okAnd (s.ch0.loadOut (s.loadEnv 0 j) j) (fun x => okAnd (s.ch0.banksCheck j [x.1]) (fun b => !b) && (s.ch0.training.freeRun (s.stashGranules 0) x.1.granules).isNone)) : Bool) = true ∧
    (let t := (stashOf 0 live).ch0.tensorDesc 0x400; let s := (holding 0x38 (.stashOut t 9) live).setEnt (kEng 0 0x41) 65536; (s.ready 0 0 0x38).any (fun j => j.phase == .held (.stashOut t 9) && okAnd (s.ch0.banksCheck j [t]) (fun b => !b) && s.ch0.training.freeRun (s.stashGranules 0) t.granules == some 0) : Bool) = true ∧
    (let s := weight3 0x400 (stashOf 0 live); (s.ready 0 0 0x38).any (fun j => !s.ch0.isIn j.addr && okAnd (s.ch0.loadOut (s.loadEnv 0 j) j) (fun x => okAnd (s.ch0.banksCheck j [x.1]) id)) : Bool) = true ∧
    (let s := on0 (fun h => { h with training := { h.training with weights := h.training.weights.map (fun w => w.setHeld 0 (some 5)) } }) (weight3 0x400 (stashOf 0 live)); (s.ready 0 0 0x38).any (fun j => !s.ch0.isIn j.addr && okAnd (s.ch0.loadOut (s.loadEnv 0 j) j) (fun x => isErr (s.ch0.banksCheck j [x.1]))) : Bool) = true ∧
    (let s := (phased 0x38 64 (.stalled 9 1 (live.ch0.tensorDesc 0)) (phased 0x38 64 (.stalled 8 2 (live.ch0.tensorDesc 0)) live)).setEnt (kEng 0 0x41) 65536; s.ch0.runs && s.ch0.jobs.map (fun j => j.phase) == [.stalled 8 2 (live.ch0.tensorDesc 0), .stalled 9 1 (live.ch0.tensorDesc 0)] && (s.ch0.training.freeRun (s.stashGranules 0) 2).isNone && s.ch0.training.freeRun (s.stashGranules 0) 1 == some 0 : Bool) = true ∧
    (let s := phased 0x38 64 (.stalled 9 1 (live.ch0.tensorDesc 0)) live; s.ch0.runs && s.ch0.jobs.map (fun j => j.phase) == [.stalled 9 1 (live.ch0.tensorDesc 0)] && (s.ch0.training.freeRun (s.stashGranules 0) 1).isNone : Bool) = true ∧
    (let s := flagged 0x38 1 [] live; (s.ready 0 0 0x38).any (fun j => s.ch0.isIn j.addr && isErr (s.ch0.loadIn (s.loadEnv 0 j) j)) : Bool) = true ∧
    (let s := stashOf 1 live; (s.ready 0 0 0x38).any (fun j => s.ch0.isIn j.addr && okAnd (s.ch0.loadStash (s.loadEnv 0 j) j) (fun x => (s.ch0.training.key x.2.1).isNone)) : Bool) = true ∧
    (let s := keyed true (stashOf 1 live); (s.ready 0 0 0x38).any (fun j => s.ch0.isIn j.addr && okAnd (s.ch0.loadIn (s.loadEnv 0 j) j) (fun x => !s.ch0.entryStarted j && okAnd (s.heldWait 0 j (.stashIn x.1 x.2.1 x.2.2)) (fun w => w.isNone))) : Bool) = true ∧
    (let s := weight3 0x400 (keyed true (stashOf 1 live)); (s.ready 0 0 0x38).any (fun j => s.ch0.isIn j.addr && okAnd (s.ch0.loadIn (s.loadEnv 0 j) j) (fun x => !s.ch0.entryStarted j && okAnd (s.heldWait 0 j (.stashIn x.1 x.2.1 x.2.2)) (fun w => w.isSome))) : Bool) = true ∧
    (let t := (stashOf 1 live).ch0.tensorDesc 0x400; let s := holding 0x38 (.stashIn t 9 true) (keyed false live); (s.ready 0 0 0x38).any (fun j => j.phase == .held (.stashIn t 9 true)) : Bool) = true ∧
    (let s := keyed true (stashOf 1 live); s.ch0.training.key 9 |>.any (fun k => k.dropped) : Bool) = true ∧
    (let s := keyed false (stashOf 1 live); s.ch0.training.key 9 |>.any (fun k => !k.dropped && k.tensor.layout == (s.ch0.tensorDesc 0x400).layout) : Bool) = true ∧
    (let s := phased 0x38 64 (.recomputing [128] 9 true) live; (s.ch0.job 0).any (fun j => j.phase == .recomputing (128 :: []) 9 true && s.ch0.jobs.all (fun i => i.owner != .recompute j.id)) && s.ch0.issues : Bool) = true := by
  decide +kernel

/-- Meets the hypotheses of ArrayExecution, clause by clause. -/
theorem witness_ArrayExecution :
    (let s := job 0x41 64 live; (s.ready 0 0 0x41).any (fun j => isErr (s.loadArray 0 j)) : Bool) = true ∧
    (let s := weight3 0x400 (arrayOf live); (s.ready 0 0 0x41).any (fun j => okAnd (s.loadArray 0 j) (fun e => !s.ch0.entryStarted j && okAnd (s.heldWait 0 j (.array e)) (fun w => w.isSome))) : Bool) = true ∧
    (let s := layer4 0 none (arrayOf live); (s.ready 0 0 0x41).any (fun j => okAnd (s.loadArray 0 j) (fun e => !s.ch0.entryStarted j && okAnd (s.heldWait 0 j (.array e)) (fun w => w.isNone))) : Bool) = true ∧
    (let s := holding 0x41 (.array (execution [] live)) live; (s.ready 0 0 0x41).any (fun j => j.phase == .held (.array (execution [] live))) : Bool) = true ∧
    (let s := layer4 0 (some 5) (arrayOf live); (s.ready 0 0 0x41).any (fun j => okAnd (s.loadArray 0 j) (fun e => (s.ch0.arrays.layers.find? (fun l => l.id == e.layer)).any (fun l => okAnd (s.ch0.banksCheck j [e.param, e.input, e.output, e.snapshot]) (fun b => !b) && l.switched.any (fun w => later16 w e.tag)))) : Bool) = true ∧
    (let s := layer4 8 none (arrayOf live); (s.ready 0 0 0x41).any (fun j => okAnd (s.loadArray 0 j) (fun e => (s.ch0.arrays.layers.find? (fun l => l.id == e.layer)).any (fun l => okAnd (s.ch0.banksCheck j [e.param, e.input, e.output, e.snapshot]) (fun b => !b) && l.switched.isNone && s.refreshPending 0 l e.tag))) : Bool) = true ∧
    (let s := layer4 0 (some 0) (arrayOf live); (s.ready 0 0 0x41).any (fun j => okAnd (s.loadArray 0 j) (fun e => (s.ch0.arrays.layers.find? (fun l => l.id == e.layer)).any (fun l => okAnd (s.ch0.banksCheck j [e.param, e.input, e.output, e.snapshot]) (fun b => !b) && l.switched.all (fun w => !later16 w e.tag) && !s.refreshPending 0 l e.tag))) : Bool) = true ∧
    (let s := on0 (fun h => { h with jobs := h.jobs ++ [⟨5, .sub 0 0 0 0, 64, 0x41, .array (execution [vector0] live), [], []⟩], arrays := { h.arrays with reads := [⟨6, 5, 0, 0, .waiting, false⟩] } }) (on0 (fun h => { h with arrays := { h.arrays with folds := [⟨0, 0, 4, true, 0, some 0, false⟩] } }) (layer4 0 none (arrayOf live))); (s.ready 0 0 0x41).any (fun j => okAnd (s.loadArray 0 j) (fun e => (s.ch0.arrays.layers.find? (fun l => l.id == e.layer)).any (fun l => okAnd (s.ch0.banksCheck j [e.param, e.input, e.output, e.snapshot]) (fun b => !b) && !s.mirror 0 && !(s.ch0.arrays.folds.filter (fun f => f.layer == l.id && f.reached e.tag)).isEmpty && s.ch0.layerReads j.id l.id))) : Bool) = true ∧
    (let s := on0 (fun h => { h with arrays := { h.arrays with folds := [⟨0, 0, 4, true, 0, some 0, false⟩] } }) (layer4 0 none (arrayOf live)); (s.ready 0 0 0x41).any (fun j => okAnd (s.loadArray 0 j) (fun e => (s.ch0.arrays.layers.find? (fun l => l.id == e.layer)).any (fun l => okAnd (s.ch0.banksCheck j [e.param, e.input, e.output, e.snapshot]) (fun b => !b) && !s.mirror 0 && !(s.ch0.arrays.folds.filter (fun f => f.layer == l.id && f.reached e.tag)).isEmpty && !s.ch0.layerReads j.id l.id))) : Bool) = true ∧
    (let s := layer4 0 none (arrayOf live); (s.ready 0 0 0x41).any (fun j => okAnd (s.loadArray 0 j) (fun e => (s.ch0.arrays.layers.find? (fun l => l.id == e.layer)).any (fun l => okAnd (s.ch0.banksCheck j [e.param, e.input, e.output, e.snapshot]) (fun b => !b) && (s.ch0.arrays.folds.filter (fun f => f.layer == l.id && f.reached e.tag)).isEmpty))) : Bool) = true ∧
    (live.ch0.issues && live.ch0.power.cartSupply : Bool) = true ∧
    (let s := phased 0x41 64 (.array (execution [vector0] live)) live; let s := on0 (fun h => { h with arrays := { h.arrays with reads := [⟨6, 0, 0, 0, .active 0 0 false 0 [], false⟩] } }) s; (s.ch0.arrays.reads.find? (fun r => r.id == 6)).any (fun r => r.phase == .active 0 0 false 0 [] && (s.ch0.execOf r.job).any (fun e => (e.vecs.find? (fun v => v.index == r.vec)).isSome)) : Bool) = true ∧
    (let s := phased 0x41 64 (.array (execution [vector0] live)) live; (s.ch0.job 0).any (fun _ => (s.ch0.execOf 0).any (fun e => (e.vecs.find? (fun v => v.index == e.delivered)).any (fun v => v.complete e && decide (e.delivered + 1 ≠ e.vectors)))) && s.ch0.issues : Bool) = true ∧
    (let s := phased 0x41 64 (.array { execution [vector0] live with vectors := 1 }) live; (s.ch0.job 0).any (fun j => (s.ch0.execOf 0).any (fun e => (e.vecs.find? (fun v => v.index == e.delivered)).any (fun v => v.complete e && (let ks := (if v.kind = .mirror then List.range e.k else []); let inv := s.ch0.paramFaults e v.index ks ++ (s.ch0.vectorOuts e v).flatMap (fun o => o.invalid); let g := s.ch0.deliverRow (s.k2 0) e (s.drawKeys 0 j e.output) v; let u := on0 (fun h => match h.job 0 with | some j => h.setJob (j.noteInvalid e.output g.2) | none => h) (((s.setChan 0 g.1).mergeStats 0 e.output g.2).countSilence 0 j e.output g.2); let x := (inv.foldl (fun s i => s.gatewayInvalid 0 0 e i) u).storeReads 0 (fun w => e.paramTouches ks w || (v.kind != .mirror && decide (e.scaleAddr ≤ 8 * w) && decide (8 * w < e.scaleAddr + 2 * e.n))); e.output.format != 0x12 && e.output.layout == 0 && e.delivered + 1 == e.vectors && (((x.setExec 0 0 { e with delivered := e.delivered + 1 }).ch0.job 0).isSome))))) && s.ch0.issues : Bool) = true ∧
    (let s := on0 (fun h => { h with arrays := { h.arrays with deferred := [⟨0, 0, 0, 0⟩] } }) live; s.ch0.arrays.deferred == ⟨0, 0, 0, 0⟩ :: [] && s.ch0.issues && (s.ch0.execOf 0).isNone : Bool) = true ∧
    (let s := on0 (fun h => { h with arrays := { h.arrays with deferred := [⟨0, 0, 0, 0⟩] } }) (phased 0x41 64 (.array (execution [vector0] live)) live); s.ch0.arrays.deferred == ⟨0, 0, 0, 0⟩ :: [] && s.ch0.issues && (s.ch0.execOf 0).isSome : Bool) = true := by
  decide +kernel

/-- Meets the hypotheses of ArrayProgrammingAndCalibration, clause by clause. -/
theorem witness_ArrayProgrammingAndCalibration :
    (let s := job 0x50 64 live; (s.ready 0 0 0x50).any (fun j => !s.ch0.releases j.addr && isErr (s.loadProgramDesc 0 j)) : Bool) = true ∧
    (let s := flagged 0x50 1 [(74, 2, 4)] live; (s.ready 0 0 0x50).any (fun j => s.ch0.releases j.addr && s.ch0.nat j.addr 2 == 0x50 && decide (s.ch0.nat (j.addr + 74) 2 < 4096) && s.ch0.arrays.layers.all (fun l => l.id != s.ch0.nat (j.addr + 74) 2)) : Bool) = true ∧
    (let s := layer4 0 none (flagged 0x50 1 [(74, 2, 4)] live); (s.ready 0 0 0x50).any (fun j => s.ch0.releases j.addr && (s.ch0.arrays.layers.find? (fun l => l.id == s.ch0.nat (j.addr + 74) 2)).isSome) : Bool) = true ∧
    (let s := on0 (fun h => { h with arrays := { h.arrays with progQueue := [⟨8, .first 0 4, 0, false⟩] } }) (slotted live); s.ch0.nextProg == some ⟨8, .first 0 4, 0, false⟩ : Bool) = true ∧
    (let s := on0 (fun h => { h with arrays := { h.arrays with progs := [⟨8, .first 0 4, 0, false⟩, ⟨9, .first 1 4, 1, true⟩] } }) live; (s.ch0.arrays.progs.find? (fun p => p.id == 8)).any (fun p => !p.again) && (s.ch0.arrays.progs.find? (fun p => p.id == 9)).any (fun p => p.again) : Bool) = true ∧
    (let s := on0 (fun h => { h with arrays := { h.arrays with refreshLeft := [4], refreshVersion := 2 } }) (layer4 0 none live); s.ch0.arrays.refreshLeft == 4 :: [] && !s.mirror 0 && s.ch0.issues && !s.ch0.live (s.ch0.arrays.refreshVersion - 2) && (s.ch0.arrays.layers.find? (fun l => l.id == 4)).isSome : Bool) = true ∧
    (let s := on0 (fun h => h.setSlot 0 { h.slotA with present := true, attached := true }) live; (s.ch0.slot 0).present && s.ch0.power.cartSupply && decide (Slot.owner 0 = 0 ∧ (Slot.side 0).val = 0) : Bool) = true ∧
    (let s := on0 (fun h => h.setSlot 0 { h.slotA with sweep := some 0, temp := some 200 }) (slotted live); let u := s.calPump 0; (u.chan 0).nextCal (u.serviceWaits 0) |>.any (fun k => ((u.chan 0).slot k.side).temp == some 200) : Bool) = true ∧
    (let s := on0 (fun h => { h with arrays := { h.arrays with cals := [⟨8, 0, 0, 0, .inPlace, 200⟩] } }) live; (s.ch0.arrays.cals.find? (fun k => k.id == 8)).isSome : Bool) = true ∧
    (let s := on0 (fun h => { h with arrays := { h.arrays with refreshLeft := [4, 5], refreshVersion := 2 } }) (layer4 0 none live); s.ch0.arrays.refreshLeft == 4 :: [5] && !s.mirror 0 && s.ch0.issues && !s.ch0.live (s.ch0.arrays.refreshVersion - 2) && (s.ch0.arrays.layers.find? (fun l => l.id == 4)).isSome : Bool) = true ∧
    (let s := on0 (fun h => { h with arrays := { h.arrays with refreshLeft := [4] } }) (layer4 0 none (flagged 0x50 1 [(74, 2, 4)] live)); (s.ready 0 0 0x50).any (fun j => s.ch0.releases j.addr && s.ch0.nat j.addr 2 == 0x50 && s.ch0.nat (j.addr + 74) 2 == 4 && (s.ch0.arrays.layers.find? (fun l => l.id == 4)).isSome && !s.ch0.arrays.refreshLeft.isEmpty && (s.ch0.arrays.refreshLeft.filter (fun i => i != 4)).isEmpty) : Bool) = true := by
  decide +kernel

/-- Meets the hypotheses of FlitsOnALink, clause by clause. -/
theorem witness_FlitsOnALink :
    (let s := link3 id live; s.ch0.hears 3 && (let u := ((s.bump 0 (kPort 0 3 0x03)).bumpBy 0 (kPort 0 3 0x04) 2).applyAck 0 3 ((flit 0).received 2); u.ch0.hears 3 && (flit 0).seq == (u.ch0.link 3).expected && decide (((flit 2047).seq - (u.ch0.link 3).expected).toNat < 2048) && (flit 2047).seq != (u.ch0.link 3).expected && decide (2048 ≤ ((flit 2048).seq - (u.ch0.link 3).expected).toNat)) : Bool) = true ∧
    (let s := link3 (fun l => { l with replay := [flit 0], stuck := 7 }) live; s.ch0.hears 3 && (let u := ((s.bump 0 (kPort 0 3 0x03)).bumpBy 0 (kPort 0 3 0x04) 2).applyAck 0 3 ({ flit 0 with nak := true }.received 2); !u.ch0.hears 3) : Bool) = true ∧
    (let s := link3 id live; s.ch0.hears 3 : Bool) = true ∧
    (flitCrcOk (Flit.bytes { flit 0 with ftype := 3 }) && decide (2 < (Flit.ofBytes (Flit.bytes { flit 0 with ftype := 3 })).ftype) : Bool) = true ∧
    (flitCrcOk (Flit.bytes { flit 0 with ftype := 0 }) && (Flit.ofBytes (Flit.bytes { flit 0 with ftype := 0 })).ftype == 0 : Bool) = true ∧
    (flitCrcOk (Flit.bytes { flit 0 with ftype := 2 }) && (Flit.ofBytes (Flit.bytes { flit 0 with ftype := 2 })).ftype == 2 : Bool) = true ∧
    (!flitCrcOk (List.replicate 639 0#8 ++ [1#8]) : Bool) = true ∧
    (!live.ch0.hears 3 : Bool) = true ∧
    (let s := link3 (fun l => { l with replay := [flit 0] }) live; s.ch0.hears 3 && !(s.ch0.link 3).nakSent && !(s.ch0.link 3).replay.isEmpty : Bool) = true ∧
    (let s := link3 (fun l => { l with nakSent := true }) live; s.ch0.hears 3 && (s.ch0.link 3).nakSent && (s.ch0.link 3).replay.isEmpty : Bool) = true ∧
    (let s := link3 (fun l => { l with retraining := true }) live; s.ch0.linksRun && (s.ch0.link 3).retraining && (s.ch0.link 3).replay.isEmpty : Bool) = true ∧
    (let s := link3 (fun l => { l with retraining := true, replay := [flit 0] }) live; s.ch0.linksRun && (s.ch0.link 3).retraining && !(s.ch0.link 3).replay.isEmpty : Bool) = true ∧
    (let s := link3 id live; !(s.ch0.link 3).retraining && !State.reset.ch0.linksRun : Bool) = true ∧
    (let s := link3 (fun l => { l with returns := [0, 5, 0, 0] }) live; s.ch0.sends 3 && (s.ch0.link 3).choose.isNone && (s.ch0.link 3).returns.any (fun n => n != 0) : Bool) = true ∧
    (let s := link3 (fun l => { l with returns := [0, 0, 0, 0] }) live; !live.ch0.sends 3 && (s.ch0.link 3).returns.all (fun n => n == 0) : Bool) = true ∧
    (let s := link3 (fun l => { l with queue := [⟨packet 5 (List.replicate 16 0#8), false, none⟩], tickets := [64, 64, 64, 64], returns := [0, 5, 0, 0] }) live; (s.ch0.link 3).choose.isSome : Bool) = true := by
  decide +kernel

/-- Meets the hypotheses of PacketForwarded, clause by clause. -/
theorem witness_PacketForwarded :
    (let k := Packet.seal { packet 1 [] with dest := 1, hops := 1 }; let s := on0 (fun h => { h with net := { h.net with inbox := [(some 3, k)], links := [(0, { Link.reset with state := 2 })] } }) live; let u := s.onNet 0 (fun n => { n with inbox := n.inbox.erase (some 3, k) }); s.ch0.linksRun && k.dest != s.address 0 && decide (0 < k.hops) && (u.route 0 k.source k.dest).1 == some 0 : Bool) = true ∧
    (let k := Packet.seal { packet 1 [] with dest := 1 }; let s := on0 (fun h => { h with net := { h.net with inbox := [(some 3, k)], links := [(0, { Link.reset with state := 2 })] } }) live; s.ch0.linksRun && k.dest != s.address 0 && k.hops == 0 && k.source == s.address 0 : Bool) = true ∧
    (let k := Packet.seal { packet 1 [] with dest := 2, source := 1 }; let s := on0 (fun h => { h with net := { h.net with inbox := [(some 3, k)], links := [(0, { Link.reset with state := 2 })] } }) live; let u := s.onNet 0 (fun n => { n with inbox := n.inbox.erase (some 3, k) }); let v := (u.giveBack 0 (some 3) k).bump 0 (kLink 0 0xD4); k.hops == 0 && k.source != v.address 0 && (v.route 0 (v.address 0) k.source).1 == some 0 : Bool) = true ∧
    (let k := Packet.seal { packet 1 [] with dest := 2, source := 1 }; let s := live; let v := (s.giveBack 0 none k).bump 0 (kLink 0 0xD4); k.hops == 0 && k.source != v.address 0 && (v.route 0 (v.address 0) k.source).1.isNone : Bool) = true := by
  decide +kernel

/-- Meets the hypotheses of PacketsAndSegments, clause by clause. -/
theorem witness_PacketsAndSegments :
    (let s := link3 (fun l => { l with queue := [⟨packet 5 (List.replicate 16 0#8), false, none⟩], tickets := [64, 64, 64, 64] }) live; s.ch0.sends 3 && (let u := s.countStalls 0 3; (u.ch0.link 3).choose.any (fun q => (q.2.headOf q.1).isSome)) : Bool) = true ∧
    ((packet 1 []).ptype == 1 : Bool) = true ∧
    (let s := live; s.receives 0 (packet 8 []) && decide (0x07 < (packet 8 []).ptype) : Bool) = true ∧
    (let s := active7 live; let k := packet 6 (List.replicate 16 0#8); k.ptype == 6 && s.receives 0 k && ((s.takeInbox 0 k).checkPacket 0 k false).2 : Bool) = true ∧
    (let s := on0 (fun h => { h with net := { h.net with rx := [⟨key0, 0, [], none, 0, false⟩] } }) live; s.ch0.linksRun && (s.ch0.net.rx.find? (fun r => r.key == key0)).any (fun r => r.fresh == 0) : Bool) = true ∧
    (let s := on0 (fun h => { h with net := { h.net with rx := [⟨key0, 1, [], none, 1, false⟩] } }) (active7 live); (s.ch0.net.rx.find? (fun r => r.key == key0)).any (fun r => r.fresh != 0) && (s.ch0.comm key0.group).isSome : Bool) = true ∧
    (let s := on0 (fun h => { h with net := { h.net with tx := [⟨key0, 1, false, [⟨packet 1 [], 0, 0⟩]⟩] } }) live; s.ch0.linksRun && !(s.ch0.comm key0.group).any (fun g => g.state == .failed) && (s.ch0.net.tx.find? (fun t => t.key == key0)).any (fun t => (t.unacked.find? (fun a => a.pkt.seq == 0)).any (fun a => decide (a.retries < s.ent (kLink 0 0xC1)))) : Bool) = true ∧
    (let s := on0 (fun h => { h with net := { h.net with tx := [⟨key0, 1, false, [⟨packet 1 [], live.ent (kLink 0 0xC1), 0⟩]⟩] } }) live; s.ch0.linksRun && !(s.ch0.comm key0.group).any (fun g => g.state == .failed) && (s.ch0.net.tx.find? (fun t => t.key == key0)).any (fun t => (t.unacked.find? (fun a => a.pkt.seq == 0)).any (fun a => decide (s.ent (kLink 0 0xC1) ≤ a.retries))) : Bool) = true ∧
    (let s := active7 live; let k := packet 7 (List.replicate 16 0#8); k.ptype == 7 && s.receives 0 k && ((s.takeInbox 0 k).checkPacket 0 k false).2 : Bool) = true ∧
    (let s := grouped (alone .failed) (on0 (fun h => { h with net := { h.net with tx := [⟨key0, 1, false, [⟨packet 1 [], 0, 0⟩]⟩] } }) live); (s.ch0.net.tx.find? (fun t => t.key == key0)).any (fun t => (t.unacked.find? (fun a => a.pkt.seq == 0)).isSome) && (s.ch0.comm key0.group).any (fun g => g.state == .failed) : Bool) = true ∧
    ((packet 0 []).ptype == 0 && live.receives 0 (packet 0 []) : Bool) = true := by
  decide +kernel

/-- Meets the hypotheses of LinksTrainedAndCalibrated, clause by clause. -/
theorem witness_LinksTrainedAndCalibrated :
    (let s := link3 id live; !live.ch0.hearsControl 3 && s.ch0.hearsControl 3 && (s.flitIn 0 3 heard).ch0.hearsControl 3 : Bool) = true ∧
    (let s := link3 (fun l => { l with replay := [flit 0], stuck := 7 }) live; s.ch0.hearsControl 3 && !(s.flitIn 0 3 { heard with nak := true }).ch0.hearsControl 3 : Bool) = true ∧
    (let s := link3 (fun l => { l with state := 0 }) live; s.ch0.linksRun && s.portEnabled 0 3 && (s.ch0.link 3).state == 0 : Bool) = true ∧
    (let s := link3 (fun l => { l with state := 1 }) live; s.ch0.linksRun && s.portEnabled 0 3 && (s.ch0.link 3).state == 1 && !(s.ch0.link 3).trained && !planned (s.planOf 0 3) : Bool) = true ∧
    (let s := link3 (fun l => { l with state := 5 }) live; s.portEnabled 0 3 && !planned (s.planOf 0 3) && (s.ch0.link 3).state == 5 : Bool) = true ∧
    (let s := (link3 (fun l => { l with state := 1 }) live).setEnt (kLink 0 4) (2 ^ 31); s.portEnabled 0 3 && planned (s.planOf 0 3) && (s.ch0.link 3).state == 1 : Bool) = true ∧
    (let s := link3 (fun l => { l with state := 4 }) live; s.portEnabled 0 3 && (s.ch0.link 3).state == 4 : Bool) = true ∧
    (let s := link3 (fun l => { l with state := 3 }) live; s.ch0.linksRun && (s.ch0.link 3).state == 3 : Bool) = true ∧
    (let s := link3 (fun l => { l with state := 1, trained := true }) live; s.ch0.hearsControl 3 && (let u := s.flitIn 0 3 heard; u.ch0.hearsControl 3 && (u.ch0.link 3).trained && decide ((⟨1, 0, 0, 0, 0, 0, 0, [0, 0, 0, 0], 0⟩ : Capability).version < 2 ∧ 2 ≤ (⟨2, 0, 0, 0, 0, 0, 0, [0, 0, 0, 0], 3001⟩ : Capability).version ∧ rttLimit 3 < (⟨2, 0, 0, 0, 0, 0, 0, [0, 0, 0, 0], 3001⟩ : Capability).rttNs ∧ (⟨2, 0, 0, 0, 0, 0, 0, [0, 0, 0, 0], 3000⟩ : Capability).rttNs ≤ rttLimit 3)) : Bool) = true ∧
    (let s := link3 (fun l => { l with peer := none }) live; s.ch0.hearsControl 3 && (let u := s.flitIn 0 3 heard; u.ch0.hearsControl 3 && (u.ch0.link 3).state == 2 && (u.ch0.link 3).peer.isNone) : Bool) = true ∧
    (let s := link3 (fun l => { l with state := 7, peer := some ⟨2, 0, 0, 0, 0, 0, 0, [0, 0, 0, 0], 0⟩ }) live; s.ch0.hearsControl 3 && (let u := s.flitIn 0 3 heard; u.ch0.hearsControl 3 && (u.ch0.link 3).state == 7 && (u.ch0.link 3).peer.isSome) : Bool) = true ∧
    (let s := link3 id live; s.ch0.hearsControl 3 && (let u := s.flitIn 0 3 heard; u.ch0.hearsControl 3 && (u.ch0.link 3).state == 2 && !(Port.isU 3) && (mget none (noticeKey notice0) u.ch0.net.noticeSeen).isNone) : Bool) = true ∧
    (let s := link3 (fun l => { l with state := 3 }) live; s.ch0.hearsControl 3 && (let u := s.flitIn 0 3 heard; u.ch0.hearsControl 3 && (u.ch0.link 3).state == 3 && decide (u.ch0.recalibrating < 4) && !(u.ch0.link 3).goodbye) : Bool) = true ∧
    (let s := on0 (fun h => { h with net := { h.net with links := [(3, { Link.reset with state := 2 }), (4, { Link.reset with state := 7 }), (5, { Link.reset with state := 7 }), (6, { Link.reset with state := 7 }), (7, { Link.reset with state := 7 })] } }) live; s.ch0.hearsControl 3 && (let u := s.flitIn 0 3 heard; u.ch0.hearsControl 3 && decide (4 ≤ u.ch0.recalibrating) && (u.ch0.link 3).state == 2) : Bool) = true ∧
    (let s := link3 (fun l => { l with goodbye := true }) live; s.ch0.hearsControl 3 && (let u := s.flitIn 0 3 heard; u.ch0.hearsControl 3 && (u.ch0.link 3).goodbye && (u.ch0.link 3).state == 2) : Bool) = true ∧
    (let s := link3 id live; let t := link3 (fun l => { l with state := 3 }) live; s.ch0.linksRun && (s.ch0.link 3).state == 2 && (t.ch0.link 3).state == 3 : Bool) = true ∧
    (let s := on0 (fun h => { h with net := { h.net with uplinks := [⟨1, 0, 0, 0⟩, ⟨1, 0, 0, 1⟩], links := [(34, { Link.reset with state := 2, peer := some ⟨2, 0, 32, 0, 34, 0, 0, [], 0⟩, due := true })] } }) live; s.ch0.linksRun && !(s.ch0.link 34).retraining && !(s.ch0.link 34).goodbye && decide (s.ch0.recalibrating < 4) && (s.ch0.link 34).state == 2 && (s.ch0.link 34).due && !(s.ch0.link 34).asking && !s.serviceWaits 0 && (s.otherRoute 0 34).1 : Bool) = true ∧
    (let s := link3 (fun l => { l with state := 3, due := true }) live; s.ch0.linksRun && !(s.ch0.link 3).retraining && !(s.ch0.link 3).goodbye && decide (s.ch0.recalibrating < 4) && (s.ch0.link 3).state == 3 && (s.ch0.link 3).due && !(s.ch0.link 3).asking && !s.serviceWaits 0 : Bool) = true ∧
    (let s := link3 (fun l => { l with due := true }) live; s.ch0.linksRun && !(s.ch0.link 3).retraining && !(s.ch0.link 3).goodbye && decide (s.ch0.recalibrating < 4) && (s.ch0.link 3).state == 2 && (s.ch0.link 3).due && !(s.ch0.link 3).asking && !s.serviceWaits 0 && !(s.otherRoute 0 3).1 : Bool) = true ∧
    (let s := link3 (fun l => { l with asking := true }) live; s.ch0.linksRun && !(s.ch0.link 3).retraining && !(s.ch0.link 3).goodbye && decide (s.ch0.recalibrating < 4) && (s.ch0.link 3).state == 2 && (s.ch0.link 3).asking : Bool) = true ∧
    (let s := (coll0 (fun k => { k with committedAt := some 0 }) (link3 (fun l => { l with due := true, deferredAt := some 0 }) live)).setEnt (kLinkCal 0 0xF3) 0; s.ch0.linksRun && !(s.ch0.link 3).retraining && !(s.ch0.link 3).goodbye && decide (s.ch0.recalibrating < 4) && (s.ch0.link 3).state == 2 && (s.ch0.link 3).due && s.recalInterval 0 (s.ch0.link 3) && !(s.ch0.link 3).asking : Bool) = true ∧
    (let s := link3 (fun l => { l with state := 7 }) live; s.ch0.linksRun && (s.ch0.link 3).state == 7 : Bool) = true ∧
    (let s := (link3 (fun l => { l with state := 7, recalUp := true, peer := some ⟨2, 0, 0, 0, 0, 0, 0, [0, 0, 0, 0], 0⟩ }) live).setEnt (kLink 0 4) (2 ^ 31); s.matchesPlan 0 3 ⟨2, 0, 0, 0, 0, 0, 0, [0, 0, 0, 0], 0⟩ && (s.ch0.link 3).recalUp : Bool) = true ∧
    (let s := link3 (fun l => { l with state := 7, recalUp := true, peer := some ⟨2, 0, 0, 0, 0, 0, 0, [0, 0, 0, 0], 0⟩ }) live; s.matchesPlan 0 3 ⟨2, 0, 0, 0, 0, 0, 0, [0, 0, 0, 0], 0⟩ != (s.ch0.link 3).recalUp : Bool) = true := by
  decide +kernel

/-- Meets the hypotheses of GroupsFormedAndKept, clause by clause. -/
theorem witness_GroupsFormedAndKept :
    (let s := job 0x80 64 live; (s.ready 0 0 0x80).any (fun j => s.ch0.nat (j.addr + 2) 2 % 2 == 0 && (s.groupFault 0 j.addr).isSome) : Bool) = true ∧
    (let s := groupDesc live; (s.ready 0 0 0x80).any (fun j => s.ch0.nat (j.addr + 2) 2 % 2 == 0 && (s.groupFault 0 j.addr).isNone && (s.ch0.comm 7).isNone) : Bool) = true ∧
    (let s := active7 (groupDesc live); (s.ready 0 0 0x80).any (fun j => (s.groupFault 0 j.addr).isNone && (s.ch0.comm 7).isSome && s.ch0.nat (j.addr + 4) 2 == 7) : Bool) = true ∧
    (let s := flagged 0x80 1 [(4, 2, 1023)] live; (s.ready 0 0 0x80).any (fun j => s.ch0.nat (j.addr + 2) 2 == 1 && decide (s.ch0.nat (j.addr + 4) 2 ≤ 1023) && (s.ch0.comm (s.ch0.nat (j.addr + 4) 2)).isNone) : Bool) = true ∧
    (let s := active7 (flagged 0x80 1 [(4, 2, 7)] live); (s.ready 0 0 0x80).any (fun j => (s.ch0.comm (s.ch0.nat (j.addr + 4) 2)).any (fun g => g.job.isNone)) : Bool) = true ∧
    (let s := grouped (alone .releasing) live; (s.ch0.comm 7).any (fun g => g.state == .releasing) && !s.ch0.segmentsOpen 7 : Bool) = true ∧
    (let s := grouped (alone .forming) live; (s.ch0.comm 7).any (fun g => g.state == .forming) && s.ch0.linksRun : Bool) = true ∧
    (let s := active7 live; (s.ch0.comm 7).any Group.live : Bool) = true ∧
    (let s := grouped (alone .forming) live; delivers s (message 0x01 0 (List.replicate 16 0#8)) 0x01 false (fun _ g => (g.rankOf 0).any (fun r => g.blockOf r == g.block && decide ((g.ranksIn g.block).length ≤ 1)) && g.state == .forming && g.isMaster && g.isTop) : Bool) = true ∧
    (let s := grouped { alone .forming with members := [0, 4] } live; delivers s (message 0x01 0 (List.replicate 16 0#8)) 0x01 false (fun _ g => (g.rankOf 0).any (fun r => g.blockOf r == g.block && decide (1 < (g.ranksIn g.block).length)) && g.state == .forming && g.isMaster) : Bool) = true ∧
    (let s := grouped (alone .forming) live; delivers s (message 0x02 0 (List.replicate 20 0#8)) 0x02 false (fun _ g => g.state == .forming && g.isTop) : Bool) = true ∧
    (let s := grouped (alone .forming) live; delivers s (message 0x03 0 (leBytes 2 15 ++ leBytes 2 1)) 0x03 false (fun _ g => g.state == .forming && g.job.isNone) : Bool) = true ∧
    (let s := phased 0x80 64 (.group 7) (grouped { alone .forming with job := some 0 } live); delivers s (message 0x03 0 (leBytes 2 15 ++ leBytes 2 1)) 0x03 false (fun t g => g.state == .forming && g.job == some 0 && (t.ch0.job 0).isSome) : Bool) = true ∧
    (let s := grouped (alone .forming) live; delivers s (message 0x04 0 (List.replicate 8 0#8)) 0x04 false (fun _ g => g.state == .forming) : Bool) = true ∧
    (let s := active7 live; delivers s (message 0x05 0 ([])) 0x05 false (fun _ g => (g.rankOf 0).isSome) : Bool) = true ∧
    (let s := active7 live; delivers s (message 0x07 0 (leBytes 4 0)) 0x07 true (fun _ g => g.live && g.isTop && g.rankOf 0 == some ((message 0x07 0 (leBytes 4 0)).field 16 4)) && (s.ch0.comm 7).isSome : Bool) = true ∧
    (let k := epochMessage 0 0xFFFF; let s := active7 live; delivers s k 0x06 (s.laterEpoch 0 k) (fun t g => later32 k.fullEpoch g.epoch && (((t.applyEpoch 0 g k).chan 0).comm g.id).any (fun q => q.top == g.top)) : Bool) = true ∧
    (let k := epochMessage 1 0xFFFF; let s := grouped { alone .active with members := [0, 4] } live; delivers s k 0x06 (s.laterEpoch 0 k) (fun t g => later32 k.fullEpoch g.epoch && (((t.applyEpoch 0 g k).chan 0).comm g.id).any (fun q => q.top != g.top)) : Bool) = true := by
  decide +kernel

/-- Meets the hypotheses of PlansReplicasAndBarriers, clause by clause. -/
theorem witness_PlansReplicasAndBarriers :
    (let s := job 0x90 64 live; (s.ready 0 0 0x90).any (fun j => !s.ch0.releases j.addr && isErr (s.loadPlan 0 j.addr)) : Bool) = true ∧
    (let s := planDesc (active7 live); (s.ready 0 0 0x90).any (fun j => !s.ch0.releases j.addr && okAnd (s.loadPlan 0 j.addr) (fun p => p.group == 7)) : Bool) = true ∧
    (let s := flagged 0x90 1 [(4, 2, 7)] live; (s.ready 0 0 0x90).any (fun j => s.ch0.releases j.addr && decide (s.ch0.nat (j.addr + 4) 2 ≤ 1023)) && s.ch0.training.program.isNone : Bool) = true ∧
    (let s := job 0x92 64 live; (s.ready 0 0 0x92).any (fun j => !s.ch0.releases j.addr && isErr (s.loadReplica 0 j.addr)) : Bool) = true ∧
    (let s := replicaDesc (committing (active7 live)); (s.ready 0 0 0x92).any (fun j => !s.ch0.releases j.addr && okAnd (s.loadReplica 0 j.addr) (fun r => r == replica7)) : Bool) = true ∧
    (let s := safety0 (fun f => { f with replica := some replica7 }) (flagged 0x92 1 [(4, 2, 7)] live); (s.ready 0 0 0x92).any (fun j => s.ch0.releases j.addr && decide (s.ch0.nat (j.addr + 4) 2 ≤ 1023)) && s.ch0.safety.replica.isSome : Bool) = true ∧
    (let s := flagged 0x91 7 [] (active7 live); (s.ready 0 0 0x91).any (fun j => s.ch0.nat j.addr 2 == 0x91 && (s.ch0.comm (s.ch0.nat (j.addr + 2) 2)).any (fun g => g.state == .active)) : Bool) = true ∧
    (let s := flagged 0x91 7 [] (grouped (alone .forming) live); (s.ready 0 0 0x91).any (fun j => (s.ch0.comm (s.ch0.nat (j.addr + 2) 2)).any (fun g => g.state != .active)) : Bool) = true ∧
    (let s := active7 live; delivers s (message 0x30 0 (leBytes 4 1 ++ leBytes 4 2)) 0x30 false (fun _ g => (g.arrivalOf (message 0x30 0 (leBytes 4 1 ++ leBytes 4 2)) 2).isSome) : Bool) = true ∧
    (let s := active7 live; delivers s (message 0x31 0 (List.replicate 8 0#8)) 0x31 false (fun _ g => g.barriers.isEmpty) : Bool) = true ∧
    (let s := phased 0x91 64 (.group 7) (grouped { alone .active with barriers := [(2, 0)] } live); delivers s (message 0x31 0 (List.replicate 4 0#8 ++ leBytes 4 2)) 0x31 false (fun t g => g.barriers == [(2, 0)] && (t.ch0.job 0).isSome) : Bool) = true ∧
    (let s := flagged 0x90 1 [(4, 2, 7)] (prog 1 [] live); (s.ready 0 0 0x90).any (fun j => s.ch0.releases j.addr) && s.ch0.training.program.isSome : Bool) = true ∧
    (let s := flagged 0x90 1 [(4, 2, 1024)] live; (s.ready 0 0 0x90).any (fun j => s.ch0.releases j.addr && decide (1023 < s.ch0.nat (j.addr + 4) 2)) && s.ch0.training.program.isNone : Bool) = true ∧
    (let s := committing (flagged 0x92 1 [(4, 2, 7)] live); (s.ready 0 0 0x92).any (fun j => s.ch0.releases j.addr && s.ch0.nat (j.addr + 4) 2 == s.ent (kUpd 0 1)) : Bool) = true ∧
    (let s := committing (flagged 0x92 1 [(4, 2, 8)] live); (s.ready 0 0 0x92).any (fun j => s.ch0.releases j.addr && s.ch0.nat (j.addr + 4) 2 != s.ent (kUpd 0 1)) : Bool) = true ∧
    (let s := job 0x91 64 live; (s.ready 0 0 0x91).any (fun j => s.ch0.nat j.addr 2 != 0x91) : Bool) = true ∧
    (let s := flagged 0x91 7 [] live; (s.ready 0 0 0x91).any (fun j => s.ch0.nat j.addr 2 == 0x91 && (s.ch0.comm (s.ch0.nat (j.addr + 2) 2)).isNone) : Bool) = true ∧
    ([0x90, 0x92, 0x91].all (fun ty => (live.ready 0 0 ty).isNone) : Bool) = true ∧
    (let k := Packet.seal { message 0x30 0 (leBytes 4 1) with source := 4 }; let s := grouped { alone .active with members := [0, 4], top := 1 } live; delivers s k 0x30 false (fun _ g => (g.arrivalOf k (k.field 20 4)).isSome) : Bool) = true ∧
    (let k := Packet.seal { message 0x30 0 (leBytes 4 1) with source := 8 }; let s := active7 live; delivers s k 0x30 false (fun _ g => (g.arrivalOf k (k.field 20 4)).isNone) : Bool) = true ∧
    (let s := grouped { alone .active with barriers := [(3, 0)] } live; delivers s (message 0x31 0 (List.replicate 8 0#8)) 0x31 false (fun _ g => g.barriers == [(3, 0)] && (message 0x31 0 (List.replicate 8 0#8)).field 20 4 != 3) : Bool) = true ∧
    ([0x30, 0x31].all (fun m => undelivers live (message m 0 []) m false) : Bool) = true := by
  decide +kernel

/-- Meets the hypotheses of ReductionAndParameters, clause by clause. -/
theorem witness_ReductionAndParameters :
    (let s := weight3 0x400 (grouped { alone .active with members := [0, 4] } (planned7 (plan7 1 0) live)); let s := on0 (fun h => { h with training := { h.training with weights := h.training.weights.map (fun w => { w with handed := some 1 }) } }) s; (s.ch0.comm 7).any (fun g => (s.ch0.coll.plan 7).any (fun p => (s.ch0.weight (p.bucket 0).weight).any (fun w => w.handed == some 1) && g.state == .active && decide (0 < p.buckets.length) && !(s.ch0.coll.run 7 1 0).converted && s.ch0.gateOpen p 1 0 && g.combiner 0 (p.bucket 0) g.block != g.rank)) && s.ch0.issues : Bool) = true ∧
    (let s := weight3 0x400 (grouped { alone .active with members := [0, 4] } (planned7 (plan7 0 0) live)); let s := on0 (fun h => { h with training := { h.training with weights := h.training.weights.map (fun w => { w with handed := some 1 }) } }) s; (s.ch0.comm 7).any (fun g => (s.ch0.coll.plan 7).any (fun p => (s.ch0.weight (p.bucket 0).weight).any (fun w => w.handed == some 1) && g.state == .active && decide (0 < p.buckets.length) && !(s.ch0.coll.run 7 1 0).converted && s.ch0.gateOpen p 1 0 && g.combiner 0 (p.bucket 0) g.block == g.rank && (s.claimSlot 0 7 1 0).isSome)) && s.ch0.issues : Bool) = true ∧
    (let s := weight3 0x400 (grouped { alone .active with members := [0, 4] } (planned7 (plan7 0 0) live) |> coll0 (fun q => { q with slots := (List.range 256).map (fun i => ⟨i, 1, 0, 0, [], [], 0⟩) })); let s := on0 (fun h => { h with training := { h.training with weights := h.training.weights.map (fun w => { w with handed := some 1 }) } }) s; (s.ch0.comm 7).any (fun g => (s.ch0.coll.plan 7).any (fun p => (s.ch0.weight (p.bucket 0).weight).any (fun w => w.handed == some 1) && g.state == .active && decide (0 < p.buckets.length) && !(s.ch0.coll.run 7 1 0).converted && s.ch0.gateOpen p 1 0 && g.combiner 0 (p.bucket 0) g.block == g.rank && (s.claimSlot 0 7 1 0).isNone)) && s.ch0.issues : Bool) = true ∧
    (let s := planned7 (plan7 0 0) (active7 live); let k := Packet.seal { packet 2 (List.replicate 128 0#8) with tag := 1 }; k.ptype == 2 && s.receives 0 k && k.e2e == k.crc && (s.ch0.comm k.group).any (fun g => (s.ch0.coll.plan k.group).isSome && !g.tagsAgree k) : Bool) = true ∧
    (let s := on0 (fun h => { h with training := { h.training with recordSinceSeed := true } }) (planned7 (plan7 0 0) (active7 live)); let k := packet 2 (List.replicate 128 0#8); k.ptype == 2 && s.receives 0 k && k.e2e == k.crc && (s.ch0.comm k.group).any (fun g => (s.ch0.coll.plan k.group).isSome && g.tagsAgree k && s.ch0.lateStep (liftStep s.ch0.nearStep k.step) && (s.receive 0 k false).2) : Bool) = true ∧
    (let s := coll0 (fun q => { q with slots := (List.range 256).map (fun i => ⟨i, 1, 9, 0, [], [], 0⟩) }) (planned7 (plan7 0 0) (active7 live)); let k := packet 2 (List.replicate 128 0#8); k.ptype == 2 && s.receives 0 k && k.e2e == k.crc && (s.ch0.comm k.group).any (fun g => (s.ch0.coll.plan k.group).isSome && g.tagsAgree k && !s.ch0.lateStep (liftStep s.ch0.nearStep k.step) && (s.claimSlot 0 g.id (liftStep s.ch0.nearStep k.step) (k.segment % 16384)).isNone) : Bool) = true ∧
    (let s := planned7 (plan7 0 0) (active7 live); let k := packet 2 (List.replicate 128 0#8); k.ptype == 2 && s.receives 0 k && k.e2e == k.crc && (s.ch0.comm k.group).any (fun g => (s.ch0.coll.plan k.group).isSome && g.tagsAgree k && !s.ch0.lateStep (liftStep s.ch0.nearStep k.step) && (s.claimSlot 0 g.id (liftStep s.ch0.nearStep k.step) (k.segment % 16384)).isSome && (s.receive 0 k false).2 && ((s.receive 0 k false).1.claimSlot 0 g.id (liftStep s.ch0.nearStep k.step) (k.segment % 16384)).isSome && (g.childOf k.source).isSome) : Bool) = true ∧
    (let k := packet 2 (List.replicate 128 0#8); let s := coll0 (fun q => { q with waitPartial := [(none, k)] }) (active7 live); s.ch0.coll.waitPartial == (none, k) :: [] && s.ch0.linksRun && s.ch0.coll.freeSlot.isSome && (let u := (s.onColl 0 (fun q => { q with waitPartial := [] })).onNet 0 (fun n => { n with inbox := (none, k) :: n.inbox }); u.receives 0 k) : Bool) = true ∧
    (let s := active7 live; delivers s (message 0x20 1 (leBytes 4 1 ++ leBytes 4 0)) 0x20 false (fun _ g => (g.arrivalOf (message 0x20 1 (leBytes 4 1 ++ leBytes 4 0)) 0).isSome) : Bool) = true ∧
    (let s := coll0 (fun q => { q with steps := [step7 1] }) (planned7 (plan7 0 0) (active7 live)); delivers s (message 0x21 1 (leBytes 4 0x3F800000)) 0x21 false (fun t g => (let u := t.relay 0 g (message 0x21 1 (leBytes 4 0x3F800000)); (u.ch0.coll.plan g.id).any (fun p => !p.clip) && (u.ch0.coll.stepRun 1).isSome)) : Bool) = true ∧
    (let s := coll0 (fun q => { q with steps := [step7 1] }) (planned7 (plan7 0 4) (active7 live)); delivers s (message 0x21 1 (leBytes 4 0x3F800000)) 0x21 false (fun t g => (let u := t.relay 0 g (message 0x21 1 (leBytes 4 0x3F800000)); (u.ch0.coll.plan g.id).any (fun p => p.clip) && (u.ch0.coll.stepRun 1).any (fun q => (mget none g.id q.norms).isNone))) : Bool) = true ∧
    (let s := coll0 (fun q => { q with steps := [step7 1] }) (planned7 (plan7 0 0) (active7 live)); delivers s (message 0x22 1 (leBytes 2 0)) 0x22 false (fun t g => (t.ch0.coll.plan g.id).isSome && addrBlock 0 == g.block) : Bool) = true ∧
    (let k := packet 3 (List.replicate 128 0#8); let s := on0 (fun h => { h with training := { h.training with recordSinceSeed := true } }) (planned7 (plan7 0 0) (active7 live)); k.ptype == 3 && s.receives 0 k && (s.receive 0 k false).2 && (s.ch0.comm k.group).isSome && (s.ch0.coll.plan k.group).isSome && s.ch0.safety.fill.isNone && s.ch0.lateStep (liftStep s.ch0.nearStep k.step) : Bool) = true ∧
    (let k := packet 3 (List.replicate 128 0#8); let s := planned7 (plan7 0 0) (active7 live); (s.receive 0 k false).2 && !s.ch0.lateStep (liftStep s.ch0.nearStep k.step) && (s.ch0.comm k.group).any (fun g => (s.ch0.coll.plan k.group).any (fun p => (p.bucket (k.segment % 16384)).owner == g.rank)) && s.ch0.safety.fill.isNone : Bool) = true ∧
    (((live.resumeBanks 0).chan 0).coll.copies.isEmpty : Bool) = true := by
  decide +kernel

/-- Meets the hypotheses of CommitOfAStep, clause by clause. -/
theorem witness_CommitOfAStep :
    (let s := committing (coll0 (fun q => { q with steps := [step7 1] }) (active7 live)); s.ch0.coll.lowestStep.any (fun q => q == step7 1 && s.ch0.prepared q) && (s.commitGroup 0).any Group.live && s.ch0.linksRun : Bool) = true ∧
    (let s := coll0 (fun q => { q with steps := [step7 1], phase := 1, phaseStep := 1 }) (grouped (alone .active) live); delivers s (message 0x10 1 (leBytes 4 1)) 0x10 false (fun t g => !t.ch0.coll.hasAborted 1 && (g.arrivalOf (message 0x10 1 (leBytes 4 1)) 0).isSome) : Bool) = true ∧
    (let s := coll0 (fun q => { q with steps := [step7 1], phase := 1, phaseStep := 1 }) (grouped (alone .active) live); delivers s (message 0x11 1 ([])) 0x11 false (fun t g => (let u := t.relay 0 g (message 0x11 1 ([])); u.ch0.coll.phaseStep == 1 && u.ch0.coll.phase == 1)) : Bool) = true ∧
    (let s := coll0 (fun q => { q with steps := [step7 1], phase := 3, phaseStep := 1 }) (grouped (alone .active) live); delivers s (message 0x11 1 ([])) 0x11 false (fun t g => (let u := t.relay 0 g (message 0x11 1 ([])); u.ch0.coll.phaseStep == 1 && u.ch0.coll.phase == 3)) : Bool) = true ∧
    (let s := coll0 (fun q => { q with steps := [step7 1], phase := 1, phaseStep := 1 }) (grouped (alone .active) live); delivers s (message 0x12 1 (leBytes 4 1 ++ List.replicate 76 0#8)) 0x12 false (fun _ g => (g.arrivalOf (message 0x12 1 (leBytes 4 1 ++ List.replicate 76 0#8)) 0).isSome) : Bool) = true ∧
    (let s := coll0 (fun q => { q with steps := [step7 1], phase := 2, phaseStep := 1 }) (grouped (alone .active) live); delivers s (message 0x13 1 (List.replicate 80 0#8)) 0x13 false (fun t g => (let u := t.relay 0 g (message 0x13 1 (List.replicate 80 0#8)); u.ch0.coll.phaseStep == 1 && u.ch0.coll.phase == 2 && (u.ch0.coll.stepRun 1).isSome)) : Bool) = true ∧
    (let s := coll0 (fun q => { q with steps := [step7 1], phase := 3, phaseStep := 1 }) (grouped (alone .active) live); delivers s (message 0x13 1 (List.replicate 80 0#8)) 0x13 false (fun t g => (let u := t.relay 0 g (message 0x13 1 (List.replicate 80 0#8)); u.ch0.coll.phaseStep == 1 && u.ch0.coll.phase == 3 && (u.ch0.coll.stepRun 1).isSome)) : Bool) = true ∧
    (let s := coll0 (fun q => { q with steps := [step7 1], phase := 1, phaseStep := 1 }) (grouped (alone .active) live); delivers s (message 0x14 1 (leBytes 4 1)) 0x14 false (fun _ g => (g.arrivalOf (message 0x14 1 (leBytes 4 1)) 0).isSome) : Bool) = true ∧
    (let s := coll0 (fun q => { q with steps := [step7 1], phase := 3, phaseStep := 1 }) (grouped (alone .active) live); delivers s (message 0x15 1 ([])) 0x15 false (fun t g => (let u := t.relay 0 g (message 0x15 1 ([])); u.ch0.coll.phaseStep == 1 && u.ch0.coll.phase == 3 && (u.ch0.coll.stepRun 1).isSome)) : Bool) = true ∧
    (let s := coll0 (fun q => { q with steps := [step7 1], phase := 1, phaseStep := 1 }) (grouped (alone .active) live); delivers s (message 0x15 1 ([])) 0x15 false (fun t g => (let u := t.relay 0 g (message 0x15 1 ([])); u.ch0.coll.phase != 3 && (u.ch0.coll.stepRun 1).isSome)) : Bool) = true ∧
    (let k := Packet.seal { message 0x16 1 (List.replicate 16 0#8) with source := 4 }; let s := coll0 (fun q => { q with steps := [step7 1] }) (grouped { alone .active with members := [0, 4] } live); delivers s k 0x16 false (fun t g => g.isTop && k.source != t.address 0) : Bool) = true ∧
    (let s := coll0 (fun q => { q with steps := [step7 1], phase := 1, phaseStep := 1 }) (grouped (alone .active) live); delivers s (message 0x16 1 (List.replicate 16 0#8)) 0x16 false (fun t g => (let u := t.relay 0 g (message 0x16 1 (List.replicate 16 0#8)); !u.ch0.training.recordSinceSeed && !u.ch0.coll.hasAborted 1 && (message 0x16 1 (List.replicate 16 0#8)).source == t.address 0)) : Bool) = true ∧
    (let s := committing (grouped { alone .active with arrivals := [⟨true, 0x10, 1, 0, 0, 1, []⟩] } live); (s.commitGroup 0).any (fun g => g.isTop && g.live && (g.arrivals.find? (fun a => a.msg == 0x10)).isSome) : Bool) = true ∧
    (let s := committing (grouped { alone .active with phases := [(0, 1)] } live); (s.commitGroup 0).any (fun g => g.isTop && g.live && !g.phases.isEmpty) && s.ch0.linksRun : Bool) = true ∧
    (let s := active7 live; delivers s (message 0x17 0 ([])) 0x17 false : Bool) = true ∧
    (let s := grouped { alone .active with phases := [(0, 1)] } live; delivers s (message 0x18 0 ([3#8])) 0x18 false (fun _ g => (g.rankOf 0).isSome && g.isTop && !g.phases.isEmpty) : Bool) = true ∧
    (live.ch0.coll.lowestStep.isNone && (live.commitGroup 0).isNone : Bool) = true ∧
    (let s := committing (coll0 (fun q => { q with steps := [{ step7 1 with programDone := false }] }) (active7 live)); s.ch0.coll.lowestStep.any (fun q => !s.ch0.prepared q) && (s.commitGroup 0).isSome : Bool) = true ∧
    (let s := committing (coll0 (fun q => { q with steps := [step7 1] }) (grouped (alone .failed) live)); s.ch0.coll.lowestStep.isSome && (s.commitGroup 0).any (fun g => !g.live) : Bool) = true ∧
    (let s := coll0 (fun q => { q with steps := [step7 1], phase := 5, phaseStep := 1 }) (active7 live); delivers s (message 0x10 1 (leBytes 4 1)) 0x10 false (fun t _ => t.ch0.coll.hasAborted 1) : Bool) = true ∧
    (let k := Packet.seal { message 0x10 1 (leBytes 4 1) with source := 8 }; let s := active7 live; delivers s k 0x10 false (fun _ g => (g.arrivalOf k 0).isNone) : Bool) = true ∧
    (let s := coll0 (fun q => { q with steps := [step7 1], phase := 2, phaseStep := 1 }) (active7 live); delivers s (message 0x11 1 []) 0x11 false (fun t g => let u := t.relay 0 g (message 0x11 1 []); u.ch0.coll.phaseStep == 1 && u.ch0.coll.phase == 2) : Bool) = true ∧
    (let s := coll0 (fun q => { q with steps := [step7 1], phase := 1, phaseStep := 2 }) (active7 live); delivers s (message 0x11 1 []) 0x11 false (fun t g => let u := t.relay 0 g (message 0x11 1 []); u.ch0.coll.phaseStep != 1) : Bool) = true ∧
    (let s := coll0 (fun q => { q with steps := [step7 1], phase := 4, phaseStep := 1 }) (active7 live); delivers s (message 0x11 1 []) 0x11 false (fun t g => let u := t.relay 0 g (message 0x11 1 []); decide (3 < u.ch0.coll.phase)) : Bool) = true ∧
    (let s := coll0 (fun q => { q with steps := [step7 1], phase := 0, phaseStep := 1 }) (active7 live); delivers s (message 0x11 1 []) 0x11 false (fun t g => let u := t.relay 0 g (message 0x11 1 []); u.ch0.coll.phase == 0) : Bool) = true ∧
    (let k := Packet.seal { message 0x12 1 (leBytes 4 1 ++ List.replicate 76 0#8) with source := 8 }; let s := active7 live; delivers s k 0x12 false (fun _ g => (g.arrivalOf k 0).isNone) : Bool) = true ∧
    (let s := coll0 (fun q => { q with steps := [step7 1], phase := 1, phaseStep := 1 }) (active7 live); delivers s (message 0x13 1 (List.replicate 80 0#8)) 0x13 false (fun t g => let u := t.relay 0 g (message 0x13 1 (List.replicate 80 0#8)); u.ch0.coll.phase == 1) : Bool) = true ∧
    (let s := active7 live; delivers s (message 0x13 1 (List.replicate 80 0#8)) 0x13 false (fun t g => let u := t.relay 0 g (message 0x13 1 (List.replicate 80 0#8)); (u.ch0.coll.stepRun 1).isNone) : Bool) = true ∧
    (let k := Packet.seal { message 0x14 1 (leBytes 4 1) with source := 8 }; let s := active7 live; delivers s k 0x14 false (fun _ g => (g.arrivalOf k 0).isNone) : Bool) = true ∧
    (let s := active7 live; delivers s (message 0x15 1 []) 0x15 false (fun t g => let u := t.relay 0 g (message 0x15 1 []); (u.ch0.coll.stepRun 1).isNone) : Bool) = true ∧
    (let k := message 0x16 1 (List.replicate 16 0#8); let s := coll0 (fun q => { q with phase := 5, phaseStep := 1 }) (active7 live); delivers s k 0x16 false (fun t g => let u := t.relay 0 g k; k.source == t.address 0 && u.ch0.coll.abortedFor 1 (k.field 16 1)) : Bool) = true ∧
    (let k := message 0x16 1 (List.replicate 16 0#8); let s := on0 (fun h => { h with training := { h.training with recordSinceSeed := true }, lastStep := 1 }) (active7 live); delivers s k 0x16 false (fun t g => let u := t.relay 0 g k; k.source == t.address 0 && u.ch0.training.recordSinceSeed && decide (1 ≤ u.ch0.lastStep)) : Bool) = true ∧
    (let k := message 0x16 1 (List.replicate 16 0#8); let s := grouped { alone .active with members := [0, 4], top := 1 } live; delivers s k 0x16 false (fun t g => let u := t.relay 0 g k; !g.isTop && decide (u.ch0.lastStep < 1) && !u.ch0.coll.abortedFor 1 (k.field 16 1)) : Bool) = true ∧
    (let s := committing (grouped { alone .active with top := 1 } live); (s.commitGroup 0).any (fun g => !g.isTop) : Bool) = true ∧
    (let s := committing (active7 live); (s.commitGroup 0).any (fun g => g.isTop && g.live && g.arrivals.all (fun a => a.msg != 0x10) && g.phases.isEmpty) : Bool) = true ∧
    (let k := Packet.seal { message 0x18 0 [3#8] with source := 8 }; let s := grouped { alone .active with phases := [(0, 1)] } live; delivers s k 0x18 false (fun _ g => (g.rankOf k.source).isNone) : Bool) = true ∧
    (let s := active7 live; delivers s (message 0x18 0 [3#8]) 0x18 false (fun _ g => g.phases.isEmpty) : Bool) = true ∧
    ([0x10, 0x11, 0x12, 0x13, 0x14, 0x15, 0x16, 0x17, 0x18].all (fun m => undelivers live (message m 0 []) m false) : Bool) = true := by
  decide +kernel

/-- Meets the hypotheses of StreamsLossesAndSpares, clause by clause. -/
theorem witness_StreamsLossesAndSpares :
    (let k := Packet.seal { packet 4 (List.replicate 128 0#8) with tag := 0x80000000#32 }; let s := (active7 live).setEnt (kSafe 0 9) 65536; k.ptype == 4 && s.receives 0 k && k.tag.toNat / 2 ^ 29 == 4 && (s.receive 0 k true).2 && s.ent (kSafe 0 9) != 0 : Bool) = true ∧
    (let k := Packet.seal { packet 4 (List.replicate 128 0#8) with tag := 0x80000000#32 }; let s := active7 live; k.tag.toNat / 2 ^ 29 == 4 && (s.receive 0 k true).2 && s.ent (kSafe 0 9) == 0 : Bool) = true ∧
    (let k := Packet.seal { packet 4 (List.replicate 128 0#8) with tag := 0 }; let s := planned7 (plan7 0 0) (active7 live); s.receives 0 k && decide (k.tag.toNat / 2 ^ 29 < 4) && (s.receive 0 k false).2 && (s.ch0.comm k.group).isSome && (s.ch0.coll.plan k.group).isSome : Bool) = true ∧
    (let k := message 0x41 1 (List.replicate 272 0#8); let s := safety0 (fun f => { f with replica := some { replica7 with buddies := [0] } }) (active7 live); delivers s k 0x41 false (fun t g => t.ch0.safety.fill.isNone && t.ch0.safety.replica.any (fun r => (r.served g.rank).contains (fieldOf ((k.data.drop 32).take 256) 36 4))) : Bool) = true ∧
    (let s := safety0 (fun f => { f with streamStep := 1 }) (active7 live); delivers s (message 0x42 1 (List.replicate 8 0#8)) 0x42 false (fun t g => (message 0x42 1 (List.replicate 8 0#8)).field 20 4 == g.rank && t.ch0.safety.streamStep == 1 && !t.ch0.safety.streamOk && (message 0x42 1 (List.replicate 8 0#8)).field 16 1 == 0) : Bool) = true ∧
    (let s := safety0 (fun f => { f with streamStep := 1, streams := 1 }) (active7 live); delivers s (message 0x42 1 ([1#8] ++ List.replicate 7 0#8)) 0x42 false (fun t _ => t.ch0.safety.streamStep == 1 && !t.ch0.safety.streamOk && decide (t.ch0.safety.streams < 2)) : Bool) = true ∧
    (let s := safety0 (fun f => { f with streamStep := 1, streams := 2 }) (active7 live); delivers s (message 0x42 1 ([1#8] ++ List.replicate 7 0#8)) 0x42 false (fun t _ => t.ch0.safety.streamStep == 1 && !t.ch0.safety.streamOk && decide (2 ≤ t.ch0.safety.streams)) : Bool) = true ∧
    (let s := active7 live; delivers s (message 0x43 1 (leBytes 4 1 ++ [1#8])) 0x43 false (fun _ g => (g.arrivalOf (message 0x43 1 (leBytes 4 1 ++ [1#8])) 0).isSome && (message 0x43 1 (leBytes 4 1 ++ [1#8])).field 20 1 == 1 && g.isTop) : Bool) = true ∧
    (let s := active7 live; delivers s (message 0x43 1 (leBytes 4 1)) 0x43 false (fun _ g => (g.arrivalOf (message 0x43 1 (leBytes 4 1)) 0).isSome && (message 0x43 1 (leBytes 4 1)).field 20 1 != 1) : Bool) = true ∧
    (let s := active7 live; delivers s (message 0x44 1 ([])) 0x44 false : Bool) = true ∧
    (let s := coll0 (fun q => { q with steps := [step7 1], phase := 1, phaseStep := 1 }) (grouped (alone .active) live); delivers s (message 0x45 1 ([])) 0x45 false (fun t g => (let u := t.relay 0 g (message 0x45 1 ([])); (u.ch0.coll.stepRun 1).isSome)) : Bool) = true ∧
    (let s := committing (grouped { alone .active with members := [0, 4] } live); (s.commitGroup 0).any (fun g => g.live && g.isMaster && g.rank != 1 && (g.ranksIn g.block).contains 1 && g.silent s.ch0.clock.timebase 1) && s.ch0.linksRun : Bool) = true ∧
    (let k := message 0x40 0 (leBytes 4 4 ++ leBytes 4 1); let s := safety0 (fun f => { f with replica := some { replica7 with buddies := [1, 0] } }) (committing (grouped { alone .active with members := [0, 4] } live)); delivers s k 0x40 false (fun t g => g.isTop && g.id == t.ent (kUpd 0 1) && g.address (k.field 20 4) == k.field 16 4 && t.ch0.safety.lost.isEmpty && (let u := ((t.bump 0 (kSafe 0 0x23)).decideLoss 0 g 1).1; (u.ch0.safety.shardsLost (Config.fresh u.free) 1).isEmpty)) : Bool) = true ∧
    (let k := message 0x40 0 (leBytes 4 4 ++ leBytes 4 1); let s := committing (grouped { alone .active with members := [0, 4] } live); delivers s k 0x40 false (fun t g => g.isTop && g.id == t.ent (kUpd 0 1) && g.address (k.field 20 4) == k.field 16 4 && t.ch0.safety.lost.isEmpty && (let u := ((t.bump 0 (kSafe 0 0x23)).decideLoss 0 g 1).1; !(u.ch0.safety.shardsLost (Config.fresh u.free) 1).isEmpty)) : Bool) = true ∧
    (let k := message 0x46 0 []; k.ptype == 5 && k.msg == 0x46 && (live.receive 0 k true).2 : Bool) = true ∧
    (let s := safety0 (fun f => { f with claim := some ⟨⟨4, 1⟩, 0, [0], false⟩ }) (active7 live); delivers s (message 0x47 0 ([0#8])) 0x47 false (fun t g => t.ch0.safety.claim.any (fun q => q.candidates.head? == some 0) && g.isTop && (message 0x47 0 [0#8]).field 16 1 == 0) : Bool) = true ∧
    (let s := safety0 (fun f => { f with claim := some ⟨⟨4, 1⟩, 0, [0], false⟩ }) (active7 live); delivers s (message 0x47 0 ([3#8])) 0x47 false (fun t g => t.ch0.safety.claim.any (fun q => q.candidates.head? == some 0) && g.isTop && (message 0x47 0 [3#8]).field 16 1 != 0) : Bool) = true ∧
    (let s := safety0 (fun f => { f with claim := some ⟨⟨4, 1⟩, 0, [0], true⟩ }) (committing (active7 live)); (s.commitGroup 0).any Group.isTop && s.ch0.safety.claim.any (fun q => !q.candidates.isEmpty && q.dry) && s.ch0.linksRun : Bool) = true ∧
    (let k := packet 5 (leBytes 4 0x48 ++ leBytes 4 1 ++ List.replicate 24 0#8); let s := active7 live; delivers s k 0x48 (s.laterEpoch 0 k) (fun _ g => later32 k.fullEpoch g.epoch) : Bool) = true ∧
    (let k := message 0x48 0 (List.replicate 16 0#8); let s := active7 live; delivers s k 0x48 (s.laterEpoch 0 k) (fun _ g => !later32 k.fullEpoch g.epoch) : Bool) = true ∧
    (let k := Packet.seal (packet 4 (List.replicate 16 0#8)); (packet 1 []).ptype != 4 && !State.reset.receives 0 k : Bool) = true ∧
    (let k := Packet.seal { packet 4 (List.replicate 128 0#8) with tag := 0xA0000000#32 }; let s := planned7 (plan7 0 0) (active7 live); s.receives 0 k && decide (4 < k.tag.toNat / 2 ^ 29) : Bool) = true ∧
    (let k := Packet.seal { packet 4 (List.replicate 128 0#8) with tag := 0 }; live.receives 0 k && (live.ch0.comm k.group).isNone && (live.ch0.coll.plan k.group).isNone && !(live.receive 0 k false).2 : Bool) = true ∧
    (let k := message 0x41 1 (List.replicate 272 0#8); let s := safety0 (fun f => { f with replica := some { replica7 with buddies := [0] }, fill := some ⟨0, 7, 1, false, false, [], []⟩ }) (active7 live); delivers s k 0x41 false (fun t g => t.ch0.safety.fill.any (fun f => f.restore == k.fullStep) && t.ch0.safety.replica.isSome && fieldOf ((k.data.drop 32).take 256) 36 4 == g.rank) : Bool) = true ∧
    (let k := message 0x41 1 (List.replicate 272 0#8); let s := safety0 (fun f => { f with replica := some replica7 }) (active7 live); delivers s k 0x41 false (fun t g => t.ch0.safety.fill.isNone && t.ch0.safety.replica.any (fun r => !(r.served g.rank).contains (fieldOf ((k.data.drop 32).take 256) 36 4))) : Bool) = true ∧
    (let k := message 0x41 1 (List.replicate 272 0#8); let s := safety0 (fun f => { f with replica := none }) (active7 live); delivers s k 0x41 false (fun t g => t.ch0.safety.replica.isNone && g.id == 7) : Bool) = true ∧
    (let s := safety0 (fun f => { f with streamStep := 2 }) (active7 live); delivers s (message 0x42 1 (List.replicate 8 0#8)) 0x42 false (fun t _ => t.ch0.safety.streamStep == 2) : Bool) = true ∧
    (let s := safety0 (fun f => { f with streamStep := 1, streamOk := true }) (active7 live); delivers s (message 0x42 1 (List.replicate 8 0#8)) 0x42 false (fun t _ => t.ch0.safety.streamOk) : Bool) = true ∧
    (let s := grouped { alone .active with members := [0, 4], top := 1 } live; delivers s (message 0x43 1 (leBytes 4 1 ++ [1#8])) 0x43 false (fun _ g => (g.arrivalOf (message 0x43 1 (leBytes 4 1 ++ [1#8])) 0).isSome && !g.isTop) : Bool) = true ∧
    (let k := Packet.seal { message 0x43 1 (leBytes 4 1) with source := 8 }; let s := active7 live; delivers s k 0x43 false (fun _ g => (g.arrivalOf k 0).isNone) : Bool) = true ∧
    (let s := active7 live; delivers s (message 0x45 1 []) 0x45 false (fun t g => let u := t.relay 0 g (message 0x45 1 []); !u.ch0.training.recordSinceSeed && (u.ch0.coll.stepRun 1).isNone) : Bool) = true ∧
    (let s := on0 (fun h => { h with training := { h.training with recordSinceSeed := true }, lastStep := 1 }) (active7 live); delivers s (message 0x45 1 []) 0x45 false (fun t g => let u := t.relay 0 g (message 0x45 1 []); u.ch0.training.recordSinceSeed && u.ch0.lastStep == 1) : Bool) = true ∧
    (let s := committing (active7 live); (live.commitGroup 0).isNone && (s.commitGroup 0).any (fun g => g.rank == 0 && !(g.ranksIn g.block).contains 5) : Bool) = true ∧
    (let k := message 0x40 0 (leBytes 4 4 ++ leBytes 4 1); let s := committing (grouped { alone .active with members := [0, 4], top := 1 } live); delivers s k 0x40 false (fun _ g => !g.isTop) : Bool) = true ∧
    (let k := message 0x40 0 (leBytes 4 4 ++ leBytes 4 1); let s := grouped { alone .active with members := [0, 4] } live; delivers s k 0x40 false (fun t g => g.id != t.ent (kUpd 0 1)) : Bool) = true ∧
    (let k := message 0x40 0 (leBytes 4 4 ++ leBytes 4 1); let s := committing (grouped { alone .active with members := [0, 8] } live); delivers s k 0x40 false (fun _ g => g.address (k.field 20 4) != k.field 16 4) : Bool) = true ∧
    (let k := message 0x40 0 (leBytes 4 4 ++ leBytes 4 1); let s := safety0 (fun f => { f with lost := [⟨4, 1⟩] }) (committing (grouped { alone .active with members := [0, 4] } live)); delivers s k 0x40 false (fun t g => t.ch0.safety.lost.any (fun l => l.address == k.field 16 4) && g.isTop) : Bool) = true ∧
    ((packet 1 []).ptype != 5 && (message 0x47 0 []).msg != 0x46 : Bool) = true ∧
    (let k := message 0x46 0 []; let s := power0 (fun p => { p with state := .p1 }) live; k.ptype == 5 && (s.receive 0 k true).2 && (let w := (s.receive 0 k true).1.drawFree.2.drawFree.2; w.declineReason 0 1 0 == 1) : Bool) = true ∧
    (let s := ((on0 (fun h => { h with fw := { h.fw with bank0 := { h.fw.bank0 with image := List.replicate 18 0#8 ++ [255#8, 255#8] } } }) live).setEnt (kSafe 0 8) 1).setEnt (kSafe 0 9) 65536; s.declineReason 0 65535 0 == 0 && (s.receive 0 (message 0x46 0 []) true).2 : Bool) = true ∧
    (let k := Packet.seal { message 0x46 0 [] with dest := 8 }; !(live.receive 0 k true).2 : Bool) = true ∧
    (let s := safety0 (fun f => { f with claim := some ⟨⟨4, 1⟩, 0, [8], false⟩ }) (active7 live); delivers s (message 0x47 0 [0#8]) 0x47 false (fun t _ => t.ch0.safety.claim.any (fun q => q.candidates.head? != some 0)) : Bool) = true ∧
    (let s := active7 live; delivers s (message 0x47 0 [0#8]) 0x47 false (fun t _ => t.ch0.safety.claim.isNone) : Bool) = true ∧
    ((live.commitGroup 0).isNone && live.ch0.safety.claim.isNone : Bool) = true ∧
    (let s := safety0 (fun f => { f with claim := some ⟨⟨4, 1⟩, 0, [], false⟩ }) (committing (active7 live)); (s.commitGroup 0).isSome && s.ch0.safety.claim.any (fun q => q.candidates.isEmpty && !q.dry) : Bool) = true ∧
    (undelivers live (message 0x48 0 []) 0x48 (live.laterEpoch 0 (message 0x48 0 [])) : Bool) = true ∧
    ([0x40, 0x41, 0x42, 0x43, 0x44, 0x45, 0x47].all (fun m => undelivers live (message m 0 []) m false) : Bool) = true := by
  decide +kernel

/-- Meets the hypotheses of FillsAndResets, clause by clause. -/
theorem witness_FillsAndResets :
    (let s := job 0x93 64 live; (s.ready 0 0 0x93).any (fun j => (s.fillRefusal 0 j.addr).isSome) : Bool) = true ∧
    (let s := flagged 0x93 0 [(4, 2, 7)] (committing (grouped { alone .rebuilding with imaged := true } (safety0 (fun f => { f with replica := some replica7 }) live))); (s.ready 0 0 0x93).any (fun j => (s.fillRefusal 0 j.addr).isNone) && (s.commitGroup 0).any (fun g => (s.ch0.buddy g).isNone) : Bool) = true ∧
    (let s := active7 live; delivers s (message 0x49 0 (leBytes 4 0)) 0x49 false (fun _ g => g.isTop) : Bool) = true ∧
    (let s := grouped { alone .active with top := 1, members := [0, 4] } live; delivers s (message 0x49 0 (leBytes 4 0)) 0x49 false (fun _ g => !g.isTop) : Bool) = true ∧
    (let s := active7 live; delivers s (message 0x4A 0 (leBytes 4 0)) 0x4A false (fun t g => (message 0x4A 0 (leBytes 4 0)).field 16 4 == (t.relay 0 g (message 0x4A 0 (leBytes 4 0))).address 0) : Bool) = true ∧
    (let s := active7 live; delivers s (message 0x4A 0 (leBytes 4 4)) 0x4A false (fun t g => (let k := message 0x4A 0 (leBytes 4 4); let u := t.relay 0 g k; k.field 16 4 != u.address 0 && (((u.resendParams 0 4 0).chan 0).buddy g).isNone)) : Bool) = true ∧
    (let s := safety0 (fun f => { f with filling := [0] }) (active7 live); delivers s (message 0x4B 0 (leBytes 4 0 ++ [1#8])) 0x4B false (fun t g => g.isTop && t.ch0.safety.filling.contains 0 && (message 0x4B 0 (leBytes 4 0 ++ [1#8])).field 20 1 == 1) : Bool) = true ∧
    (let s := safety0 (fun f => { f with filling := [0] }) (active7 live); delivers s (message 0x4B 0 (leBytes 4 0)) 0x4B false (fun t g => g.isTop && t.ch0.safety.filling == [0] && t.ch0.safety.lost.isEmpty) : Bool) = true ∧
    (let s := safety0 (fun f => { f with filling := [0], lost := [⟨4, 1⟩] }) (active7 live); delivers s (message 0x4B 0 (leBytes 4 0)) 0x4B false (fun t g => g.isTop && t.ch0.safety.filling.contains 0 && !t.ch0.safety.lost.isEmpty) : Bool) = true ∧
    (let s := active7 live; delivers s (message 0x4C 1 ([])) 0x4C false : Bool) = true ∧
    (let s := active7 live; delivers s (message 0x4D 1 (leBytes 4 1)) 0x4D false (fun t g => ((t.relay 0 g (message 0x4D 1 (leBytes 4 1))).chan 0).safety.fill.isNone) : Bool) = true ∧
    (let s := flagged 0x94 0 [(4, 2, 7)] (grouped (alone .failed) live); (s.ready 0 0 0x94).any (fun j => s.ch0.nat j.addr 2 == 0x94 && (s.ch0.comm (s.ch0.nat (j.addr + 4) 2)).any (fun g => !g.live)) : Bool) = true ∧
    (let s := flagged 0x94 0 [(4, 2, 7)] (active7 live); (s.ready 0 0 0x94).any (fun j => (s.ch0.comm (s.ch0.nat (j.addr + 4) 2)).any (fun g => g.live && g.isTop)) : Bool) = true ∧
    (let s := flagged 0x94 0 [(4, 2, 7)] (grouped { alone .active with top := 1 } live); (s.ready 0 0 0x94).any (fun j => (s.ch0.comm (s.ch0.nat (j.addr + 4) 2)).any (fun g => g.live && !g.isTop)) : Bool) = true ∧
    (let k := Packet.seal { message 0x4E 0 [] with source := 4 }; let s := grouped { alone .active with members := [0, 4] } live; delivers s k 0x4E false (fun t g => g.isTop && k.source != t.address 0) : Bool) = true ∧
    (let s := active7 live; delivers s (message 0x4E 0 ([])) 0x4E false (fun t _ => (message 0x4E 0 []).source == t.address 0) : Bool) = true ∧
    (let s := active7 live; delivers s (message 0x4F 0 (leBytes 4 1)) 0x4F false (fun _ g => (g.arrivalOf (message 0x4F 0 (leBytes 4 1)) 0).isSome) : Bool) = true ∧
    (let s := active7 live; delivers s (message 0x50 0 ([])) 0x50 false (fun _ g => g.resets.isEmpty) : Bool) = true ∧
    (let s := phased 0x94 64 (.group 7) (grouped { alone .active with resets := [0] } live); delivers s (message 0x50 0 ([])) 0x50 false (fun t g => g.resets == [0] && (((t.relay 0 g (message 0x50 0 [])).chan 0).job 0).isSome) : Bool) = true ∧
    (let s := flagged 0x93 0 [(4, 2, 7)] (committing (grouped { alone .rebuilding with imaged := true } (safety0 (fun f => { f with replica := some { replica7 with buddies := [0] } }) live))); (s.ready 0 0 0x93).any (fun j => (s.fillRefusal 0 j.addr).isNone) && (s.commitGroup 0).any (fun g => s.ch0.buddy g == some g.top) : Bool) = true ∧
    (let s := flagged 0x93 0 [(4, 2, 7)] (committing (grouped { alone .rebuilding with imaged := true, members := [0, 4], ring := [⟨0, 0, noRank, noRank⟩] } (safety0 (fun f => { f with replica := some { replica7 with buddies := [1, 0] } }) live))); (s.ready 0 0 0x93).any (fun j => (s.fillRefusal 0 j.addr).isNone) && (s.commitGroup 0).any (fun g => s.ch0.buddy g == some 1 && g.top == 0) : Bool) = true ∧
    (let s := safety0 (fun f => { f with replica := some { replica7 with buddies := [0] } }) (active7 live); delivers s (message 0x49 0 (leBytes 4 0)) 0x49 false (fun t g => t.ch0.safety.replica.any (fun r => (r.served g.rank).contains 0)) : Bool) = true ∧
    (let s := safety0 (fun f => { f with fill := some ⟨0, 7, 1, false, false, [], []⟩ }) (active7 live); delivers s (message 0x4A 0 (leBytes 4 4)) 0x4A false (fun t g => let u := t.relay 0 g (message 0x4A 0 (leBytes 4 4)); u.ch0.safety.fill.any (fun f => !f.shardDone) && u.address 0 != 4) : Bool) = true ∧
    (let s := safety0 (fun f => { f with replica := some { replica7 with buddies := [1, 0] } }) (grouped { alone .active with members := [0, 4] } live); delivers s (message 0x4A 0 (leBytes 4 4)) 0x4A false (fun t g => let u := t.relay 0 g (message 0x4A 0 (leBytes 4 4)); u.address 0 != 4 && u.ch0.safety.fill.isNone && (((u.resendParams 0 4 0).ch0).buddy g).any (fun b => g.address b == 4)) : Bool) = true ∧
    (let s := active7 live; delivers s (message 0x4B 0 (leBytes 4 0)) 0x4B false (fun t g => !t.ch0.safety.filling.contains 0 && g.isTop) : Bool) = true ∧
    (let s := safety0 (fun f => { f with filling := [0, 1] }) (active7 live); delivers s (message 0x4B 0 (leBytes 4 0)) 0x4B false (fun t g => g.isTop && t.ch0.safety.filling.contains 0 && t.ch0.safety.filling.any (fun r => r != 0)) : Bool) = true ∧
    (let s := safety0 (fun f => { f with fill := some ⟨9, 7, 1, false, false, [], []⟩ }) (active7 live); delivers s (message 0x4D 1 (leBytes 4 1)) 0x4D false (fun t g => let r := (((t.chan 0).groups.map (fun q => q.id)).foldl (fun s i => s.silenceGroup 0 i) t).relay 0 g (message 0x4D 1 (leBytes 4 1)); r.ch0.safety.fill.any (fun f => (r.ch0.job f.job).isNone)) : Bool) = true ∧
    (let s := safety0 (fun f => { f with fill := some ⟨0, 7, 1, false, false, [], []⟩ }) (phased 0x93 64 (.group 7) (active7 live)); delivers s (message 0x4D 1 (leBytes 4 1)) 0x4D false (fun t g => let r := (((t.chan 0).groups.map (fun q => q.id)).foldl (fun s i => s.silenceGroup 0 i) t).relay 0 g (message 0x4D 1 (leBytes 4 1)); r.ch0.safety.fill.any (fun f => (r.ch0.job f.job).isSome)) : Bool) = true ∧
    (let s := job 0x94 64 live; (s.ready 0 0 0x94).any (fun j => s.ch0.nat j.addr 2 != 0x94) : Bool) = true ∧
    (let s := flagged 0x94 0 [(4, 2, 7)] live; (s.ready 0 0 0x94).any (fun j => s.ch0.nat j.addr 2 == 0x94 && (s.ch0.comm (s.ch0.nat (j.addr + 4) 2)).isNone) : Bool) = true ∧
    ((live.ready 0 0 0x93).isNone && (live.ready 0 0 0x94).isNone : Bool) = true ∧
    (let s := grouped { alone .active with members := [0, 4], top := 1 } live; delivers s (message 0x4E 0 []) 0x4E false (fun _ g => !g.isTop) : Bool) = true ∧
    (let k := Packet.seal { message 0x4F 1 (leBytes 4 1) with source := 8 }; let s := active7 live; delivers s k 0x4F false (fun _ g => (g.arrivalOf k 0).isNone) : Bool) = true ∧
    ([0x49, 0x4A, 0x4B, 0x4C, 0x4D, 0x4E, 0x4F, 0x50].all (fun m => undelivers live (message m 0 []) m false) : Bool) = true := by
  decide +kernel

/-- Meets the hypotheses of EveryCommandCompletes, clause by clause. -/
theorem witness_EveryCommandCompletes :
    (live.pending.isEmpty && live.pending.head?.isNone : Bool) = true ∧
    (decide (0 % 64 = 0 ∧ 64 % 64 = 0) && inHbm 0 64 && burstOk 64 : Bool) = true := by
  decide +kernel

/-- A frame with the tag that its session's key gives it is trusted, with the sessions of `session` however changed. -/
theorem trusted_frame {s : State} {q : Session} (h : s.speaks 1 = true) (hq : s.session 1 = some q) (hk : q.inTag = []) (ty : Nat) :
    s.trusted ty (frame ty) = some q := by
  unfold State.trusted frame
  simp [hq, hk]
  exact h

/-- The session of `session`. -/
def session1 : Session := ⟨1, 2, [], [], [], [], 0, none, 0, 0, 0, 0, [], false, none, none, 0⟩

/-- The port complex that speaks Miger version 1, with this session open. -/
def talking (q : Session) : State := modular (fun m => { m with sessions := [q] }) (speaking live)

/-- States and frames for the clauses of MigerSessions: set-up, the four accepted frames, a repeat, an untrusted frame, and a NOTIFY
sent four times. -/
theorem witness_MigerSessions :
    (live.fieldUp = true ∧ (speaking live).speaks 1 = true ∧ (live.bumpPort (odKey 0x1010 0x20)).module.initParts = [] ∧
      (List.replicate 1000 0#8).length + (List.replicate 600 0#8).length = 1600 ∧ (speaking live).module.sessions.length < 8) ∧
    ((talking session1).fieldUp = true ∧ seqLater 5 session1.lastSeq = true ∧ (5#32).toNat + 1 < 2 ^ 31 ∧
      (talking session1).trusted 0x10 (frame 0x10) = some session1 ∧ session1.repeats (frame 0x10) = false ∧
      (talking session1).trusted 0x14 (frame 0x14) = some session1 ∧ (talking session1).trusted 0x15 (frame 0x15) = some session1) ∧
    (∃ q k : Session, (talking q).trusted 0x13 (frame 0x13) = some q ∧ ((talking q).hear q 5).session q.id = some k ∧
      k.outstanding = some (0, [], 4) ∧ fieldOf (cipher q.inCipher 1 5 []) 0 4 = (0#32).toNat ∧ (4 : Nat) < 5) ∧
    (∃ q : Session, (talking q).trusted 0x10 (frame 0x10) = some q ∧ q.lastRequest = some (5, [])) ∧
    ((speaking live).fieldUp = true ∧ (speaking live).trusted 0x15 (frame 0x15) = none) := by
  have h1 : (talking session1).speaks 1 = true := by decide +kernel
  refine ⟨by decide +kernel, ⟨by decide +kernel, by decide +kernel, by decide +kernel, trusted_frame h1 rfl rfl _, by decide +kernel,
    trusted_frame h1 rfl rfl _, trusted_frame h1 rfl rfl _⟩, ⟨{ session1 with outstanding := some (0, [], 4) }, _,
    trusted_frame (by decide +kernel) rfl rfl _, rfl, rfl, by decide +kernel, by decide⟩,
    ⟨{ session1 with lastRequest := some (5, []) }, trusted_frame (by decide +kernel) rfl rfl _, rfl⟩, by decide +kernel, ?_⟩
  unfold State.trusted
  rw [show (speaking live).speaks (frame 0x15).version = true from by decide +kernel]
  rfl

/-- A response of 40 bytes that AUTHENTICATE accepts as installer: the digest that R515 asks for, whatever the module's serial number. -/
theorem witness_authenticate : ∃ (s : State) (d ch : List Byte), s.pathOpen .mailbox = true ∧ s.challengeOf .mailbox = some ch ∧
    d.length = 40 ∧ fieldOf d 0 1 = 1 ∧ (s.setChallenge .mailbox none).module.creds.locked .mailbox = false ∧
    d.drop 8 = (s.setChallenge .mailbox none).authResponse .mailbox 1 ch := by
  let s := modular (fun m => { m with creds := { m.creds with challenge := some (List.replicate 32 7#8) } }) live
  let r := (s.setChallenge .mailbox none).authResponse .mailbox 1 (List.replicate 32 7#8)
  have hr : r.length = 32 := kmac256_length _ _ _ _ _
  refine ⟨s, [1#8, 0#8, 0#8, 0#8, 0#8, 0#8, 0#8, 0#8] ++ r, List.replicate 32 7#8, by decide +kernel, by decide +kernel, ?_, by rfl,
    by decide +kernel, ?_⟩
  · simp [hr]
  · show r = _
    rfl

/-- A tile that has been programmed as often as its rating allows, and one that has not: the programs at delivery, at most 16, are
Config's. -/
theorem witness_tileProgramStart (y : SlotState) (h : y.homeParks = 0) :
    tileRating ≤ SlotState.count { y with counts := [(0, 100000)] } 0 ∧ SlotState.count { y with counts := [] } 0 < tileRating := by
  have e1 : mget (0 : Int) 0 [(0, 100000)] = 100000 := by decide
  have e2 : mget (0 : Int) 0 [] = 0 := rfl
  simp only [SlotState.count, tileRating, h, e1, e2]
  omega

/-- A program descriptor that is accepted: tile entry 0 is below its rating whatever its programs at delivery. -/
theorem witness_programDescriptor : ∃ (j : Job) (e : ProgramExec), (layerDesc live).ready 0 0 0x50 = some j ∧
    ((layerDesc live).chan 0).releases j.addr = false ∧ (layerDesc live).loadProgramDesc 0 j = .ok e := by
  refine ⟨⟨0, .sub 0 0 0 0, 64, 0x50, .started, [], []⟩, ?_⟩
  have hc : ((layerDesc live).chan 0).entryCount 0 < 100000 := by
    have e1 : ((layerDesc live).chan 0).tileOf 0 = 0 := by decide +kernel
    have e2 : (((layerDesc live).chan 0).slot (0 / slotEntries)).counts = [] := by decide +kernel
    have e3 : mget (0 : Int) 0 [] = 0 := rfl
    simp only [Channel.entryCount, e1, SlotState.count, e2, e3]
    omega
  have hl : ((layerDesc live).chan 0).tileList (((layerDesc live).chan 0).nat (64 + 16) 8) (ceilDiv (((layerDesc live).chan 0).nat (64 + 4) 4) 256 * ceilDiv (((layerDesc live).chan 0).nat (64 + 8) 4) 256) = [0] := by decide +kernel
  have hf : decide (tileRating ≤ ((layerDesc live).chan 0).entryCount 0) = false := decide_eq_false (Nat.not_le.mpr hc)
  have hq : okAnd ((layerDesc live).loadProgramDesc 0 ⟨0, .sub 0 0 0 0, 64, 0x50, .started, [], []⟩) (fun _ => true) = true := by
    unfold State.loadProgramDesc
    simp only [hl, List.any_cons, List.any_nil, hf]
    decide +kernel
  match hm : (layerDesc live).loadProgramDesc 0 ⟨0, .sub 0 0 0 0, 64, 0x50, .started, [], []⟩ with
  | .ok e => exact ⟨e, by decide +kernel, by decide +kernel, rfl⟩
  | .error r => rw [hm] at hq; cases hq

end Sys2Proof.Tests
end

/-! ### Reads of the timebase registers (R60, R407) -/

namespace Sys2Proof.Machine

section TimebaseReads
variable {s : State} {c : Chan}

theorem exec_timebaseLowRead : exec (.timebaseLowRead c) s = execTimebaseLowRead c s := rfl

theorem exec_portTimebaseLowRead : exec .portTimebaseLowRead s = execPortTimebaseLowRead s := rfl

theorem execTimebaseLowRead_of_available (hreach : s.hostReaches = true) (havail : s.available c = true) :
    execTimebaseLowRead c s = .next ((s.onChan c (fun h => { h with clock :=
      { (s.chan c).clock with high := (s.chan c).clock.timebase.extractLsb' 32 32 } })).emit
        (.readData (((s.chan c).clock.timebase.extractLsb' 0 32).setWidth 64))) := by
  simp [execTimebaseLowRead, hreach, havail]

/-- R407: the port complex answers for a channel that is not served, with all ones. -/
theorem execTimebaseLowRead_of_not_available (hreach : s.hostReaches = true) (havail : s.available c = false) :
    execTimebaseLowRead c s = .next (s.emit (.readData 0xFFFFFFFF#64)) := by
  simp [execTimebaseLowRead, hreach, havail]

theorem execPortTimebaseLowRead_of_hostReaches (hreach : s.hostReaches = true) :
    execPortTimebaseLowRead s = .next (({ s with module := { s.module with clock :=
      { s.module.clock with high := s.module.clock.timebase.extractLsb' 32 32 } } }).emit
        (.readData ((s.module.clock.timebase.extractLsb' 0 32).setWidth 64))) := by
  simp [execPortTimebaseLowRead, hreach]

/-- Table 14.3: offset 0x0C of a channel's region is TIMEBASE_HIGH. -/
theorem readChannelWord_timebaseHigh (havail : s.available c = true) :
    s.readChannelWord c 0x0C = (s.chan c).clock.high.toNat := by
  simp [State.readChannelWord, havail]

end TimebaseReads

/-- Settles O10: the reads of a low word by the cases of their commands (host reaches the module; channel served or not), the
read of TIMEBASE_HIGH by its place in the channel's region. -/
theorem timebaseLowRead : Obligations.TimebaseLowRead := by
  refine ⟨fun c s hreach havail => ?_, fun c s havail => ?_, fun c s hreach havail => ?_, fun s hreach => ?_⟩
  · rw [exec_timebaseLowRead, execTimebaseLowRead_of_available hreach havail]
  · exact readChannelWord_timebaseHigh havail
  · rw [exec_timebaseLowRead, execTimebaseLowRead_of_not_available hreach havail]
  · rw [exec_portTimebaseLowRead, execPortTimebaseLowRead_of_hostReaches hreach]

end Sys2Proof.Machine

/-! ### The stash region (R256) -/

namespace Sys2Proof.Machine

/-! Requests to write an engine entry of a channel (Tables 7.12, 8.8 and 9.8). -/

section EngineEntries
variable {s : State}

theorem odArea_engine (c : Chan) : odArea (0x6100 + 0x100 * c.val) = (0x6100, c.val) := by
  revert c; decide

theorem servedBy_engine (c : Chan) : servedBy (0x6100 + 0x100 * c.val) = some (some c) := by
  revert c; decide

theorem toNat_engineIndex (c : Chan) : (BitVec.ofNat 16 (0x6100 + 0x100 * c.val)).toNat = 0x6100 + 0x100 * c.val := by
  revert c; decide

theorem watchesDegraded_engine (c : Chan) (sub : Nat) : watchesDegraded (0x6100 + 0x100 * c.val) sub = false := by
  have hpower : (0x6100 + 0x100 * c.val == 0x2800) = false := beq_false_of_ne (by omega)
  have hsecurity : ¬ 0x6100 + 0x100 * c.val < 0x1114 := by omega
  simp [watchesDegraded, hpower, hsecurity]

theorem State.afterRule_engine (s : State) (c : Chan) (sub : Nat) (d : List Byte) :
    s.afterRule (0x6100 + 0x100 * c.val) sub d = s := by
  simp [State.afterRule, odArea_engine]

theorem State.entryRule_engine (s : State) (p : ReqPath) (c : Chan) (sub offset : Nat) (d : List Byte) :
    s.entryRule p (0x6100 + 0x100 * c.val) sub offset d = s.engineRule c (0x6100 + 0x100 * c.val) sub offset d := by
  unfold State.entryRule
  simp [odArea_engine]

theorem State.writeThen_of_after_id {p : ReqPath} {index sub offset : Nat} {d : List Byte} {w : State → State × Nat}
    {after : State → State} (h : ∀ t, after t = t) :
    s.writeThen p index sub offset d w after = s.writeRequest p index sub offset d w := by
  simp [State.writeThen, h]

/-- A write of an engine entry is a request with the entry's own rule: no reboot and no BLOCK_DEGRADED follows it. -/
theorem exec_odWrite_engine (p : ReqPath) (c : Chan) (sub : Byte) (offset : Nat) (d : List Byte) (s : State) :
    exec (.odWrite p (BitVec.ofNat 16 (0x6100 + 0x100 * c.val)) sub offset d) s =
      .next (s.writeRequest p (0x6100 + 0x100 * c.val) sub.toNat offset d
        (fun s => s.engineRule c (0x6100 + 0x100 * c.val) sub.toNat offset d)) := by
  show Host.Outcome.next (s.odWrite p (BitVec.toNat _) sub.toNat offset d) = _
  unfold State.odWrite
  rw [toNat_engineIndex, watchesDegraded_engine, State.writeThen_of_after_id (fun t => t.afterRule_engine c _ d)]
  simp [State.entryRule_engine]

/-- A rule that answers status 0x05 has WRITE_IGNORED raised (R431). -/
theorem noting_ignored {index sub : Nat} {w : State → State × Nat} {u : State} (h : w s = (u, 0x05)) :
    noting index sub w s = (u.raiseIgnored index sub, 0x05) := by
  simp [noting, h]

/-- An ignored write of an engine entry raises its event in the channel's own carousel. -/
theorem State.raiseIgnored_engine (s : State) (c : Chan) (sub : Nat) :
    s.raiseIgnored (0x6100 + 0x100 * c.val) sub = s.raise c 0x0004 (ignoredData (0x6100 + 0x100 * c.val) sub) := by
  simp [State.raiseIgnored, servedBy_engine]

theorem kEng_index (c : Chan) {k : Nat} (hk : k < 256) : kEng c k / 256 = 0x6100 + 0x100 * c.val := by
  unfold kEng odKey; omega

/-- An ignored write of an engine entry, once answered, has changed no engine entry. -/
theorem State.ent_reply_raiseIgnored_engine (s : State) (c : Chan) (sub : Nat) (p : ReqPath) (st ty len off : Nat)
    (d : List Byte) {k : Nat} (hk : k < 256) :
    ((s.raiseIgnored (0x6100 + 0x100 * c.val) sub).reply p st ty len off d).ent (kEng c k) = s.ent (kEng c k) := by
  have hne : kEng c k / 256 ≠ 0x1010 := by rw [kEng_index c hk]; omega
  rw [State.ent_od (State.od_reply _ _ _ _ _ _ _), State.raiseIgnored_engine, State.ent_raise _ _ _ _ hne]

end EngineEntries

/-! The rule of STASH_BASE and STASH_BOUND. -/

section StashRule
variable {s : State} {c : Chan} {sub v : Nat}

theorem State.engineRule_stash {d : List Byte} {index offset : Nat} (hsub : sub = 0x40 ∨ sub = 0x41) :
    s.engineRule c index sub offset d = noting index sub (fun s => s.setStash c sub (leNat d)) s := by
  obtain rfl | rfl := hsub <;> rfl

theorem State.setStash_of_idle (hmod : v % 65536 = 0) (hle : v ≤ hbmSize) (hprog : (s.chan c).training.program = none)
    (hkeys : ∀ k ∈ (s.chan c).training.stash, k.dropped = true) :
    s.setStash c sub v = (s.storeEnt (0x6100 + 0x100 * c.val) sub v, 0x00) := by
  have hheld : ((s.chan c).training.stash.any fun k => !k.dropped) = false := by simpa using hkeys
  simp [State.setStash, hmod, Nat.not_lt.2 hle, hprog, hheld, State.keep]

theorem State.setStash_of_busy (hmod : v % 65536 = 0) (hle : v ≤ hbmSize)
    (hbusy : (s.chan c).training.program ≠ none ∨ ∃ k ∈ (s.chan c).training.stash, k.dropped = false) :
    s.setStash c sub v = (s, 0x05) := by
  have hcond : ((s.chan c).training.program.isSome || (s.chan c).training.stash.any fun k => !k.dropped) = true := by
    simpa [Option.isSome_iff_ne_none] using hbusy
  unfold State.setStash
  rw [if_neg (by omega), if_pos hcond]

end StashRule

/-! An OUT that is taken up (R253). -/

section StashOut
variable {s : State} {c : Chan} {j : Job} {t : TensorDesc} {key : Nat}

/-- An OUT that may begin is taken up with the tensor and KEY that it holds, or that it loads now. -/
theorem exec_stashOut_of_takesUp {n : Nat} (hready : s.ready c n 0x38 = some j)
    (htakes : j.takesUp (.stashOut t key)
      ((s.chan c).isIn j.addr = false ∧ (s.chan c).loadOut (s.loadEnv c j) j = .ok (t, key))) :
    exec (.stashOut c n) s = .next (s.takeOut c j t key) := by
  show execStashOut c n s = _
  unfold execStashOut
  rw [State.withJob_ready hready]
  obtain hheld | ⟨hfresh, hout, hload⟩ := htakes
  · simp [hheld]
  · dsimp only
    split
    · next hphase => exact absurd hphase (hfresh _)
    · next hphase => exact absurd hphase (hfresh _)
    · simp [hout, hload]

theorem State.takeOut_of_noRun (hbank : (s.chan c).banksCheck j [t] = .ok false)
    (hrun : (s.chan c).training.freeRun (s.stashGranules c) t.granules = none) :
    s.takeOut c j t key = s.stashFull c j t key := by
  simp [State.takeOut, hbank, hrun]

/-- A stash of no granules has no run for a tensor. -/
theorem Training.freeRun_zero (r : Training) {n : Nat} (hn : 0 < n) : r.freeRun 0 n = none := by
  have hrange : 0 + 1 - n = 0 := by omega
  simp [Training.freeRun, hrange]

theorem State.stashGranules_of_bound_zero (hbound : s.ent (kEng c 0x41) = 0) : s.stashGranules c = 0 := by
  simp [State.stashGranules, hbound]

end StashOut

/-- Settles O46: the request is served by the rule of the two registers, which stores the value or leaves the state and has the
event raised; a stash of no granules has no run of free ones, so that an OUT finds it full. -/
theorem stashRegion : Obligations.StashRegion := by
  refine ⟨fun p c sub d r s hpass hsub hmod hle => ?_, fun c n key j t s hready htakes hbank hsize hbound => ?_⟩
  · have hsub' : sub.toNat = 0x40 ∨ sub.toNat = 0x41 := hsub.imp (congrArg BitVec.toNat) (congrArg BitVec.toNat)
    refine ⟨fun ⟨hprog, hkeys⟩ => ?_, fun hbusy => ⟨?_, ?_, ?_⟩⟩
    · rw [exec_odWrite_engine, State.writeRequest_passes hpass
        ((State.engineRule_stash hsub').trans (noting_ok (State.setStash_of_idle hmod hle hprog hkeys)))]
    · rw [exec_odWrite_engine, State.writeRequest_declined hpass
        ((State.engineRule_stash hsub').trans (noting_ignored (State.setStash_of_busy hmod hle hbusy))) (by decide)]
    · exact State.ent_reply_raiseIgnored_engine _ _ _ _ _ _ _ _ _ (by decide)
    · exact State.ent_reply_raiseIgnored_engine _ _ _ _ _ _ _ _ _ (by decide)
  · have hrun : (s.chan c).training.freeRun (s.stashGranules c) t.granules = none := by
      rw [State.stashGranules_of_bound_zero hbound]; exact Training.freeRun_zero _ hsize
    rw [exec_stashOut_of_takesUp hready htakes, State.takeOut_of_noRun hbank hrun]

end Sys2Proof.Machine

/-! ### Packets forwarded (R303, R318) -/

namespace Sys2Proof.Machine

/-- E2E_CRC takes HOPS as zero (Table 10.4), so that a forwarded packet verifies where it did. -/
theorem Packet.crc_hops (k : Packet) (n : Nat) : ({ k with hops := n } : Packet).crc = k.crc := rfl

section Forwarding
variable {s : State} {c : Chan} {k : Packet}

@[simp] theorem State.address_onNet (s : State) (c d : Chan) (f : Transport → Transport) :
    (s.onNet c f).address d = s.address d := by
  unfold State.address State.moduleNumber State.onNet
  rw [State.ent_od (s.onChan_od c _)]

theorem State.sendPacket_of_route {p : Nat} {source : Option Nat} (hdest : k.dest ≠ s.address c)
    (hroute : (s.route c k.source k.dest).1 = some p) :
    s.sendPacket c k source = (s.route c k.source k.dest).2.enqueue c p k source := by
  simp [State.sendPacket, hdest, hroute]

@[simp] theorem unreachableFor_dest (a : Nat) (k : Packet) : (unreachableFor a k).dest = k.source := rfl

@[simp] theorem unreachableFor_source (a : Nat) (k : Packet) : (unreachableFor a k).source = a := rfl

theorem State.sendUnreachable_of_own (hsource : k.source = s.address c) :
    s.sendUnreachable c k = s.toInbox c none (unreachableFor (s.address c) k) := by
  simp [State.sendUnreachable, hsource]

theorem State.sendUnreachable_of_route {p : Nat} (hsource : k.source ≠ s.address c)
    (hroute : (s.route c (s.address c) k.source).1 = some p) :
    s.sendUnreachable c k =
      (s.route c (s.address c) k.source).2.enqueue c p (unreachableFor (s.address c) k) none := by
  simp [State.sendUnreachable, hsource, hroute]

theorem State.sendUnreachable_of_noRoute (hsource : k.source ≠ s.address c)
    (hroute : (s.route c (s.address c) k.source).1 = none) :
    s.sendUnreachable c k = (s.route c (s.address c) k.source).2 := by
  simp [State.sendUnreachable, hsource, hroute]

/-- A packet for another channel, out of the receive buffer: discarded with HOPS 0, else sent on with HOPS one less. -/
theorem exec_packetForward_of_elsewhere {src : Option Nat} {u : State} (hrun : (s.chan c).linksRun = true)
    (hdest : k.dest ≠ s.address c) (hsrc : src = ((s.chan c).net.inbox.find? (fun e => e.2 == k)).bind (·.1))
    (hu : u = s.onNet c (fun n => { n with inbox := n.inbox.erase (src, k) })) :
    exec (.packetForward c k) s = .next
      (if k.hops = 0 then ((u.giveBack c src k).bump c (kLink c 0xD4)).sendUnreachable c k
       else u.sendPacket c { k with hops := k.hops - 1 } src) := by
  subst hsrc hu
  show execPacketForward c k s = _
  simp [execPacketForward, hrun, hdest]

end Forwarding

/-- Settles O51: the command's two ways by HOPS; taking the packet out of the buffer leaves the channel's address, so that the
packet goes on by its route. -/
theorem packetForwarded : Obligations.PacketForwarded := by
  refine ⟨fun c k src s u hrun hdest hsrc hu => ⟨fun p hhops hroute => ?_, fun hhops w hw => ⟨?_, ?_, ?_⟩⟩,
    Packet.crc_hops, fun a k => ⟨rfl, rfl, rfl, rfl⟩⟩
  · have hdest' : k.dest ≠ u.address c := by rwa [hu, State.address_onNet]
    rw [exec_packetForward_of_elsewhere hrun hdest hsrc hu, if_neg hhops.ne']
    exact congrArg _ (State.sendPacket_of_route (k := { k with hops := k.hops - 1 }) hdest' hroute)
  · rw [exec_packetForward_of_elsewhere hrun hdest hsrc hu, if_pos hhops, hw]
  · exact fun hsource => ⟨fun p => State.sendUnreachable_of_route hsource, State.sendUnreachable_of_noRoute hsource⟩
  · exact State.sendUnreachable_of_own

end Sys2Proof.Machine

/-! ### Doorbells (R416) -/

namespace Sys2Proof.Machine

/-- The model forms the difference of two indices on naturals, with the size added; it is the difference modulo the size of R416. -/
theorem natCast_add_sub_mod {size last : Nat} (hlast : last ≤ size) (i : Nat) :
    (((i + size - last) % size : Nat) : Int) = ((i : Int) - last) % size := by
  have hshift : ((i + size - last : Nat) : Int) = (i : Int) - last + size := by omega
  rw [Int.natCast_mod, hshift, Int.add_emod_right]

/-- The two conditions of R416, with the modulo of signed numbers. -/
theorem doorbellOk_iff {size last : Nat} (hlast : last < size) (bound value : Nat) :
    doorbellOk size last bound value = true ↔
      value < size ∧ ((value : Int) - last) % size ≤ ((bound : Int) - last) % size := by
  simp only [doorbellOk, Bool.and_eq_true, decide_eq_true_eq, ← natCast_add_sub_mod hlast.le, Int.ofNat_le]

/-- The bound of SQ_TAIL is SQ_HEAD − 1, which the model forms as the index before SQ_HEAD in the carousel. -/
theorem doorbellOk_pred_iff {size last : Nat} (hlast : last < size) (head value : Nat) :
    doorbellOk size last ((head + size - 1) % size) value = true ↔
      value < size ∧ ((value : Int) - last) % size ≤ ((head : Int) - 1 - last) % size := by
  rw [doorbellOk_iff hlast, natCast_add_sub_mod (Nat.one_le_of_lt hlast), Int.emod_sub_emod, Nat.cast_one]

section Doorbells
variable {s : State} {c : Chan}

theorem exec_sqTail_of_hostServed (x : Ctx) (v : Word) (hserved : s.hostServed c = true) :
    exec (.sqTail c x v) s = .next (s.writeTail c x.val v.toNat) := by
  show execSqTail c x v s = _
  rw [execSqTail, if_pos hserved]

theorem exec_cqHead_of_hostServed (x : Ctx) (v : Word) (hserved : s.hostServed c = true) :
    exec (.cqHead c x v) s = .next (s.writeHead c x.val v.toNat) := by
  show execCqHead c x v s = _
  rw [execCqHead, if_pos hserved]

theorem exec_eventHead_of_hostServed (v : Word) (hserved : s.hostServed c = true) :
    exec (.eventHead c v) s = .next (s.writeEventHead c v.toNat) := by
  show execEventHead c v s = _
  rw [execEventHead, if_pos hserved]

section OpenContext
variable {x : Nat} {k : Context} (hk : k = (s.chan c).context x) (henabled : k.enabled = true)
  (hopen : k.draining = false)
include hk henabled hopen

theorem State.writeTail_of_open (htail : k.sqTail < k.sqSize) (v : Nat) :
    s.writeTail c x v =
      if v % 65536 < k.sqSize ∧
          (((v % 65536 : Nat) : Int) - k.sqTail) % k.sqSize ≤ ((k.sqHead : Int) - 1 - k.sqTail) % k.sqSize then
        s.onChan c (fun h => h.setContext x { k with sqTail := v % 65536 })
      else s.doorbellError c x 0 v := by
  simp only [State.writeTail, ← hk, henabled, hopen, Bool.not_false, Bool.true_and, doorbellOk_pred_iff htail]

theorem State.writeHead_of_open (hhead : k.cqHead < k.cqSize) (v : Nat) :
    s.writeHead c x v =
      if v % 65536 < k.cqSize ∧
          (((v % 65536 : Nat) : Int) - k.cqHead) % k.cqSize ≤ ((k.cqTail : Int) - k.cqHead) % k.cqSize then
        (s.onChan c (fun h => h.setContext x { k with cqHead := v % 65536 })).flushHeld c x
      else s.doorbellError c x 1 v := by
  simp only [State.writeHead, ← hk, henabled, hopen, Bool.not_false, Bool.true_and, doorbellOk_iff hhead]

end OpenContext

/-- Log entry 29: a context takes no doorbell unless it is enabled and not draining. -/
theorem enabled_and_not_draining_eq_false {k : Context} (hclosed : k.enabled = false ∨ k.draining = true) :
    (k.enabled && !k.draining) = false := by
  rcases hclosed with h | h <;> simp [h]

theorem State.writeTail_of_closed {x : Nat}
    (hclosed : ((s.chan c).context x).enabled = false ∨ ((s.chan c).context x).draining = true) (v : Nat) :
    s.writeTail c x v = s.doorbellError c x 0 v := by
  simp [State.writeTail, enabled_and_not_draining_eq_false hclosed]

theorem State.writeHead_of_closed {x : Nat}
    (hclosed : ((s.chan c).context x).enabled = false ∨ ((s.chan c).context x).draining = true) (v : Nat) :
    s.writeHead c x v = s.doorbellError c x 1 v := by
  simp [State.writeHead, enabled_and_not_draining_eq_false hclosed]

/-- Bits [12:0] are always below the 8,192 entries of the event carousel: of the two conditions the second is left. -/
theorem State.writeEventHead_eq {k : Carousel} (hk : k = (s.chan c).host.events) (hhead : k.head < 8192) (v : Nat) :
    s.writeEventHead c v =
      if (((v % 8192 : Nat) : Int) - k.head) % 8192 ≤ ((k.tail : Int) - k.head) % 8192 then
        s.onChan c (fun h => { h with host := { h.host with events := { k with head := v % 8192 } } })
      else s.doorbellError c 0xFF 2 v := by
  have hlt : v % 8192 < 8192 := Nat.mod_lt _ (by decide)
  have hok := doorbellOk_iff (size := 8192) hhead k.tail (v % 8192)
  simp only [hlt, true_and, Nat.cast_ofNat] at hok
  simp only [State.writeEventHead, ← hk, carouselSize, hok]

theorem RcCounter.add_one_of_lt {r : RcCounter} {bits : Nat} (hlt : r.value + 1 < 2 ^ bits - 1) :
    r.add bits 1 = { r with value := r.value + 1 } :=
  if_pos hlt

@[simp] theorem RcCounter.saturates_value (r : RcCounter) (n : Nat) : r.saturates { r with value := n } = false :=
  Bool.and_not_self _

/-- Short of saturation DOORBELL_ERRORS advances without event 0x0001, so that 0x0005 is the only event. -/
theorem State.doorbellError_of_lt (hlt : (s.chan c).host.doorbellErrors.value + 1 < 2 ^ 63 - 1) (x reg v : Nat) :
    s.doorbellError c x reg v = (s.onChan c (fun h => { h with host := { h.host with doorbellErrors :=
      { h.host.doorbellErrors with value := h.host.doorbellErrors.value + 1 } } })).raise c 0x0005
        (leBytes 1 x ++ leBytes 1 reg ++ leBytes 4 v) := by
  simp only [State.doorbellError, RcCounter.add_one_of_lt hlt, RcCounter.saturates_value, Bool.false_eq_true, if_false]
  rfl

/-- Offsets from 0x10000 to 0x3FFFFF of a channel's region, in which the doorbell pages lie, hold nothing that reads. -/
theorem State.readChannelWord_of_doorbellPage {r : Nat} (havail : s.available c = true) (hlow : 0x10000 ≤ r)
    (hhigh : r < 0x400000) : s.readChannelWord c r = 0 := by
  have hzero : r ≠ 0 := by omega
  have hcontext : ¬(0x2000 ≤ r ∧ r < 0x3000) := by omega
  have hsnapshot : ¬(0x1000 ≤ r ∧ r < 0x1800) := by omega
  have hentry : ¬(0x400000 ≤ r ∧ r < 0x800000) := by omega
  simp only [State.readChannelWord, hzero, havail, hcontext, hsnapshot, hentry, if_false, Bool.not_true, Bool.false_eq_true]
  split <;> omega

/-- Table 14.3: EVENT_HEAD is write-only. -/
theorem State.readChannelWord_eventHead (havail : s.available c = true) : s.readChannelWord c 0x50 = 0 := by
  simp [State.readChannelWord, havail]

end Doorbells

/-- Settles O31: each command writes its index by the two conditions of R416, which the model forms on naturals; DOORBELL_ERRORS
stays short of saturation; the doorbell pages and EVENT_HEAD lie where a read finds nothing. -/
theorem doorbellRule : Obligations.DoorbellRule := by
  refine ⟨fun c x v s k T hserved hk hT henabled hopen => ⟨fun htail _ => ?_, fun _ hhead => ?_⟩,
    fun c v s k H hserved hk hH _ hhead => ?_, fun c x v s hserved hclosed => ⟨?_, ?_⟩,
    fun c x reg v s hlt => State.doorbellError_of_lt hlt x reg v, fun c x s havail => ⟨?_, ?_, ?_⟩⟩
  · rw [exec_sqTail_of_hostServed x v hserved, State.writeTail_of_open hk henabled hopen htail, hT]
  · rw [exec_cqHead_of_hostServed x v hserved, State.writeHead_of_open hk henabled hopen hhead, hT]
  · rw [exec_eventHead_of_hostServed v hserved, State.writeEventHead_eq hk hhead, hH]
  · rw [exec_sqTail_of_hostServed x v hserved, State.writeTail_of_closed hclosed]
  · rw [exec_cqHead_of_hostServed x v hserved, State.writeHead_of_closed hclosed]
  · exact State.readChannelWord_of_doorbellPage havail (by omega) (by omega)
  · exact State.readChannelWord_of_doorbellPage havail (by omega) (by omega)
  · exact State.readChannelWord_eventHead havail

end Sys2Proof.Machine

/-! ### What every command keeps -/

namespace Sys2Proof.Machine

/-- The arms of `exec`, each by the law of its own command. -/
theorem exec_kept : ∀ (i : Instr) (s t : State), exec i s = .next t → s.Kept t (commandChannel i)
  | .modulePowerOn inputMillivolt selfTestPass, s, t, h => execModulePowerOn_kept inputMillivolt selfTestPass s t h
  | .modulePowerOff, s, t, h => execModulePowerOff_kept s t h
  | .supplyFault inputMillivolt, s, t, h => execSupplyFault_kept inputMillivolt s t h
  | .branchFuseOpen c, s, t, h => execBranchFuseOpen_kept c s t h
  | .portComplexRestart cause selfTestPass, s, t, h => execPortComplexRestart_kept cause selfTestPass s t h
  | .portComplexFailure, s, t, h => execPortComplexFailure_kept s t h
  | .pcieReset kind, s, t, h => execPcieReset_kept kind s t h
  | .pcieLinkUp, s, t, h => execPcieLinkUp_kept s t h
  | .msixVectorUnmask v, s, t, h => execMsixVectorUnmask_kept v s t h
  | .latchOpened slot, s, t, h => execLatchOpened_kept slot s t h
  | .powerCommand path c target, s, t, h => execPowerCommand_kept path c target s t h
  | .powerRampStart branchShort, s, t, h => execPowerRampStart_kept branchShort s t h
  | .transitionStepComplete c authA authB, s, t, h => execTransitionStepComplete_kept c authA authB s t h
  | .channelStartup c found, s, t, h => execChannelStartup_kept c found s t h
  | .limitTrip kind value, s, t, h => execLimitTrip_kept kind value s t h
  | .currentTripRecheck stillAbove value, s, t, h => execCurrentTripRecheck_kept stillAbove value s t h
  | .throttleTick sample, s, t, h => execThrottleTick_kept sample s t h
  | .coreVoltageSet via c value, s, t, h => execCoreVoltageSet_kept via c value s t h
  | .limitRegisterWrite via reg value, s, t, h => execLimitRegisterWrite_kept via reg value s t h
  | .metrologyConversionEnd c raw, s, t, h => execMetrologyConversionEnd_kept c raw s t h
  | .epochPulse, s, t, h => execEpochPulse_kept s t h
  | .referenceLost, s, t, h => execReferenceLost_kept s t h
  | .referenceReturned, s, t, h => execReferenceReturned_kept s t h
  | .timebaseLowRead c, s, t, h => execTimebaseLowRead_kept c s t h
  | .portTimebaseLowRead, s, t, h => execPortTimebaseLowRead_kept s t h
  | .perfSnapshot c, s, t, h => execPerfSnapshot_kept c s t h
  | .snapshotComplete c, s, t, h => execSnapshotComplete_kept c s t h
  | .arrayLayerExecute c job, s, t, h => execArrayLayerExecute_kept c job s t h
  | .tileReadIssue c, s, t, h => execTileReadIssue_kept c s t h
  | .tileReadComplete c read, s, t, h => execTileReadComplete_kept c read s t h
  | .vectorDelivery c job, s, t, h => execVectorDelivery_kept c job s t h
  | .deferredOutlierServe c, s, t, h => execDeferredOutlierServe_kept c s t h
  | .programDescriptor c job, s, t, h => execProgramDescriptor_kept c job s t h
  | .programRelease c job, s, t, h => execProgramRelease_kept c job s t h
  | .tileProgramStart c, s, t, h => execTileProgramStart_kept c s t h
  | .tileProgramComplete c prog verified, s, t, h => execTileProgramComplete_kept c prog verified s t h
  | .factorRefresh c, s, t, h => execFactorRefresh_kept c s t h
  | .poweredHour slot, s, t, h => execPoweredHour_kept slot s t h
  | .tileCalibrationStart c, s, t, h => execTileCalibrationStart_kept c s t h
  | .tileCalibrationComplete c cal, s, t, h => execTileCalibrationComplete_kept c cal s t h
  | .linkEyeMeasure c p width height islandTemp ser, s, t, h => execLinkEyeMeasure_kept c p width height islandTemp ser s t h
  | .linkRecalStart c p answer, s, t, h => execLinkRecalStart_kept c p answer s t h
  | .linkRecalRequest c a, s, t, h => execLinkRecalRequest_kept c a s t h
  | .linkRecalRetry c p answer, s, t, h => execLinkRecalRetry_kept c p answer s t h
  | .linkRecalForced c p answer, s, t, h => execLinkRecalForced_kept c p answer s t h
  | .productDescriptor c job, s, t, h => execProductDescriptor_kept c job s t h
  | .engineTileComplete c job tile, s, t, h => execEngineTileComplete_kept c job tile s t h
  | .transposeDescriptor c job, s, t, h => execTransposeDescriptor_kept c job s t h
  | .rowDescriptor c job, s, t, h => execRowDescriptor_kept c job s t h
  | .rasterDescriptor c job, s, t, h => execRasterDescriptor_kept c job s t h
  | .accumulateWrite c burst mask increments, s, t, h => execAccumulateWrite_kept c burst mask increments s t h
  | .readClear c burst, s, t, h => execReadClear_kept c burst s t h
  | .clear c addr length, s, t, h => execClear_kept c addr length s t h
  | .weightDescriptor c job, s, t, h => execWeightDescriptor_kept c job s t h
  | .weightRelease c job, s, t, h => execWeightRelease_kept c job s t h
  | .versionBuild c, s, t, h => execVersionBuild_kept c s t h
  | .programLoad c job, s, t, h => execProgramLoad_kept c job s t h
  | .programEntryStart c entry, s, t, h => execProgramEntryStart_kept c entry s t h
  | .descriptorComplete c job, s, t, h => execDescriptorComplete_kept c job s t h
  | .stashOut c job, s, t, h => execStashOut_kept c job s t h
  | .stashOutResume c, s, t, h => execStashOutResume_kept c s t h
  | .stashIn c job, s, t, h => execStashIn_kept c job s t h
  | .recomputeDescriptor c job, s, t, h => execRecomputeDescriptor_kept c job s t h
  | .numericsModeWrite path c value, s, t, h => execNumericsModeWrite_kept path c value s t h
  | .silenceWatchWrite path c offset data, s, t, h => execSilenceWatchWrite_kept path c offset data s t h
  | .signalDetected c p, s, t, h => execSignalDetected_kept c p s t h
  | .trainingRateSwitch c p, s, t, h => execTrainingRateSwitch_kept c p s t h
  | .pmdTrainingComplete c p locked, s, t, h => execPmdTrainingComplete_kept c p locked s t h
  | .capabilityMessage c a cap, s, t, h => execCapabilityMessage_kept c a cap s t h
  | .discoveryTimeout c p, s, t, h => execDiscoveryTimeout_kept c p s t h
  | .trainingRetry c p, s, t, h => execTrainingRetry_kept c p s t h
  | .dataFlit c p f, s, t, h => execDataFlit_kept c p f s t h
  | .idleFlit c p f, s, t, h => execIdleFlit_kept c p f s t h
  | .badFlit c p why, s, t, h => execBadFlit_kept c p why s t h
  | .replayTimeout c p, s, t, h => execReplayTimeout_kept c p s t h
  | .fastRetrainEnd c p, s, t, h => execFastRetrainEnd_kept c p s t h
  | .fastRetrainTimeout c p, s, t, h => execFastRetrainTimeout_kept c p s t h
  | .ticketReturnTimer c p, s, t, h => execTicketReturnTimer_kept c p s t h
  | .packetStart c p, s, t, h => execPacketStart_kept c p s t h
  | .packetForward c pkt, s, t, h => execPacketForward_kept c pkt s t h
  | .dataPacket c pkt, s, t, h => execDataPacket_kept c pkt s t h
  | .unknownPacketType c p pkt, s, t, h => execUnknownPacketType_kept c p pkt s t h
  | .segAck c pkt, s, t, h => execSegAck_kept c pkt s t h
  | .segAckTimer c seg, s, t, h => execSegAckTimer_kept c seg s t h
  | .e2eTimeout c seg seq, s, t, h => execE2eTimeout_kept c seg seq s t h
  | .unreachable c pkt, s, t, h => execUnreachable_kept c pkt s t h
  | .linkFailure c p lossOfLock, s, t, h => execLinkFailure_kept c p lossOfLock s t h
  | .goodbye c a, s, t, h => execGoodbye_kept c a s t h
  | .goodbyeWaitEnd c, s, t, h => execGoodbyeWaitEnd_kept c s t h
  | .portEnableWrite path c p value, s, t, h => execPortEnableWrite_kept path c p value s t h
  | .planWrite path c p value, s, t, h => execPlanWrite_kept path c p value s t h
  | .moduleNumberWrite path value, s, t, h => execModuleNumberWrite_kept path value s t h
  | .uplinkNotice c a notice, s, t, h => execUplinkNotice_kept c a notice s t h
  | .groupDescriptor c job, s, t, h => execGroupDescriptor_kept c job s t h
  | .groupRelease c job, s, t, h => execGroupRelease_kept c job s t h
  | .groupFree c group, s, t, h => execGroupFree_kept c group s t h
  | .join c pkt, s, t, h => execJoin_kept c pkt s t h
  | .joinRepeat c group, s, t, h => execJoinRepeat_kept c group s t h
  | .blockReady c pkt, s, t, h => execBlockReady_kept c pkt s t h
  | .admitMsg c pkt, s, t, h => execAdmitMsg_kept c pkt s t h
  | .refuse c pkt, s, t, h => execRefuse_kept c pkt s t h
  | .groupFormTimeout c group, s, t, h => execGroupFormTimeout_kept c group s t h
  | .heartbeatSend c group, s, t, h => execHeartbeatSend_kept c group s t h
  | .heartbeat c pkt, s, t, h => execHeartbeat_kept c pkt s t h
  | .ringmasterTimeout c group, s, t, h => execRingmasterTimeout_kept c group s t h
  | .takeoverRequest c pkt, s, t, h => execTakeoverRequest_kept c pkt s t h
  | .newEpoch c pkt, s, t, h => execNewEpoch_kept c pkt s t h
  | .planDescriptor c job, s, t, h => execPlanDescriptor_kept c job s t h
  | .planRelease c job, s, t, h => execPlanRelease_kept c job s t h
  | .bucketConvert c group bucket, s, t, h => execBucketConvert_kept c group bucket s t h
  | .partialPkt c pkt, s, t, h => execPartialPkt_kept c pkt s t h
  | .slotWaitResume c, s, t, h => execSlotWaitResume_kept c s t h
  | .param c pkt, s, t, h => execParam_kept c pkt s t h
  | .bankWriteResume c, s, t, h => execBankWriteResume_kept c s t h
  | .normPart c pkt, s, t, h => execNormPart_kept c pkt s t h
  | .norm c pkt, s, t, h => execNorm_kept c pkt s t h
  | .reduced c pkt, s, t, h => execReduced_kept c pkt s t h
  | .preparedSend c, s, t, h => execPreparedSend_kept c s t h
  | .prepared c pkt, s, t, h => execPrepared_kept c pkt s t h
  | .sealed c pkt, s, t, h => execSealed_kept c pkt s t h
  | .digestUp c pkt, s, t, h => execDigestUp_kept c pkt s t h
  | .digestDown c pkt, s, t, h => execDigestDown_kept c pkt s t h
  | .recorded c pkt, s, t, h => execRecorded_kept c pkt s t h
  | .commit c pkt, s, t, h => execCommit_kept c pkt s t h
  | .abort c pkt, s, t, h => execAbort_kept c pkt s t h
  | .stepTimeout c, s, t, h => execStepTimeout_kept c s t h
  | .statusQuery c pkt, s, t, h => execStatusQuery_kept c pkt s t h
  | .status c pkt, s, t, h => execStatus_kept c pkt s t h
  | .statusQueryTimeout c, s, t, h => execStatusQueryTimeout_kept c s t h
  | .barrierDescriptor c job, s, t, h => execBarrierDescriptor_kept c job s t h
  | .barrierArrive c pkt, s, t, h => execBarrierArrive_kept c pkt s t h
  | .barrierRelease c pkt, s, t, h => execBarrierRelease_kept c pkt s t h
  | .replicaDescriptor c job, s, t, h => execReplicaDescriptor_kept c job s t h
  | .replicaRelease c job, s, t, h => execReplicaRelease_kept c job s t h
  | .replica c pkt, s, t, h => execReplica_kept c pkt s t h
  | .replicaEnd c pkt, s, t, h => execReplicaEnd_kept c pkt s t h
  | .replicaVerified c pkt, s, t, h => execReplicaVerified_kept c pkt s t h
  | .secure c pkt, s, t, h => execSecure_kept c pkt s t h
  | .secured c pkt, s, t, h => execSecured_kept c pkt s t h
  | .unwind c pkt, s, t, h => execUnwind_kept c pkt s t h
  | .memberHeartbeatTimeout c rank, s, t, h => execMemberHeartbeatTimeout_kept c rank s t h
  | .memberLost c pkt, s, t, h => execMemberLost_kept c pkt s t h
  | .spareClaim c pkt, s, t, h => execSpareClaim_kept c pkt s t h
  | .spareAccept c pkt, s, t, h => execSpareAccept_kept c pkt s t h
  | .spareClaimTimeout c, s, t, h => execSpareClaimTimeout_kept c s t h
  | .spareRescan c, s, t, h => execSpareRescan_kept c s t h
  | .replace c pkt, s, t, h => execReplace_kept c pkt s t h
  | .fillDescriptor c job, s, t, h => execFillDescriptor_kept c job s t h
  | .fillRequest c pkt, s, t, h => execFillRequest_kept c pkt s t h
  | .paramResend c pkt, s, t, h => execParamResend_kept c pkt s t h
  | .filled c pkt, s, t, h => execFilled_kept c pkt s t h
  | .rebuilt c pkt, s, t, h => execRebuilt_kept c pkt s t h
  | .shardsLost c pkt, s, t, h => execShardsLost_kept c pkt s t h
  | .withdraw path c value, s, t, h => execWithdraw_kept path c value s t h
  | .resetDescriptor c job, s, t, h => execResetDescriptor_kept c job s t h
  | .resetMsg c pkt, s, t, h => execResetMsg_kept c pkt s t h
  | .resetDone c pkt, s, t, h => execResetDone_kept c pkt s t h
  | .resetRelease c pkt, s, t, h => execResetRelease_kept c pkt s t h
  | .contextEnable c x priority, s, t, h => execContextEnable_kept c x priority s t h
  | .contextDrain c x priority, s, t, h => execContextDrain_kept c x priority s t h
  | .sqTail c x value, s, t, h => execSqTail_kept c x value s t h
  | .cqHead c x value, s, t, h => execCqHead_kept c x value s t h
  | .eventHead c value, s, t, h => execEventHead_kept c value s t h
  | .eventControlWrite c value, s, t, h => execEventControlWrite_kept c value s t h
  | .entryFetch c, s, t, h => execEntryFetch_kept c s t h
  | .fence c job, s, t, h => execFence_kept c job s t h
  | .abandon c job, s, t, h => execAbandon_kept c job s t h
  | .nop c job, s, t, h => execNop_kept c job s t h
  | .invalidEntry c job, s, t, h => execInvalidEntry_kept c job s t h
  | .coalesceTimeout c x, s, t, h => execCoalesceTimeout_kept c x s t h
  | .hostTransfer c job, s, t, h => execHostTransfer_kept c job s t h
  | .moverPiece hostData, s, t, h => execMoverPiece_kept hostData s t h
  | .rcRegisterRead reg, s, t, h => execRcRegisterRead_kept reg s t h
  | .registerWrite offset wide value, s, t, h => execRegisterWrite_kept offset wide value s t h
  | .odRead path index sub offset length, s, t, h => execOdRead_kept path index sub offset length s t h
  | .odWrite path index sub offset data, s, t, h => execOdWrite_kept path index sub offset data s t h
  | .authenticate path data, s, t, h => execAuthenticate_kept path data s t h
  | .authLockoutEnd mailbox, s, t, h => execAuthLockoutEnd_kept mailbox s t h
  | .drop path, s, t, h => execDrop_kept path s t h
  | .subscribe path data, s, t, h => execSubscribe_kept path data s t h
  | .challengeRead path, s, t, h => execChallengeRead_kept path s t h
  | .challengeExpiry path, s, t, h => execChallengeExpiry_kept path s t h
  | .hello client, s, t, h => execHello_kept client s t h
  | .sessionInit client version part body, s, t, h => execSessionInit_kept client version part body s t h
  | .sessionInitPartTimeout, s, t, h => execSessionInitPartTimeout_kept s t h
  | .request f, s, t, h => execRequest_kept f s t h
  | .notifyAck f, s, t, h => execNotifyAck_kept f s t h
  | .notifyResend session, s, t, h => execNotifyResend_kept session s t h
  | .keepalive f, s, t, h => execKeepalive_kept f s t h
  | .close f, s, t, h => execClose_kept f s t h
  | .sessionIdleTimeout session, s, t, h => execSessionIdleTimeout_kept session s t h
  | .migerFrameDiscarded client why, s, t, h => execMigerFrameDiscarded_kept client why s t h
  | .coreWatchdog c core, s, t, h => execCoreWatchdog_kept c core s t h
  | .fwStage path c, s, t, h => execFwStage_kept path c s t h
  | .fwVerifyComplete c, s, t, h => execFwVerifyComplete_kept c s t h
  | .fwWriteComplete c ok, s, t, h => execFwWriteComplete_kept c ok s t h
  | .fwActivate path c, s, t, h => execFwActivate_kept path c s t h
  | .fwConfirm path c, s, t, h => execFwConfirm_kept path c s t h
  | .reboot path c, s, t, h => execReboot_kept path c s t h
  | .trialTimeout c, s, t, h => execTrialTimeout_kept c s t h
  | .portImage path offset data, s, t, h => execPortImage_kept path offset data s t h
  | .portStage path, s, t, h => execPortStage_kept path s t h
  | .portActivate path, s, t, h => execPortActivate_kept path s t h
  | .portConfirm path, s, t, h => execPortConfirm_kept path s t h
  | .servicePolicyWrite path which value, s, t, h => execServicePolicyWrite_kept path which value s t h
  | .recoveryImage path c offset data, s, t, h => execRecoveryImage_kept path c offset data s t h
  | .fwKeyRevoke path c value, s, t, h => execFwKeyRevoke_kept path c value s t h
  | .attestNonce path c nonce, s, t, h => execAttestNonce_kept path c nonce s t h
  | .attestReportSigned c, s, t, h => execAttestReportSigned_kept c s t h
  | .installerSecret path secret, s, t, h => execInstallerSecret_kept path secret s t h
  | .auditFlush c, s, t, h => execAuditFlush_kept c s t h
  | .debugEnable path c value, s, t, h => execDebugEnable_kept path c value s t h
  | .selfTestCommand path c value, s, t, h => execSelfTestCommand_kept path c value s t h
  | .selfTestComplete c failUnit restored, s, t, h => execSelfTestComplete_kept c failUnit restored s t h
  | .internalFault c, s, t, h => execInternalFault_kept c s t h
  | .linkRecalibrationComplete c p ok width height, s, t, h => execLinkRecalibrationComplete_kept c p ok width height s t h
  | .busMasterEnable value, s, t, h => execBusMasterEnable_kept value s t h
  | .latchClosed slot, s, t, h => execLatchClosed_kept slot s t h
  | .malformedRequest path, s, t, h => execMalformedRequest_kept path s t h

/-- A step keeps the canonical form of the memories and the fuses, whether it runs a command or lets a tick pass. -/
theorem step_kept {s t : State} (h : step s = .next t) :
    s.module.fw.Kept t.module.fw ∧ ∀ c : Chan, (s.chan c).Kept (t.chan c) := by
  unfold step at h
  split at h
  · cases h
    have k := State.tick_kept s (State.Kept.refl s)
    exact ⟨k.module, k.chan⟩
  · have k := exec_kept _ _ _ h
    exact ⟨k.module, k.chan⟩

/-- Settles O5: every step keeps the canonical form of each channel's memory. -/
theorem memoryFormKept : Obligations.MemoryFormKept :=
  fun _ _ hs h c => ((step_kept h).2 c).mem (hs c)

/-- Settles O7: every step keeps the fuses of each die, and Table 18.1 with them. -/
theorem fusesOnlyAdded : Obligations.FusesOnlyAdded := by
  intro s t h
  obtain ⟨hmodule, hchan⟩ := step_kept h
  exact ⟨⟨hmodule.1, fun c => (hchan c).fw.1⟩, fun ⟨hm, hc⟩ => ⟨hmodule.2 hm, fun c => (hchan c).fw.2 (hc c)⟩⟩

/-- Settles O8: the law of each command names the channel that it may change. -/
theorem channelsKeptApart : Obligations.ChannelsKeptApart :=
  fun i c s t hc h => (exec_kept i s t h).apart c hc

/-- Settles O6: the law of each command leaves the queue. -/
theorem commandsLeaveQueue : Obligations.CommandsLeaveQueue :=
  fun i s t h => (exec_kept i s t h).pending

/-- Settles O1: the step's own equation with a command in front. -/
theorem stepRunsFrontCommand : Obligations.StepRunsFrontCommand := fun _ _ _ => rfl

end Sys2Proof.Machine

/-! ### What an event leaves (R425 to R427, R491) -/

namespace Sys2Proof.Machine

/-- A fold whose steps keep a part of the state keeps it. -/
theorem foldl_proj_eq {σ α β : Type} {f : σ → α → σ} (p : σ → β) (hf : ∀ s a, p (f s a) = p s) (l : List α) (s : σ) :
    p (l.foldl f s) = p s :=
  List.foldlRecOn l f (motive := fun t => p t = p s) rfl (fun t ht a _ => (hf t a).trans ht)

/-- What keeps every channel apart from each single one keeps all four. -/
theorem State.chan_eq_of_kept {s t : State} (h : ∀ k, s.Kept t k) (d : Chan) : t.chan d = s.chan d := by
  have hne : d ≠ d + 1 := by revert d; decide
  exact (h (some (d + 1))).apart _ rfl d hne

/-- The module's shared parts with the two that events reach cleared. -/
def Module.besideEvents (m : Module) : Module := { m with endpoint := Endpoint.reset, sessions := [] }

/-- A channel with the three parts that events reach cleared. -/
def Channel.besideEvents (h : Channel) : Channel := { h with mem := [], storeErr := [], host := HostPart.reset }

theorem State.eventsOnly_of_besideEvents {s t : State} (hpending : t.pending = s.pending)
    (hmodule : t.module.besideEvents = s.module.besideEvents)
    (hchan : ∀ c, (t.chan c).besideEvents = (s.chan c).besideEvents) : s.eventsOnly t := by
  refine ⟨hpending, ?_, fun c => ?_⟩
  · exact congrArg (fun m : Module => { m with endpoint := s.module.endpoint, sessions := s.module.sessions }) hmodule
  · exact congrArg (fun h : Channel => { h with mem := (s.chan c).mem, storeErr := (s.chan c).storeErr, host := (s.chan c).host })
      (hchan c)

section PortEvents
variable (s : State)

@[simp] theorem State.requestVector_besideEvents (v : Nat) :
    (s.requestVector v).module.besideEvents = s.module.besideEvents := by
  unfold State.requestVector; dsimp only; split <;> rfl

@[simp] theorem State.bumpRaw_module (key n : Nat) : (s.bumpRaw key n).2.module = s.module := by
  unfold State.bumpRaw; dsimp only
  split
  · rfl
  · split
    · rfl
    · split <;> rfl

@[simp] theorem State.closeSession_besideEvents (id : Nat) (reason : Option Nat) :
    (s.closeSession id reason).module.besideEvents = s.module.besideEvents := by
  unfold State.closeSession
  split
  · rfl
  · cases reason <;> rfl

@[simp] theorem State.sessionFrame_besideEvents (id ftype : Nat) (body : List Byte) :
    (s.sessionFrame id ftype body).module.besideEvents = s.module.besideEvents := by
  unfold State.sessionFrame
  split
  · rfl
  · split
    · rfl
    · exact s.closeSession_besideEvents _ _

@[simp] theorem State.notify_besideEvents (id : Nat) :
    (s.notify id).module.besideEvents = s.module.besideEvents := by
  unfold State.notify
  split
  · rfl
  · split
    · rfl
    · exact State.sessionFrame_besideEvents _ _ _ _

@[simp] theorem State.offerOnce_besideEvents (e : Event) :
    (s.offerOnce e).2.module.besideEvents = s.module.besideEvents := by
  unfold State.offerOnce; dsimp only
  rw [foldl_proj_eq (fun t : State => t.module.besideEvents) State.notify_besideEvents, State.bumpRaw_module]
  rfl

@[simp] theorem State.fifoPut_besideEvents (e : Event) :
    (s.fifoPut e).2.module.besideEvents = s.module.besideEvents := by
  unfold State.fifoPut; dsimp only
  split
  · rfl
  · exact State.requestVector_besideEvents _ _

@[simp] theorem State.offerEvent_besideEvents (e : Event) :
    (s.offerEvent e).module.besideEvents = s.module.besideEvents := by
  unfold State.offerEvent; dsimp only
  split <;> simp

@[simp] theorem State.pushFifo_besideEvents (e : Event) :
    (s.pushFifo e).module.besideEvents = s.module.besideEvents := by
  unfold State.pushFifo; dsimp only
  split <;> simp

@[simp] theorem State.raisePort_besideEvents (c code : Nat) (data : List Byte) :
    (s.raisePort c code data).module.besideEvents = s.module.besideEvents := by
  simp [State.raisePort]

@[simp] theorem State.requestVector_chan (v : Nat) (d : Chan) : (s.requestVector v).chan d = s.chan d :=
  State.chan_eq_of_kept (fun _ => State.requestVector_kept s v (State.Kept.refl s)) d

@[simp] theorem State.offerEvent_chan (e : Event) (d : Chan) : (s.offerEvent e).chan d = s.chan d :=
  State.chan_eq_of_kept (fun _ => State.offerEvent_kept s e (State.Kept.refl s)) d

@[simp] theorem State.raisePort_chan (c code : Nat) (data : List Byte) (d : Chan) :
    (s.raisePort c code data).chan d = s.chan d :=
  State.chan_eq_of_kept (fun _ => State.raisePort_kept s c code data (State.Kept.refl s)) d

@[simp] theorem State.raisePort_pending (c code : Nat) (data : List Byte) : (s.raisePort c code data).pending = s.pending :=
  (State.raisePort_kept (kc := none) s c code data (State.Kept.refl s)).pending

end PortEvents

section ChannelEvents
variable (s : State) (c : Chan)

/-- A channel changed in its memory, store errors and host part alone. -/
theorem State.chan_onChan_besideEvents {f : Channel → Channel} (hf : ∀ h, (f h).besideEvents = h.besideEvents) (d : Chan) :
    ((s.onChan c f).chan d).besideEvents = (s.chan d).besideEvents := by
  by_cases hd : d = c
  · subst hd; rw [State.chan_onChan_self, hf]
  · rw [State.chan_onChan_other s hd]

@[simp] theorem State.loseEvent_besideEvents :
    (s.loseEvent c).module.besideEvents = s.module.besideEvents := by
  unfold State.loseEvent; dsimp only
  split <;> simp

@[simp] theorem State.loseEvent_chan_besideEvents (d : Chan) :
    ((s.loseEvent c).chan d).besideEvents = (s.chan d).besideEvents := by
  unfold State.loseEvent; dsimp only
  split
  · rw [State.offerEvent_chan]; exact State.chan_onChan_besideEvents s c (by intro _; rfl) d
  · exact State.chan_onChan_besideEvents s c (by intro _; rfl) d

@[simp] theorem State.signalEvents_besideEvents :
    (s.signalEvents c).module.besideEvents = s.module.besideEvents := by
  unfold State.signalEvents; dsimp only
  split <;> simp

@[simp] theorem State.signalEvents_chan_besideEvents (d : Chan) :
    ((s.signalEvents c).chan d).besideEvents = (s.chan d).besideEvents := by
  unfold State.signalEvents; dsimp only
  split
  · rw [State.requestVector_chan]; exact State.chan_onChan_besideEvents s c (by intro _; rfl) d
  · exact State.chan_onChan_besideEvents s c (by intro _; rfl) d

@[simp] theorem State.carouselWrite_besideEvents (e : Event) :
    (s.carouselWrite c e).module.besideEvents = s.module.besideEvents := by
  unfold State.carouselWrite; dsimp only
  split <;> simp

@[simp] theorem State.carouselWrite_chan_besideEvents (e : Event) (d : Chan) :
    ((s.carouselWrite c e).chan d).besideEvents = (s.chan d).besideEvents := by
  unfold State.carouselWrite; dsimp only
  split
  · simp
  · rw [State.signalEvents_chan_besideEvents]; exact State.chan_onChan_besideEvents s c (by intro _; rfl) d

@[simp] theorem State.carouselPut_besideEvents (e : Event) :
    (s.carouselPut c e).module.besideEvents = s.module.besideEvents := by
  unfold State.carouselPut; dsimp only
  split
  · simp
  · split <;> simp

@[simp] theorem State.carouselPut_chan_besideEvents (e : Event) (d : Chan) :
    ((s.carouselPut c e).chan d).besideEvents = (s.chan d).besideEvents := by
  unfold State.carouselPut; dsimp only
  split
  · simp
  · split
    · simp
    · exact State.chan_onChan_besideEvents s c (by intro _; rfl) d

@[simp] theorem State.raise_besideEvents (code : Nat) (data : List Byte) :
    (s.raise c code data).module.besideEvents = s.module.besideEvents := by
  simp [State.raise]

@[simp] theorem State.raise_chan_besideEvents (code : Nat) (data : List Byte) (d : Chan) :
    ((s.raise c code data).chan d).besideEvents = (s.chan d).besideEvents := by
  simp [State.raise]

theorem State.raise_chan_other {d : Chan} (hd : d ≠ c) (code : Nat) (data : List Byte) :
    (s.raise c code data).chan d = s.chan d :=
  (State.raise_kept s c code data (State.Kept.refl s) (Covers.self c)).apart c rfl d hd

@[simp] theorem State.raise_pending (code : Nat) (data : List Byte) : (s.raise c code data).pending = s.pending :=
  (State.raise_kept s c code data (State.Kept.refl s) (Covers.self c)).pending

theorem State.raise_eventsOnly (code : Nat) (data : List Byte) : s.eventsOnly (s.raise c code data) :=
  State.eventsOnly_of_besideEvents (by simp) (by simp) (by simp)

theorem State.raisePort_eventsOnly (n code : Nat) (data : List Byte) : s.eventsOnly (s.raisePort n code data) :=
  State.eventsOnly_of_besideEvents (by simp) (by simp) (by simp)

end ChannelEvents

/-- Settles O9: each part of raising an event, down to the frames of a session, leaves what is beside the parts that events
reach. -/
theorem eventLeavesTheRest : Obligations.EventLeavesTheRest := by
  refine fun s code data => ⟨fun c => ⟨s.raise_eventsOnly c code data, fun d hd => ?_⟩, fun c =>
    ⟨s.raisePort_eventsOnly c code data, s.raisePort_chan c code data⟩⟩
  rw [State.raise_chan_other s c hd]

end Sys2Proof.Machine

/-! ### Clocks (R55 to R58) and parts that events leave -/

namespace Sys2Proof.Machine

section PartsBesideEvents
variable (s : State)

@[simp] theorem State.raise_clock (c : Chan) (code : Nat) (data : List Byte) :
    (s.raise c code data).module.clock = s.module.clock :=
  (congrArg Module.clock (s.raise_besideEvents c code data) :)

@[simp] theorem State.raise_chan_clock (c : Chan) (code : Nat) (data : List Byte) (d : Chan) :
    ((s.raise c code data).chan d).clock = (s.chan d).clock :=
  (congrArg Channel.clock (s.raise_chan_besideEvents c code data d) :)

@[simp] theorem State.raise_chan_power (c : Chan) (code : Nat) (data : List Byte) (d : Chan) :
    ((s.raise c code data).chan d).power = (s.chan d).power :=
  (congrArg Channel.power (s.raise_chan_besideEvents c code data d) :)

@[simp] theorem State.raise_chan_arrays (c : Chan) (code : Nat) (data : List Byte) (d : Chan) :
    ((s.raise c code data).chan d).arrays = (s.chan d).arrays :=
  (congrArg Channel.arrays (s.raise_chan_besideEvents c code data d) :)

@[simp] theorem State.raise_rampQueue (c : Chan) (code : Nat) (data : List Byte) :
    (s.raise c code data).module.rampQueue = s.module.rampQueue :=
  (congrArg Module.rampQueue (s.raise_besideEvents c code data) :)

@[simp] theorem State.raisePort_clock (n code : Nat) (data : List Byte) :
    (s.raisePort n code data).module.clock = s.module.clock :=
  (congrArg Module.clock (s.raisePort_besideEvents n code data) :)

@[simp] theorem State.raisePort_rampQueue (n code : Nat) (data : List Byte) :
    (s.raisePort n code data).module.rampQueue = s.module.rampQueue :=
  (congrArg Module.rampQueue (s.raisePort_besideEvents n code data) :)

@[simp] theorem State.raisePort_on (n code : Nat) (data : List Byte) :
    (s.raisePort n code data).module.on = s.module.on :=
  (congrArg Module.on (s.raisePort_besideEvents n code data) :)

@[simp] theorem State.watchDegraded_chan (old : State) (d : Chan) : (s.watchDegraded old).chan d = s.chan d := by
  unfold State.watchDegraded; split <;> simp

@[simp] theorem State.watchDegraded_rampQueue (old : State) :
    (s.watchDegraded old).module.rampQueue = s.module.rampQueue := by
  unfold State.watchDegraded; split <;> simp

@[simp] theorem State.watchDegraded_self : s.watchDegraded s = s := by
  simp [State.watchDegraded]

end PartsBesideEvents

section PerformanceCounter
variable (s : State) (c : Chan) (word n : Nat)

@[simp] theorem State.perfAdd_clock : (s.perfAdd c word n).module.clock = s.module.clock := by
  unfold State.perfAdd; dsimp only
  split
  · rfl
  · split <;> simp

@[simp] theorem State.perfAdd_chan_clock : ((s.perfAdd c word n).chan c).clock = (s.chan c).clock := by
  unfold State.perfAdd; dsimp only
  split
  · rfl
  · split <;> simp

end PerformanceCounter

/-! A fold over channels, each step of which changes its own channel alone. -/

section EachChannel
variable {β : Type} {F : State → Chan → State} {p G : Channel → β}
  (hself : ∀ s c, p ((F s c).chan c) = G (s.chan c)) (hother : ∀ s c d, d ≠ c → (F s c).chan d = s.chan d)
include hself hother

theorem foldl_chan_proj {l : List Chan} (hl : l.Nodup) (s : State) (c : Chan) :
    p ((l.foldl F s).chan c) = if c ∈ l then G (s.chan c) else p (s.chan c) := by
  induction l generalizing s with
  | nil => simp
  | cons a l ih =>
    obtain ⟨ha, hl⟩ := List.nodup_cons.1 hl
    rw [List.foldl_cons, ih hl]
    by_cases hc : c = a
    · subst hc; simp [ha, hself]
    · simp [hc, hother s a c hc]

theorem foldl_allChannels_proj (s : State) (c : Chan) :
    p ((([0, 1, 2, 3] : List Chan).foldl F s).chan c) = G (s.chan c) := by
  have hmem : c ∈ ([0, 1, 2, 3] : List Chan) := by revert c; decide
  rw [foldl_chan_proj hself hother (by decide), if_pos hmem]

end EachChannel

/-- What acting on every channel that is up makes of the clocks of the channels. -/
theorem State.eachUp_chan_clock {f : State → Chan → State} {g : Clock → Clock}
    (hself : ∀ s c, ((f s c).chan c).clock = g (s.chan c).clock) (hother : ∀ s c d, d ≠ c → (f s c).chan d = s.chan d)
    (s : State) (c : Chan) :
    ((s.eachUp f).chan c).clock = if (s.chan c).up then g (s.chan c).clock else (s.chan c).clock := by
  unfold State.eachUp
  refine foldl_allChannels_proj (p := Channel.clock) (G := fun h => if h.up then g h.clock else h.clock) (fun s c => ?_)
    (fun s c d hd => ?_) s c
  · split
    · exact hself s c
    · rfl
  · split
    · exact hother s c d hd
    · rfl

theorem State.eachUp_clock {f : State → Chan → State} (hf : ∀ s c, (f s c).module.clock = s.module.clock) (s : State) :
    (s.eachUp f).module.clock = s.module.clock := by
  unfold State.eachUp
  refine foldl_proj_eq (fun s : State => s.module.clock) (fun s c => ?_) _ s
  split
  · exact hf s c
  · rfl

/-! The tick of an empty queue (log entry 1). -/

section Tick
variable (s : State) (c : Chan)

@[simp] theorem State.paceTick_clock : (s.paceTick c).module.clock = s.module.clock := by
  unfold State.paceTick; split <;> simp

@[simp] theorem State.paceTick_chan_clock : ((s.paceTick c).chan c).clock = (s.chan c).clock := by
  unfold State.paceTick; split <;> simp

@[simp] theorem State.storeTick_clock : (s.storeTick c).module.clock = s.module.clock := by
  unfold State.storeTick; dsimp only; split <;> simp

@[simp] theorem State.storeTick_chan_clock : ((s.storeTick c).chan c).clock = (s.chan c).clock := by
  unfold State.storeTick; dsimp only; split <;> simp

/-- What a tick does in a channel that is up. -/
def State.tickChannel (s : State) (c : Chan) : State :=
  ((s.onChan c (fun h => { h with clock := { h.clock with timebase := h.clock.timebase + 1 } })).paceTick c).storeTick c

theorem State.tickChannel_other {d : Chan} (hd : d ≠ c) : (s.tickChannel c).chan d = s.chan d := by
  have hkept : s.Kept (s.tickChannel c) (some c) :=
    State.storeTick_kept _ _ (State.paceTick_kept _ _ ((State.Kept.refl s).onChan ((Channel.Kept.refl _).same rfl rfl)
      (Covers.self c)) (Covers.self c)) (Covers.self c)
  exact hkept.apart c rfl d hd

theorem State.tick_of_off (hoff : s.module.on = false) : s.tick = s := by
  simp [State.tick, hoff]

theorem State.tick_of_on (hon : s.module.on = true) :
    s.tick = ({ s with module := { s.module with clock :=
      { s.module.clock with timebase := s.module.clock.timebase + 1 } } } : State).eachUp State.tickChannel := by
  simp only [State.tick, hon, Bool.not_true, Bool.false_eq_true, if_false]
  rfl

end Tick

theorem step_of_empty {s : State} (hempty : s.pending = []) : step s = .next s.tick := by
  simp [step, hempty]

/-- Settles O2: a tick advances the module's clock and acts on each channel that is up, and neither its pacing nor the upsets
of a store reach a clock. -/
theorem emptyQueueTicks : Obligations.EmptyQueueTicks := by
  intro s hempty
  refine ⟨step_of_empty hempty, s.tick_of_off, fun hon => ⟨?_, fun c => ?_⟩⟩
  · rw [s.tick_of_on hon, State.eachUp_clock (fun s c => by simp [State.tickChannel])]
  · rw [s.tick_of_on hon, State.eachUp_chan_clock (g := fun k => { k with timebase := k.timebase + 1 })
      (fun s c => by simp [State.tickChannel]) (fun s c d => s.tickChannel_other c)]
    rfl

/-! EPOCH pulses. -/

section Epoch
variable (s : State)

@[simp] theorem State.portClock_clock (k : Clock) (e : Option (Nat × List Byte)) :
    (s.portClock k e).module.clock = k := by
  unfold State.portClock; dsimp only; split <;> simp

@[simp] theorem State.portClock_chan (k : Clock) (e : Option (Nat × List Byte)) (c : Chan) :
    (s.portClock k e).chan c = s.chan c := by
  unfold State.portClock; dsimp only
  split
  · rw [State.raisePort_chan]; rfl
  · rfl

@[simp] theorem State.chanClock_clock (c : Chan) (k : Clock) (e : Option (Nat × List Byte)) :
    (s.chanClock c k e).module.clock = s.module.clock := by
  unfold State.chanClock; dsimp only; split <;> simp

@[simp] theorem State.chanClock_chan_clock (c : Chan) (k : Clock) (e : Option (Nat × List Byte)) :
    ((s.chanClock c k e).chan c).clock = k := by
  unfold State.chanClock; dsimp only; split <;> simp

theorem State.chanClock_other {c d : Chan} (hd : d ≠ c) (k : Clock) (e : Option (Nat × List Byte)) :
    (s.chanClock c k e).chan d = s.chan d :=
  (State.chanClock_kept s c k e (State.Kept.refl s) (Covers.self c)).apart c rfl d hd

/-- What an EPOCH pulse does in a channel that is up. -/
def State.pulseChannel (s : State) (c : Chan) : State :=
  s.chanClock c (s.chan c).clock.pulse.1 (s.chan c).clock.pulse.2

theorem State.pulseChannel_other {c d : Chan} (hd : d ≠ c) : (s.pulseChannel c).chan d = s.chan d :=
  s.chanClock_other hd _ _

theorem exec_epochPulse_of_on (hon : s.module.on = true) :
    exec .epochPulse s = .next ((s.portClock s.module.clock.pulse.1 s.module.clock.pulse.2).eachUp State.pulseChannel) := by
  show execEpochPulse s = _
  simp only [execEpochPulse, hon, Bool.not_true, Bool.false_eq_true, if_false]
  rfl

end Epoch

section Pulse
variable {k : Clock}

theorem Clock.pulse_of_holdover (h : k.status.holdover = true) : k.pulse.1 = k := by
  simp [Clock.pulse, h]

theorem Clock.pulse_of_armed (h : k.status.holdover = false) (harmed : k.status.loadArmed = true) :
    k.pulse.1 = ⟨k.epochLoad, ⟨k.status.loadGeneration + 1, false, false, false, k.status.refLost, true⟩, k.epochLoad, k.high,
      some k.epochLoad⟩ := by
  simp [Clock.pulse, h, harmed]

/-- A clock that is neither in holdover nor armed: its capture is checked against the previous one, if there is one (R57). -/
theorem Clock.pulse_of_running (h : k.status.holdover = false) (harmed : k.status.loadArmed = false) :
    k.pulse.1 = { k with capture := some k.timebase, status := { k.status with alignError := k.status.alignError ||
      (match k.capture with
        | some p => k.status.loaded && k.timebase - p != 100000000#64
        | none => false) } } := by
  unfold Clock.pulse
  rw [if_neg (by simp [h]), if_neg (by simp [harmed])]
  cases hcapture : k.capture with
  | none => simp
  | some p =>
    by_cases hbad : (k.status.loaded && k.timebase - p != 100000000#64) = true
    · simp [hbad]
    · simp [hbad]

end Pulse

/-- Settles O11: the pulse sets the module's clock and then that of each channel that is up; what it makes of a clock, by the
three cases of R56 to R58. -/
theorem epochPulseLoadsOrChecks : Obligations.EpochPulseLoadsOrChecks := by
  refine ⟨fun s hon => ⟨_, exec_epochPulse_of_on s hon, ?_, fun c => ?_⟩, fun k => Clock.pulse_of_holdover,
    fun k => Clock.pulse_of_armed, fun k => Clock.pulse_of_running⟩
  · rw [State.eachUp_clock (fun s c => by simp [State.pulseChannel]), State.portClock_clock]
  · rw [State.eachUp_chan_clock (g := fun k => k.pulse.1) (fun s c => by simp [State.pulseChannel])
      (fun s c d => s.pulseChannel_other), State.portClock_chan]

end Sys2Proof.Machine

/-! ### Power: starts, branch faults, the safe state and refused targets -/

namespace Sys2Proof.Machine

/-! The start of the port complex (Table 19.2). -/

/-- The module's shared parts without what the boot of the port complex and events change. -/
def Module.besideStart (m : Module) : Module :=
  { m.besideEvents with fw := Firmware.reset 4, audit := AuditLog.reset, alive := false }

section StartOfPort
variable (s : State)

@[simp] theorem State.setDieFw_none_besideStart (f : Firmware) :
    (s.setDieFw none f).module.besideStart = s.module.besideStart := rfl

@[simp] theorem State.raisePort_besideStart (c code : Nat) (data : List Byte) :
    (s.raisePort c code data).module.besideStart = s.module.besideStart :=
  congrArg (fun m : Module => { m with fw := Firmware.reset 4, audit := AuditLog.reset, alive := false })
    (s.raisePort_besideEvents c code data)

@[simp] theorem State.rollback_none_besideStart (result : Nat) :
    (s.rollback none result).module.besideStart = s.module.besideStart := by
  simp [State.rollback, State.raiseDie, State.bumpDie]

@[simp] theorem State.settleUpdate_none_besideStart :
    (s.settleUpdate none).module.besideStart = s.module.besideStart := by
  unfold State.settleUpdate; dsimp only
  split
  · simp
  · split
    · simp
    · split <;> rfl

@[simp] theorem State.bootFailed_none_besideStart (bank : Nat) :
    (s.bootFailed none bank).module.besideStart = s.module.besideStart := by
  simp [State.bootFailed, State.raiseDie, State.bumpDie]

@[simp] theorem State.auditBoot_none_besideStart : (s.auditBoot none).module.besideStart = s.module.besideStart := by
  unfold State.auditBoot State.auditRecord; dsimp only
  split <;> rfl

@[simp] theorem State.bootFrom_none_besideStart (bank : Nat) (fallback trial : Bool) :
    (s.bootFrom none bank fallback trial).module.besideStart = s.module.besideStart := by
  unfold State.bootFrom; dsimp only
  rw [State.auditBoot_none_besideStart]
  split <;> simp [State.raiseDie]

@[simp] theorem State.bootActive_none_besideStart (failed : Bool) :
    (s.bootActive none failed).1.module.besideStart = s.module.besideStart := by
  unfold State.bootActive; dsimp only
  split
  · simp
  · split <;> simp

@[simp] theorem State.secureBoot_none_besideStart :
    (s.secureBoot none).1.module.besideStart = s.module.besideStart := by
  unfold State.secureBoot; dsimp only
  split
  · split <;> simp
  · simp

@[simp] theorem State.bootPort_besideStart (pass : Bool) :
    (s.bootPort pass).1.module.besideStart = s.module.besideStart := by
  unfold State.bootPort; dsimp only
  split
  · simp
  · split
    · simp
    · split <;> simp

@[simp] theorem State.bootPort_chan (pass : Bool) (d : Chan) : (s.bootPort pass).1.chan d = s.chan d := by
  have hboot : ∀ k, s.Kept (s.secureBoot none).1 k := fun _ =>
    State.secureBoot_kept s none (State.Kept.refl s) CoversAll.none
  refine State.chan_eq_of_kept (fun k => ?_) d
  unfold State.bootPort; dsimp only
  split
  · exact hboot k
  · split
    · exact hboot k
    · split
      · exact State.bootActive_kept _ none false (State.rollback_kept _ none 6 (hboot k) CoversAll.none) CoversAll.none
      · exact hboot k

/-- With no channel in the power sequencer's queue the failure of the port complex is its own alone (R28). -/
theorem State.portFails_of_emptyQueue (hqueue : s.module.rampQueue = []) :
    s.portFails = { s with module := { s.module with alive := false, rampQueue := [] } } := by
  simp [State.portFails, hqueue]

theorem State.bootPort_rampQueue (pass : Bool) : (s.bootPort pass).1.module.rampQueue = s.module.rampQueue :=
  (congrArg Module.rampQueue (s.bootPort_besideStart pass) :)

theorem State.startPort_besideStart {restart pass : Bool} (hqueue : s.module.rampQueue = []) :
    (s.startPort restart pass).module.besideStart = s.module.besideStart := by
  have hqueue' : (s.bootPort pass).1.module.rampQueue = [] := (s.bootPort_rampQueue pass).trans hqueue
  rw [← s.bootPort_besideStart pass]
  unfold State.startPort; dsimp only
  split
  · rw [State.portFails_of_emptyQueue _ hqueue']
    simp [Module.besideStart, Module.besideEvents, hqueue']
  · rw [State.raisePort_besideStart]
    split
    · rw [State.raisePort_besideStart]; rfl
    · rfl

theorem State.startPort_chan {restart pass : Bool} (hqueue : s.module.rampQueue = []) (d : Chan) :
    (s.startPort restart pass).chan d = s.chan d := by
  rw [← s.bootPort_chan pass d]
  unfold State.startPort; dsimp only
  split
  · rw [State.portFails_of_emptyQueue _ ((s.bootPort_rampQueue pass).trans hqueue)]; rfl
  · rw [State.raisePort_chan]
    split
    · rw [State.raisePort_chan]; rfl
    · rfl

/-- The module and its channels as MODULE_POWER_ON hands them to the start of the port complex (R530, R548, R58). -/
def State.poweredOn (s : State) : State :=
  let u : State := { s.resetModuleEntries.drawFree.2 with module := { Module.reset with
    on := true, refPresent := s.module.refPresent,
    audit := s.module.audit.restart portAuditSize (Config.fresh s.free), fw := s.module.fw,
    creds := { s.module.creds with challenge := none } } }
  if s.module.refPresent then u else u.portClock Clock.reset.lost (some (0x0012, leBytes 8 0))

theorem exec_modulePowerOn_of_off {mv : Nat} {pass : Bool} (hoff : s.module.on = false) (hlow : 36000 ≤ mv) (hhigh : mv ≤ 60000) :
    exec (.modulePowerOn mv pass) s = .next (s.poweredOn.startPort false pass) := by
  show execModulePowerOn mv pass s = _
  simp only [execModulePowerOn, hoff, Nat.not_lt.2 hlow, Nat.not_lt.2 hhigh, decide_false, Bool.or_self, Bool.false_eq_true,
    if_false]
  rfl

theorem State.portClock_besideEvents (k : Clock) (e : Option (Nat × List Byte)) :
    (s.portClock k e).module.besideEvents = { s.module with clock := k }.besideEvents := by
  unfold State.portClock; dsimp only; split <;> simp

theorem State.poweredOn_on : s.poweredOn.module.on = true := by
  unfold State.poweredOn; dsimp only
  split
  · rfl
  · exact (congrArg Module.on (State.portClock_besideEvents _ _ _) :)

theorem State.poweredOn_rampQueue : s.poweredOn.module.rampQueue = [] := by
  unfold State.poweredOn; dsimp only
  split
  · rfl
  · exact (congrArg Module.rampQueue (State.portClock_besideEvents _ _ _) :)

theorem State.poweredOn_timebase : s.poweredOn.module.clock.timebase = 0 := by
  unfold State.poweredOn; dsimp only
  split
  · rfl
  · rw [State.portClock_clock]; rfl

theorem State.poweredOn_chan (d : Chan) : s.poweredOn.chan d = s.chan d := by
  unfold State.poweredOn; dsimp only
  split
  · rfl
  · rw [State.portClock_chan]; rfl

end StartOfPort

/-- Settles O14: the start of the port complex leaves the power, the clock and the queue of the module, and every channel. -/
theorem powerOnLeavesChannels : Obligations.PowerOnLeavesChannels := by
  intro mv pass s hoff hlow hhigh
  have hstart := s.poweredOn.startPort_besideStart (restart := false) (pass := pass) s.poweredOn_rampQueue
  refine ⟨_, exec_modulePowerOn_of_off s hoff hlow hhigh, ?_, ?_, ?_, fun c => ?_⟩
  · exact (congrArg Module.on hstart).trans s.poweredOn_on
  · exact (congrArg (fun m : Module => m.clock.timebase) hstart).trans s.poweredOn_timebase
  · exact (congrArg Module.rampQueue hstart).trans s.poweredOn_rampQueue
  · rw [State.startPort_chan _ s.poweredOn_rampQueue, State.poweredOn_chan]

/-! Branch faults (R22). -/

section BranchFault
variable {s : State} {c : Chan}

theorem exec_branchFuseOpen_of_closed (hon : s.module.on = true) (hclosed : (s.chan c).power.fuseClosed = true) :
    exec (.branchFuseOpen c) s =
      .next (((s.cutBranch c).raisePort c.val 0x0020 (leBytes 1 c.val)).watchDegraded s) := by
  show execBranchFuseOpen c s = _
  simp [execBranchFuseOpen, hon, hclosed]

/-- The rails of a channel in P4: its volatile state and HBM are lost (Table 16.1). -/
theorem State.goDark_chan_self (s : State) (c : Chan) (new : PState) :
    (s.goDark c new).chan c = { (s.chan c).darken (new == .p3) with
      power := { Power.reset with state := new, target := (s.chan c).power.target, fuseClosed := (s.chan c).power.fuseClosed,
                                  startTime := (s.chan c).power.startTime },
      fw := { (s.chan c).fw with debugState := 0, bootState := 0, incoming := [], keys := none } } := by
  show (State.onChan s c _).chan c = _
  rw [State.chan_onChan_self]; rfl

/-- A channel whose branch is cut is in P4 with its fuse open, and nothing of its work or its memory is left. -/
theorem State.cutBranch_chan_self (s : State) (c : Chan) :
    ((s.cutBranch c).chan c).power.state = .p4 ∧ ((s.cutBranch c).chan c).power.fuseClosed = false ∧
    ((s.cutBranch c).chan c).power.cartSupply = false ∧ ((s.cutBranch c).chan c).power.ready = false ∧
    ((s.cutBranch c).chan c).jobs = [] ∧ ((s.cutBranch c).chan c).training.program = none ∧
    ((s.cutBranch c).chan c).mem = [] := by
  simp [State.cutBranch, State.onPower, State.reachDark, State.goDark_chan_self, Channel.darken, Power.reset, Training.reset]

end BranchFault

/-- Settles O17: the cut of the branch gives the channel's state, which the events that follow leave, and the law of the
command gives the other channels. -/
theorem branchFaultStaysInItsChannel : Obligations.BranchFaultStaysInItsChannel := by
  intro c s hon hclosed
  have hexec := exec_branchFuseOpen_of_closed hon hclosed
  obtain ⟨hstate, hfuse, hsupply, hready, hjobs, hprogram, hmem⟩ := s.cutBranch_chan_self c
  refine ⟨_, hexec, ?_⟩
  simp only [State.watchDegraded_chan, State.raisePort_chan]
  exact ⟨hstate, hfuse, hsupply, hready, hjobs, hprogram, hmem, fun d hd => by
    have hapart := (exec_kept _ _ _ hexec).apart c rfl d hd
    rwa [State.watchDegraded_chan, State.raisePort_chan] at hapart⟩

/-! The safe state (R536). -/

section SafeState
variable (s : State) (c : Chan)

/-- The safe state with its cause entered, before its events: links off, supply cut, the power part set, out of the queue. -/
def State.madeSafe (s : State) (c : Chan) (cause : Nat) : State :=
  let u := (((if 4 ≤ cause ∧ cause ≤ 7 then s.goodbyeAll c else s).linksOff c).cutSupply c).onChan c (fun h =>
    { h with power := { h.power with
      safeCause := cause, inTransition := false, stepTo := h.power.state, booting := none, waiting := 0, ready := false,
      coreMillivolt := 600 } })
  { u with module := { u.module with rampQueue := u.module.rampQueue.filter (fun d => d != c) } }

theorem State.enterSafe_of_up (hup : (s.chan c).up = true) (hsafe : (s.chan c).safe = false) (cause : Nat) :
    s.enterSafe c cause = (s.madeSafe c cause).raiseBoth c 0x0023 (leBytes 1 c.val ++ leBytes 2 cause) := by
  simp only [State.enterSafe, hup, hsafe, Bool.not_true, Bool.or_self, Bool.false_eq_true, if_false]
  rfl

theorem State.enterSafe_of_safe_or_down (h : (s.chan c).safe = true ∨ (s.chan c).up = false) (cause : Nat) :
    s.enterSafe c cause = s := by
  rcases h with h | h <;> simp [State.enterSafe, h]

theorem exec_internalFault : exec (.internalFault c) s = .next ((s.enterSafe c 8).watchDegraded s) := rfl

@[simp] theorem State.raiseBoth_chan_power (code : Nat) (data : List Byte) (d : Chan) :
    ((s.raiseBoth c code data).chan d).power = (s.chan d).power := by
  simp [State.raiseBoth]

@[simp] theorem State.raiseBoth_chan_arrays (code : Nat) (data : List Byte) (d : Chan) :
    ((s.raiseBoth c code data).chan d).arrays = (s.chan d).arrays := by
  simp [State.raiseBoth]

@[simp] theorem State.raiseBoth_rampQueue (code : Nat) (data : List Byte) :
    (s.raiseBoth c code data).module.rampQueue = s.module.rampQueue := by
  simp [State.raiseBoth]

theorem State.cutSupply_chan_self :
    ((s.cutSupply c).chan c).power.cartSupply = false ∧ ((s.cutSupply c).chan c).arrays.progs = [] ∧
    ((s.cutSupply c).chan c).arrays.cals = [] := by
  unfold State.cutSupply; dsimp only
  rw [State.chan_onChan_self]
  exact ⟨rfl, rfl, rfl⟩

theorem State.madeSafe_rampQueue (cause : Nat) : (s.madeSafe c cause).module.rampQueue.contains c = false := by
  simp [State.madeSafe]

/-- What the power part and the arrays of a channel made safe hold. -/
theorem State.madeSafe_chan_self (cause : Nat) : ∃ u : State,
    ((s.madeSafe c cause).chan c).power = { ((u.cutSupply c).chan c).power with
      safeCause := cause, inTransition := false, stepTo := ((u.cutSupply c).chan c).power.state, booting := none, waiting := 0,
      ready := false, coreMillivolt := 600 } ∧
    ((s.madeSafe c cause).chan c).arrays = ((u.cutSupply c).chan c).arrays := by
  refine ⟨(if 4 ≤ cause ∧ cause ≤ 7 then s.goodbyeAll c else s).linksOff c, ?_, ?_⟩
  · exact (congrArg Channel.power (State.chan_onChan_self _ c _) :)
  · exact (congrArg Channel.arrays (State.chan_onChan_self _ c _) :)

end SafeState

/-- Settles O19: the events of the safe state leave the power part, the arrays and the queue of the sequencer; a channel that
is safe or not up is left, and then the degraded state with it. -/
theorem safeStateEntered : Obligations.SafeStateEntered := by
  refine ⟨fun c s hup hsafe => ?_, fun c s h => ?_⟩
  · refine ⟨_, exec_internalFault s c, ?_⟩
    obtain ⟨u, hpower, harrays⟩ := s.madeSafe_chan_self c 8
    obtain ⟨hsupply, hprogs, hcals⟩ := u.cutSupply_chan_self c
    rw [State.enterSafe_of_up s c hup hsafe]
    simp only [State.watchDegraded_chan, State.watchDegraded_rampQueue, State.raiseBoth_chan_power,
      State.raiseBoth_chan_arrays, State.raiseBoth_rampQueue, hpower, harrays, hsupply, hprogs, hcals,
      State.madeSafe_rampQueue, and_self]
  · rw [exec_internalFault, State.enterSafe_of_safe_or_down s c h, State.watchDegraded_self]

/-! Targets that POWER_COMMAND does not accept (R455). -/

section Targets
variable {s : State} {c : Chan} {v : Nat}

theorem State.commandPower_of_reserved (hv : 5 ≤ v) : s.commandPower c v = (s, 0x03) := by
  simp [State.commandPower, hv]

/-- P0, P1 and P2 while SAFE reads 1. -/
theorem State.commandPower_of_safe (hv : v < 3) (hsafe : (s.chan c).safe = true) :
    s.commandPower c v = s.refusePower c v 1 := by
  have hon : (PState.ofTarget v).on = true := by interval_cases v <;> rfl
  simp [State.commandPower, hsafe, hon, show ¬ 5 ≤ v by omega]

/-- P3 of a channel in P4. -/
theorem State.commandPower_p3_of_p4 (hp4 : (s.chan c).power.state = .p4) :
    s.commandPower c 3 = s.refusePower c 3 2 := by
  have htarget : PState.ofTarget 3 = .p3 := rfl
  have hon : PState.p3.on = false := rfl
  simp [State.commandPower, htarget, hon, hp4]

/-- The present state while nothing is under way. -/
theorem State.commandPower_of_present (hv : v < 5) (hstate : (s.chan c).power.state = PState.ofTarget v)
    (hstill : (s.chan c).power.inTransition = false) (hsafe : (s.chan c).safe = false) :
    s.commandPower c v = (s, 0x00) := by
  have hp3 : ¬ (PState.ofTarget v = .p3 ∧ PState.ofTarget v = .p4) := fun ⟨h3, h4⟩ => by cases h3.symm.trans h4
  simp only [State.commandPower, show ¬ 5 ≤ v by omega, hsafe, hstate, hstill, hp3, if_false, Bool.false_and,
    Bool.false_eq_true, Bool.not_false, and_self, if_true]

theorem State.refusePower_snd (s : State) (c : Chan) (v reason : Nat) : (s.refusePower c v reason).2 = 0x05 := rfl

/-- A refusal raises its event and changes the power of no channel. -/
theorem State.refusePower_chan_power (s : State) (c : Chan) (v reason : Nat) (d : Chan) :
    ((s.refusePower c v reason).1.chan d).power = (s.chan d).power := by
  unfold State.refusePower; dsimp only
  split <;> simp

end Targets

/-- Settles O25: each target by the check of R455 that it fails, and a refusal by what its event leaves. -/
theorem powerTargetsRefused : Obligations.PowerTargetsRefused := by
  refine ⟨fun c v s => State.commandPower_of_reserved, fun c v s hv hsafe => ?_, fun c s hp4 => ?_,
    fun c v s => State.commandPower_of_present⟩
  · rw [State.commandPower_of_safe hv hsafe]
    exact ⟨State.refusePower_snd s c v 1, State.refusePower_chan_power s c v 1⟩
  · rw [State.commandPower_p3_of_p4 hp4]
    exact ⟨State.refusePower_snd s c 3 2, State.refusePower_chan_power s c 3 2⟩

end Sys2Proof.Machine

/-! ### PCI Express events, writes through BAR2, and bursts at the base die -/

namespace Sys2Proof.Machine

/-- A fold none of whose steps changes its start is that start. -/
theorem foldl_eq_self {σ α : Type} {f : σ → α → σ} {l : List α} {s : σ} (h : ∀ a ∈ l, f s a = s) : l.foldl f s = s := by
  induction l with
  | nil => rfl
  | cons a l ih =>
    rw [List.foldl_cons, h a List.mem_cons_self]
    exact ih (fun b hb => h b (List.mem_cons_of_mem a hb))

section PcieEvents
variable {s : State}

/-- A channel without a transfer has no job in one. -/
theorem Channel.phase_ne_transfer {h : Channel} (hnone : h.transfer = none) {j : Job} (hj : j ∈ h.jobs)
    (toHost : Bool) (host chan length moved : Nat) : j.phase ≠ .transfer toHost host chan length moved := by
  intro hphase
  have hfalse := List.find?_eq_none.1 hnone j hj
  simp [hphase] at hfalse

theorem State.endTransfers_of_none (hnone : ∀ c : Chan, (s.chan c).transfer = none) : s.endTransfers = s := by
  refine foldl_eq_self (fun c _ => foldl_eq_self (fun j hj => ?_))
  split
  · next hphase => exact absurd hphase (Channel.phase_ne_transfer (hnone c) hj _ _ _ _ _)
  · rfl

theorem State.fireAllPending_chan (s : State) (d : Chan) : s.fireAllPending.chan d = s.chan d :=
  State.chan_eq_of_kept (fun _ => State.fireAllPending_kept s (State.Kept.refl s)) d

theorem State.firePending_chan (s : State) (v : Nat) (d : Chan) : (s.firePending v).chan d = s.chan d :=
  State.chan_eq_of_kept (fun _ => State.firePending_kept s v (State.Kept.refl s)) d

theorem execPcieReset_chan (k : PcieReset) (hnone : ∀ c : Chan, (s.chan c).transfer = none) :
    ∃ t, exec (.pcieReset k) s = .next t ∧ ∀ c, t.chan c = s.chan c := by
  refine ⟨_, rfl, fun c => ?_⟩
  split
  · rfl
  · rw [State.onEndpoint_chan, State.endTransfers_of_none hnone]

theorem execPcieLinkUp_chan : ∃ t, exec .pcieLinkUp s = .next t ∧ ∀ c, t.chan c = s.chan c := by
  refine ⟨_, rfl, fun c => ?_⟩
  split
  · rfl
  · rw [State.fireAllPending_chan, State.onEndpoint_chan]

theorem execMsixVectorUnmask_chan (v : Fin 2048) :
    ∃ t, exec (.msixVectorUnmask v) s = .next t ∧ ∀ c, t.chan c = s.chan c := by
  refine ⟨_, rfl, fun c => ?_⟩
  split
  · rfl
  · rw [State.firePending_chan, State.onEndpoint_chan]

theorem execBusMasterEnable_chan (b : Bool) :
    ∃ t, exec (.busMasterEnable b) s = .next t ∧ ∀ c, t.chan c = s.chan c := by
  refine ⟨_, rfl, fun c => ?_⟩
  split
  · rfl
  · rw [State.fireAllPending_chan, State.onEndpoint_chan]

end PcieEvents

/-- Settles O22: without a transfer to end, a reset changes the endpoint alone, as the other three events do. -/
theorem pcieEventsKeepChannels : Obligations.PcieEventsKeepChannels := by
  rintro i s (⟨k, rfl⟩ | rfl | ⟨v, rfl⟩ | ⟨b, rfl⟩) hnone
  · exact execPcieReset_chan k hnone
  · exact execPcieLinkUp_chan
  · exact execMsixVectorUnmask_chan v
  · exact execBusMasterEnable_chan b

/-! Writes through BAR2 (R409). -/

/-- A byte reads as before where its channel's memory is as before. -/
theorem Channel.byte_of_mem {h g : Channel} (hmem : g.mem = h.mem) (k : Nat) : g.byte k = h.byte k :=
  congrArg (mget 0#8 k) hmem

section CounterRoom
variable {s : State} {c : Chan} {n : Nat}

theorem Channel.bytesRoom_mono {h : Channel} {m : Nat} (hroom : h.bytesRoom n) (hle : m ≤ n) : h.bytesRoom m :=
  ⟨hroom.1, hroom.2.imp_right (fun hlt => by omega)⟩

/-- Short of saturation, and in it, the count of bytes received changes without an event. -/
theorem State.perfAdd_received_of_room (hroom : (s.chan c).bytesRoom n) :
    s.perfAdd c 78 n = s ∨
      (mget 0 78 (s.chan c).perf.counters + n < 2 ^ 64 - 1 ∧ s.perfAdd c 78 n = s.onChan c (fun h => { h with
        perf := { (s.chan c).perf with
          counters := mset 0 78 (mget 0 78 (s.chan c).perf.counters + n) (s.chan c).perf.counters } })) := by
  obtain ⟨-, hfull | hlt⟩ := hroom
  · left; simp [State.perfAdd, hfull]
  · by_cases hsame : mget 0 78 (s.chan c).perf.counters = 2 ^ 64 - 1 ∨ n = 0
    · left; unfold State.perfAdd; rw [if_pos hsame]
    · right; refine ⟨hlt, ?_⟩; unfold State.perfAdd; rw [if_neg hsame, if_pos hlt]

/-- What counting `n` received bytes leaves, and the room it leaves. -/
theorem State.perfAdd_received_frame (hroom : (s.chan c).bytesRoom n) :
    (s.perfAdd c 78 n).module = s.module ∧ (s.perfAdd c 78 n).od = s.od ∧
    ∀ d, ((s.perfAdd c 78 n).chan d).mem = (s.chan d).mem ∧
      ∀ m, (s.chan d).bytesRoom (n + m) → ((s.perfAdd c 78 n).chan d).bytesRoom m := by
  rcases State.perfAdd_received_of_room hroom with hsame | ⟨hlt, hcount⟩
  · rw [hsame]
    exact ⟨rfl, rfl, fun d => ⟨rfl, fun m hm => Channel.bytesRoom_mono hm (by omega)⟩⟩
  · rw [hcount]
    refine ⟨State.onChan_module _ _ _, State.onChan_od _ _ _, fun d => ?_⟩
    by_cases hd : d = c
    · subst hd
      rw [State.chan_onChan_self]
      refine ⟨rfl, fun m ⟨hwf, hm⟩ => ⟨mapWf_mset _ _ hwf, ?_⟩⟩
      show mget 0 78 (mset 0 78 _ _) = _ ∨ mget 0 78 (mset 0 78 _ _) + m < _
      rw [mget_mset hwf, if_pos rfl]
      omega
    · rw [State.chan_onChan_other s hd]
      exact ⟨rfl, fun m hm => Channel.bytesRoom_mono hm (by omega)⟩

end CounterRoom

section MemoryWrite
variable {s : State} {c : Chan} {a : Nat} {bs : List Byte}

theorem State.memWrite_frame (s : State) (c : Chan) (a : Nat) (bs : List Byte) :
    (s.memWrite c a bs).module = s.module ∧ (s.memWrite c a bs).od = s.od ∧
    ∀ d, ((s.memWrite c a bs).chan d).perf = (s.chan d).perf := by
  refine ⟨State.onChan_module _ _ _, State.onChan_od _ _ _, fun d => ?_⟩
  unfold State.memWrite
  by_cases hd : d = c
  · subst hd; rw [State.chan_onChan_self]; rfl
  · rw [State.chan_onChan_other s hd]

theorem State.memWrite_memOk (hok : s.memOk) : (s.memWrite c a bs).memOk :=
  fun d => ((State.memWrite_kept (kc := none) s c a bs (State.Kept.refl s) (Covers.any c)).chan d).mem (hok d)

/-- A byte that a write of one byte does not reach reads as before. -/
theorem State.memWrite_byte_other {b : Byte} (hok : s.memOk) {d : Chan} {k : Nat} (hne : (c, a) ≠ (d, k)) :
    ((s.memWrite c a [b]).chan d).byte k = (s.chan d).byte k := by
  unfold State.memWrite
  by_cases hd : d = c
  · subst hd
    have hk : a ≠ k := fun h => hne (by rw [h])
    rw [State.chan_onChan_self]
    exact Channel.write_keepsOutside _ a [b] (hok d) k (by simp only [List.length_singleton]; omega)
  · rw [State.chan_onChan_other s hd]

theorem inMemory_of_apertureReaches (h : apertureReaches a = true) : inMemory a 1 = true := by
  have hle : a + 1 ≤ retransmitBase := of_decide_eq_true h
  have hbelow : retransmitBase ≤ hbmSize := by decide
  simp only [inMemory, inHbm, Bool.or_eq_true, decide_eq_true_eq]
  exact .inl (by omega)

/-- A byte that an aperture reaches reads as it was written. -/
theorem State.memWrite_byte_self {b : Byte} (hok : s.memOk) (hreach : apertureReaches a = true) :
    ((s.memWrite c a [b]).chan c).byte a = b := by
  unfold State.memWrite
  rw [State.chan_onChan_self]
  exact mget_memWrite_inside (bs := [b]) (i := 0) (hok c) (by simp) (inMemory_of_apertureReaches hreach)

end MemoryWrite

section Aperture
variable {s : State} {o : Nat} {b : Byte}

theorem State.writeBar2_of_place {d : Chan} {k : Nat} (hplace : s.module.endpoint.apertureByte o = some (d, k)) :
    s.writeBar2 o b = if (s.available d && apertureReaches k) = true then (s.memWrite d k [b]).perfAdd d 78 1 else s := by
  rw [State.writeBar2, hplace]; rfl

theorem State.writeBar2_of_noPlace (hplace : s.module.endpoint.apertureByte o = none) : s.writeBar2 o b = s := by
  rw [State.writeBar2, hplace]; rfl

theorem State.writeBar2_of_reached {d : Chan} {k : Nat} (hplace : s.module.endpoint.apertureByte o = some (d, k))
    (havail : s.available d = true) (hreach : apertureReaches k = true) :
    s.writeBar2 o b = (s.memWrite d k [b]).perfAdd d 78 1 := by
  rw [State.writeBar2_of_place hplace, if_pos (Bool.and_eq_true_iff.2 ⟨havail, hreach⟩)]

theorem State.writeBar2_of_unreached {d : Chan} {k : Nat} (hplace : s.module.endpoint.apertureByte o = some (d, k))
    (hout : s.available d = false ∨ apertureReaches k = false) : s.writeBar2 o b = s := by
  rw [State.writeBar2_of_place hplace]
  refine if_neg (fun h => ?_)
  obtain ⟨havail, hreach⟩ := Bool.and_eq_true_iff.1 h
  exact hout.elim (ne_false_of_eq_true havail) (ne_false_of_eq_true hreach)

/-- Each byte of a write is ignored, or stored at its place and counted. -/
theorem State.writeBar2_cases (s : State) (o : Nat) (b : Byte) : s.writeBar2 o b = s ∨
    ∃ d k, s.module.endpoint.apertureByte o = some (d, k) ∧ apertureReaches k = true ∧
      s.writeBar2 o b = (s.memWrite d k [b]).perfAdd d 78 1 := by
  cases hplace : s.module.endpoint.apertureByte o with
  | none => exact .inl (State.writeBar2_of_noPlace hplace)
  | some p =>
    by_cases hin : s.available p.1 = true ∧ apertureReaches p.2 = true
    · exact .inr ⟨p.1, p.2, rfl, hin.2, State.writeBar2_of_reached hplace hin.1 hin.2⟩
    · refine .inl (State.writeBar2_of_unreached hplace ?_)
      exact (not_and_or.1 hin).imp Bool.eq_false_of_not_eq_true Bool.eq_false_of_not_eq_true

/-- What writes through BAR2 leave of `s`, with room for `n` more bytes: the module, the dictionary, and every byte that none
of the offsets `os` maps to. -/
structure State.Bar2Frame (s t : State) (os : List Nat) (n : Nat) : Prop where
  memOk : t.memOk
  room : ∀ d, (t.chan d).bytesRoom n
  module : t.module = s.module
  od : t.od = s.od
  byte : ∀ d k, (∀ o ∈ os, s.module.endpoint.apertureByte o ≠ some (d, k)) → (t.chan d).byte k = (s.chan d).byte k

/-- One more byte written through BAR2. -/
theorem State.Bar2Frame.writeBar2 {t : State} {os : List Nat} {n : Nat} (hframe : s.Bar2Frame t os (1 + n)) (o : Nat) (b : Byte) :
    s.Bar2Frame (t.writeBar2 o b) (o :: os) n := by
  rcases t.writeBar2_cases o b with hsame | ⟨d, k, hplace, -, hstored⟩
  · rw [hsame]
    exact ⟨hframe.memOk, fun d => Channel.bytesRoom_mono (hframe.room d) (by omega), hframe.module, hframe.od,
      fun d k hk => hframe.byte d k (fun p hp => hk p (List.mem_cons_of_mem o hp))⟩
  · obtain ⟨hwmodule, hwod, hwperf⟩ := t.memWrite_frame d k [b]
    have hroom : ∀ e, ((t.memWrite d k [b]).chan e).bytesRoom (1 + n) := fun e => by
      have := hframe.room e
      unfold Channel.bytesRoom at this ⊢
      rwa [hwperf e]
    obtain ⟨hpmodule, hpod, hpchan⟩ :=
      State.perfAdd_received_frame (Channel.bytesRoom_mono (hroom d) (Nat.le_add_right 1 n))
    rw [hstored]
    refine ⟨fun e => ?_, fun e => (hpchan e).2 n (hroom e), hpmodule.trans (hwmodule.trans hframe.module),
      hpod.trans (hwod.trans hframe.od), fun e i hi => ?_⟩
    · rw [(hpchan e).1]; exact State.memWrite_memOk hframe.memOk e
    · have hne : (d, k) ≠ (e, i) := fun heq => by
        rw [hframe.module, heq] at hplace
        exact hi o List.mem_cons_self hplace
      rw [Channel.byte_of_mem (hpchan e).1, State.memWrite_byte_other hframe.memOk hne]
      exact hframe.byte e i (fun p hp => hi p (List.mem_cons_of_mem o hp))

/-- The bytes of a write, one after another. -/
theorem State.Bar2Frame.foldl {t : State} {os : List Nat} (f : Byte × Nat → Nat) (l : List (Byte × Nat)) {n : Nat}
    (hframe : s.Bar2Frame t os (l.length + n)) :
    s.Bar2Frame (l.foldl (fun s p => s.writeBar2 (f p) p.1) t) ((l.map f).reverse ++ os) n := by
  induction l generalizing t os with
  | nil => simpa using hframe
  | cons p l ih =>
    have hframe' : s.Bar2Frame t os (1 + (l.length + n)) := by
      have hlength : (p :: l).length + n = 1 + (l.length + n) := by simp only [List.length_cons]; omega
      rwa [hlength] at hframe
    simpa using ih (hframe'.writeBar2 (f p) p.1)

end Aperture

theorem exec_registerWrite_bar2 {o : Nat} {wide : Bool} {v : DWord} {s : State} (hreach : s.hostReaches = true)
    (hbar : bar2Base ≤ o) :
    exec (.registerWrite o wide v) s = .next ((leBytes (if wide then 8 else 4) v.toNat).zipIdx.foldl
      (fun s p => s.writeBar2 (o - bar2Base + p.2) p.1) s) := by
  show execRegisterWrite o wide v s = _
  simp only [execRegisterWrite, hreach, Bool.not_true, Bool.false_eq_true, Nat.not_lt.2 hbar, if_false]

/-- Settles O29: every byte of the write is ignored or stored at its place and counted, which leaves the rest as long as the
count raises no event. -/
theorem apertureWriteFrame : Obligations.ApertureWriteFrame := by
  refine ⟨fun o wide v s hreach hbar => ⟨_, exec_registerWrite_bar2 hreach hbar, fun hok hroom => ?_⟩,
    fun o b d k s hplace => ⟨fun ⟨havail, hin⟩ => ?_, State.writeBar2_of_unreached hplace⟩⟩
  · have hlength : (leBytes (if wide then 8 else 4) v.toNat).zipIdx.length = if wide then 8 else 4 := by
      rw [List.length_zipIdx, leBytes_length]
    have hstart : s.Bar2Frame s [] ((leBytes (if wide then 8 else 4) v.toNat).zipIdx.length + 0) :=
      ⟨hok, fun d => Channel.bytesRoom_mono (hroom d) (by rw [hlength]; split <;> omega), rfl, rfl, fun _ _ _ => rfl⟩
    have hend := hstart.foldl (fun p => o - bar2Base + p.2)
    refine ⟨hend.module, hend.od, fun d k hk => hend.byte d k (fun p hp => ?_)⟩
    simp only [List.append_nil, List.mem_reverse, List.mem_map] at hp
    obtain ⟨q, hq, rfl⟩ := hp
    have hindex := List.snd_lt_of_mem_zipIdx hq
    rw [leBytes_length] at hindex
    exact hk q.2 (by omega)
  · have hwrite := State.writeBar2_of_reached (b := b) hplace havail hin
    refine ⟨hwrite, fun hok hroom => ?_⟩
    have hroom' : ((s.memWrite d k [b]).chan d).bytesRoom 1 := by
      unfold Channel.bytesRoom at hroom ⊢
      rwa [(s.memWrite_frame d k [b]).2.2 d]
    rw [hwrite, Channel.byte_of_mem ((State.perfAdd_received_frame hroom').2.2 d).1]
    exact State.memWrite_byte_self hok hin

/-! Bursts at the base die (R246). -/

theorem mget_memClear_inside {m : Map Byte} {a n k : Nat} (hlow : a ≤ k) (hhigh : k < a + n) : mget 0#8 k (memClear m a n) = 0#8 := by
  induction m with
  | nil => rfl
  | cons p m ih =>
    obtain ⟨j, v⟩ := p
    unfold memClear at ih ⊢
    rw [List.filter_cons]
    by_cases hj : j = k
    · subst hj; rw [if_neg (by simp [hlow, hhigh])]; exact ih
    · split
      · rw [mget, if_neg hj]; exact ih
      · exact ih

theorem leNat_eq_zero {l : List Byte} (h : ∀ b ∈ l, b = 0#8) : leNat l = 0 := by
  induction l with
  | nil => rfl
  | cons b l ih =>
    rw [leNat, h b List.mem_cons_self, ih (fun x hx => h x (List.mem_cons_of_mem b hx))]; rfl

theorem Channel.nat_eq_zero {h : Channel} {a n : Nat} (hzero : ∀ i, i < n → h.byte (a + i) = 0#8) : h.nat a n = 0 := by
  refine leNat_eq_zero (fun b hb => ?_)
  obtain ⟨i, hi, rfl⟩ := List.mem_map.1 hb
  exact hzero i (List.mem_range.1 hi)

section Groups
variable (h : Channel) (a : Nat)

theorem Channel.clearGroup_keepsOutside : h.keepsOutside (h.clearGroup a) a 60 :=
  fun _ hk => mget_memClear_outside hk

theorem Channel.group_of_zero (hzero : ∀ k, a ≤ k → k < a + 60 → h.byte k = 0#8) : h.group a = List.replicate 10 0 := by
  refine List.eq_replicate_iff.2 ⟨by simp [Channel.group], fun v hv => ?_⟩
  obtain ⟨i, hi, rfl⟩ := List.mem_map.1 hv
  have hi := List.mem_range.1 hi
  exact Channel.nat_eq_zero (fun j hj => hzero _ (by unfold groupAddr; omega) (by unfold groupAddr; omega))

theorem Channel.clearGroup_byte {k : Nat} (hlow : a ≤ k) (hhigh : k < a + 60) : (h.clearGroup a).byte k = 0#8 :=
  mget_memClear_inside hlow hhigh

/-- The groups at the first `n` multiples of 64 bytes from `a`, set to +0. -/
def Channel.clearGroups (h : Channel) (a n : Nat) : Channel :=
  (List.range n).foldl (fun (g : Channel) i => g.clearGroup (a + 64 * i)) h

theorem Channel.clearGroups_succ (n : Nat) :
    h.clearGroups a (n + 1) = (h.clearGroups a n).clearGroup (a + 64 * n) := by
  simp [Channel.clearGroups, List.range_succ]

theorem Channel.clearGroups_rest (n : Nat) : { h.clearGroups a n with mem := h.mem } = h := by
  induction n with
  | zero => rfl
  | succ n ih => rw [Channel.clearGroups_succ]; exact ih

theorem Channel.clearGroups_keepsOutside (n : Nat) : h.keepsOutside (h.clearGroups a n) a (64 * n) := by
  induction n with
  | zero => exact fun _ _ => rfl
  | succ n ih =>
    rw [Channel.clearGroups_succ]
    exact Channel.keepsOutside_trans ih (Channel.clearGroup_keepsOutside _ _) le_rfl (by omega) (by omega) (by omega)

theorem Channel.clearGroups_group {n i : Nat} (hi : i < n) : (h.clearGroups a n).group (a + 64 * i) = List.replicate 10 0 := by
  refine Channel.group_of_zero _ _ (fun k hlow hhigh => ?_)
  induction n with
  | zero => omega
  | succ n ih =>
    rw [Channel.clearGroups_succ]
    by_cases hin : i = n
    · subst hin; exact Channel.clearGroup_byte _ _ hlow hhigh
    · rw [Channel.clearGroup_keepsOutside _ _ k (by omega)]
      exact ih (by omega)

end Groups

section Accumulate
variable {h : Channel} {k2 : Bool} {b : Nat} {m : BitVec 10} {w : List Word}

/-- The first `n` values of a group accumulated. -/
def Channel.accumulateFirst (h : Channel) (k2 : Bool) (a : Nat) (mask : BitVec 10) (incs : List Word) (n : Nat) : Channel :=
  (List.range n).foldl (fun (g : Channel) i =>
    if mask.getLsbD i then
      g.writeNat (groupAddr a i) 6 (Fp.encode ka48 (kaAdd k2 (Fp.decode ka48 (g.nat (groupAddr a i) 6)) (f32 (incs.getD i 0#32).toNat)).1)
    else g) h

theorem Channel.accumulateGroup_eq : h.accumulateGroup k2 b m w = h.accumulateFirst k2 b m w 10 := rfl

theorem Channel.accumulateFirst_succ (n : Nat) :
    h.accumulateFirst k2 b m w (n + 1) =
      if m.getLsbD n then
        (h.accumulateFirst k2 b m w n).writeNat (groupAddr b n) 6 (Fp.encode ka48
          (kaAdd k2 (Fp.decode ka48 ((h.accumulateFirst k2 b m w n).nat (groupAddr b n) 6)) (f32 (w.getD n 0#32).toNat)).1)
      else h.accumulateFirst k2 b m w n := by
  simp [Channel.accumulateFirst, List.range_succ]

theorem Channel.writeNat_keepsOutside (g : Channel) (hwf : Memory.wf g.mem = true) (a n v : Nat) : g.keepsOutside (g.writeNat a n v) a n := by
  have hkeeps := g.write_keepsOutside a (leBytes n v) hwf
  rwa [leBytes_length] at hkeeps

theorem Channel.accumulateFirst_wf (hwf : Memory.wf h.mem = true) (n : Nat) :
    Memory.wf (h.accumulateFirst k2 b m w n).mem = true := by
  induction n with
  | zero => exact hwf
  | succ n ih =>
    rw [Channel.accumulateFirst_succ]
    split
    · exact memWrite_wf _ _ _ ih
    · exact ih

theorem Channel.accumulateFirst_keepsOutside (hwf : Memory.wf h.mem = true) (n : Nat) :
    h.keepsOutside (h.accumulateFirst k2 b m w n) b (6 * n) := by
  induction n with
  | zero => exact fun _ _ => rfl
  | succ n ih =>
    rw [Channel.accumulateFirst_succ]
    split
    · exact Channel.keepsOutside_trans ih (Channel.writeNat_keepsOutside _ (Channel.accumulateFirst_wf hwf n) _ _ _) le_rfl
        (by unfold groupAddr; omega) (by omega) (by unfold groupAddr; omega)
    · exact fun k hk => ih k (by omega)

/-- What value `i` of a group becomes. -/
def Channel.accumulated (h : Channel) (k2 : Bool) (b : Nat) (m : BitVec 10) (w : List Word) (i : Nat) : Nat :=
  if m.getLsbD i then
    Fp.encode ka48 (kaAdd k2 (Fp.decode ka48 (h.nat (b + 6 * i) 6)) (f32 (w.getD i 0#32).toNat)).1 % 2 ^ 48
  else h.nat (b + 6 * i) 6

/-- Value `i` becomes its sum when its turn comes, and the later turns leave it. -/
theorem Channel.accumulateFirst_nat (hwf : Memory.wf h.mem = true) (hb : burstOk b = true) {n i : Nat} (hi : i < n) (hn : n ≤ 10) :
    (h.accumulateFirst k2 b m w n).nat (b + 6 * i) 6 = h.accumulated k2 b m w i := by
  have hin : b + 64 ≤ hbmSize := of_decide_eq_true (Bool.and_eq_true _ _ ▸ hb).2
  induction n with
  | zero => omega
  | succ n ih =>
    have hbefore : (h.accumulateFirst k2 b m w n).nat (b + 6 * n) 6 = h.nat (b + 6 * n) 6 :=
      Channel.nat_keepsOutside (Channel.accumulateFirst_keepsOutside hwf n) (.inr le_rfl)
    rw [Channel.accumulateFirst_succ]
    by_cases hlast : i = n
    · subst hlast
      unfold Channel.accumulated groupAddr
      rw [hbefore]
      split
      · have hmemory : ∀ j, j < 6 → inMemory (b + 6 * i + j) 1 = true := fun j hj => by
          simp only [inMemory, inHbm, Bool.or_eq_true, decide_eq_true_eq]
          exact .inl (by omega)
        have hpow : 256 ^ 6 = 2 ^ 48 := by norm_num
        rw [Channel.nat_writeNat (Channel.accumulateFirst_wf hwf _) hmemory, hpow]
      · exact hbefore
    · have hvalue := ih (by omega) (by omega)
      split
      · rw [Channel.nat_keepsOutside (Channel.writeNat_keepsOutside _ (Channel.accumulateFirst_wf hwf n) _ _ _)
          (.inl (by unfold groupAddr; omega)), hvalue]
      · exact hvalue

end Accumulate

section Bursts
variable {s : State} {c : Chan}

theorem exec_accumulateWrite_of_ok {b : Nat} {m : BitVec 10} {w : List Word} (hb : burstOk b = true) (hup : (s.chan c).up = true) :
    exec (.accumulateWrite c b m w) s = .next (((s.onChan c (fun h => h.accumulateGroup (s.k2 c) b m w)).countAccumulates c 1).emit
      (.accumulateStatus ((s.chan c).groupStatus (s.k2 c) b m w))) := by
  show execAccumulateWrite c b m w s = _
  simp [execAccumulateWrite, hb, hup]

theorem exec_readClear_of_ok {b : Nat} (hb : burstOk b = true) (hup : (s.chan c).up = true) :
    exec (.readClear c b) s = .next ((s.onChan c (fun h => h.clearGroup b)).emit (.readValues ((s.chan c).group b))) := by
  show execReadClear c b s = _
  simp [execReadClear, hb, hup]

theorem exec_clear_of_ok {a n : Nat} (ha : a % 64 = 0) (hn : n % 64 = 0) (hin : inHbm a n = true) (hup : (s.chan c).up = true) :
    exec (.clear c a n) s = .next (s.onChan c (fun h => h.clearGroups a (n / 64))) := by
  show execClear c a n s = _
  simp only [execClear, ha, hn, hin, hup, ne_eq, not_true, decide_false, bne_self_eq_false, Bool.not_true, Bool.or_self,
    Bool.false_eq_true, if_false, if_true]
  rfl

theorem exec_accumulateWrite_of_bad {b : Nat} {m : BitVec 10} {w : List Word} (hb : burstOk b = false) :
    exec (.accumulateWrite c b m w) s = .fault .noSuchBurst := by
  show execAccumulateWrite c b m w s = _
  simp [execAccumulateWrite, hb]

theorem exec_readClear_of_bad {b : Nat} (hb : burstOk b = false) : exec (.readClear c b) s = .fault .noSuchBurst := by
  show execReadClear c b s = _
  simp [execReadClear, hb]

theorem exec_clear_of_bad {a n : Nat} (h : a % 64 ≠ 0 ∨ n % 64 ≠ 0 ∨ inHbm a n = false) :
    exec (.clear c a n) s = .fault .noSuchBurst := by
  show execClear c a n s = _
  rcases h with h | h | h <;> simp [execClear, h]

end Bursts

/-- Settles O44: the values of a group are accumulated one after another, each outside the others' bytes; clearing sets every
byte of a group to 0; the three commands by their checks of the burst. -/
theorem baseDieBursts : Obligations.BaseDieBursts := by
  refine ⟨fun c b m w s => exec_accumulateWrite_of_ok, fun h k2 b m w hwf hb => ⟨?_, fun i hi => ?_⟩,
    fun c b s hb hup hok => ⟨_, exec_readClear_of_ok hb hup, ?_⟩,
    fun c a n s ha hn hin hup hok => ⟨_, exec_clear_of_ok ha hn hin hup, ?_⟩,
    fun c b m w s hb => ⟨exec_accumulateWrite_of_bad hb, exec_readClear_of_bad hb⟩, fun c a n s => exec_clear_of_bad⟩
  · exact Channel.accumulateFirst_keepsOutside hwf 10
  · exact Channel.accumulateFirst_nat hwf hb hi le_rfl
  · simp only [State.emit_chan, State.emit_out, State.emit_module, State.emit_od, State.emit_pending, State.chan_onChan_self,
      State.onChan_out, State.onChan_module, State.onChan_od, State.onChan_pending]
    exact ⟨trivial, Channel.group_of_zero _ b (fun k => Channel.clearGroup_byte _ b), Channel.clearGroup_keepsOutside _ b, rfl,
      fun d hd => State.chan_onChan_other s hd _, trivial, trivial, trivial⟩
  · simp only [State.chan_onChan_self, State.onChan_out, State.onChan_module, State.onChan_od, State.onChan_pending]
    refine ⟨fun i hi => Channel.clearGroups_group _ a hi, ?_, Channel.clearGroups_rest _ a _,
      fun d hd => State.chan_onChan_other s hd _, trivial, trivial, trivial, trivial⟩
    have hlength : 64 * (n / 64) = n := by omega
    simpa only [hlength] using Channel.clearGroups_keepsOutside (s.chan c) a (n / 64)

end Sys2Proof.Machine

/-! ### Reset, the rack reference, snapshots, and the supply of the module -/

namespace Sys2Proof.Machine

theorem State.reset_chan (c : Chan) : State.reset.chan c = Channel.reset c.val := by
  match c with
  | 0 => rfl
  | 1 => rfl
  | 2 => rfl
  | 3 => rfl

/-- Settles O3: the fields of the reset state, the four channels by their common form. -/
theorem resetState : Obligations.ResetState := by
  refine ⟨rfl, rfl, rfl, rfl, rfl, rfl, fun c => ?_⟩
  rw [State.reset_chan]
  exact ⟨rfl, rfl, rfl, rfl, rfl, rfl, rfl, rfl, rfl, rfl, rfl, rfl, rfl, rfl, rfl, rfl, rfl, rfl, rfl, rfl⟩

theorem Firmware.reset_fusesOk (die : Nat) : (Firmware.reset die).fusesOk :=
  ⟨show 0 < 15 by decide, show 0 ≤ 16 by decide⟩

/-- Settles O4: at reset no byte is listed and no fuse is blown. -/
theorem resetMeetsInvariants : Obligations.ResetMeetsInvariants := by
  refine ⟨fun c => ?_, Firmware.reset_fusesOk 4, fun c => ?_⟩
  · rw [State.reset_chan]; exact nil_wf
  · rw [State.reset_chan]; exact Firmware.reset_fusesOk c.val

/-! The rack reference (R58) and performance snapshots (R65). -/

section Reference
variable {s : State}

theorem exec_referenceLost_of_on (href : s.module.refPresent = true) (hon : s.module.on = true) :
    exec .referenceLost s = .next
      ((({ s with module := { s.module with refPresent := false } }).portClock s.module.clock.lost
        (some (0x0012, leBytes 8 s.module.clock.timebase.toNat))).eachUp (fun s c =>
          s.chanClock c (s.chan c).clock.lost (some (0x0012, leBytes 8 (s.chan c).clock.timebase.toNat)))) := by
  show execReferenceLost s = _
  simp only [execReferenceLost, href, hon, Bool.not_true, Bool.false_eq_true, if_false]

theorem exec_referenceLost_of_off (href : s.module.refPresent = true) (hoff : s.module.on = false) :
    exec .referenceLost s = .next { s with module := { s.module with refPresent := false } } := by
  show execReferenceLost s = _
  simp [execReferenceLost, href, hoff]

theorem exec_referenceReturned_of_on (href : s.module.refPresent = false) (hon : s.module.on = true) :
    exec .referenceReturned s = .next
      ((({ s with module := { s.module with refPresent := true } }).portClock s.module.clock.returned
        (some (0x0013, leBytes 8 s.module.clock.timebase.toNat))).eachUp (fun s c =>
          s.chanClock c (s.chan c).clock.returned (some (0x0013, leBytes 8 (s.chan c).clock.timebase.toNat)))) := by
  show execReferenceReturned s = _
  simp only [execReferenceReturned, href, hon, Bool.not_true, Bool.false_eq_true, if_false]

theorem exec_referenceReturned_of_off (href : s.module.refPresent = false) (hoff : s.module.on = false) :
    exec .referenceReturned s = .next { s with module := { s.module with refPresent := true } } := by
  show execReferenceReturned s = _
  simp [execReferenceReturned, href, hoff]

end Reference

section Snapshots
variable {s : State} {c : Chan}

/-- The words of a snapshot that are performance counters. -/
def Channel.counterWords (h : Channel) : Map Nat :=
  (List.range 78).foldl (fun m i => mset 0 (i + 2) (mget 0 (i + 2) h.perf.counters) m) []

theorem Channel.counterWords_wf (h : Channel) : mapWf 0 h.counterWords = true :=
  List.foldlRecOn _ _ (motive := fun m => mapWf 0 m = true) rfl (fun _ hm _ _ => mapWf_mset _ _ hm)

/-- Words 0 and 1 of Table 14.5. -/
theorem Channel.mget_captureWords (h : Channel) :
    mget 0 0 h.captureWords = h.clock.timebase.toNat ∧ mget 0 1 h.captureWords = h.clock.status.loadGeneration.toNat := by
  have h1 : mapWf 0 (mset 0 1 h.clock.status.loadGeneration.toNat h.counterWords) = true := mapWf_mset _ _ h.counterWords_wf
  have h0 := mapWf_mset 0 h.clock.timebase.toNat h1
  have h80 := mapWf_mset 80 (h.perf.overflow % 2 ^ 64) h0
  show mget 0 0 (mset 0 81 _ (mset 0 80 _ (mset 0 0 _ (mset 0 1 _ h.counterWords)))) = _ ∧
    mget 0 1 (mset 0 81 _ (mset 0 80 _ (mset 0 0 _ (mset 0 1 _ h.counterWords)))) = _
  constructor
  · rw [mget_mset h80, if_neg (by decide), mget_mset h0, if_neg (by decide), mget_mset h1, if_pos rfl]
  · rw [mget_mset h80, if_neg (by decide), mget_mset h0, if_neg (by decide), mget_mset h1, if_neg (by decide),
      mget_mset h.counterWords_wf, if_pos rfl]

theorem exec_perfSnapshot_of_idle (hserved : s.hostServed c = true) (hidle : (s.chan c).perf.busy = false) :
    exec (.perfSnapshot c) s = .next (s.onChan c (fun h => { h with perf :=
      { h.perf with snapshot := h.captureWords, busy := true } })) := by
  show execPerfSnapshot c s = _
  simp [execPerfSnapshot, hserved, hidle]

theorem exec_perfSnapshot_of_unserved_or_busy (h : s.hostServed c = false ∨ (s.chan c).perf.busy = true) :
    exec (.perfSnapshot c) s = .next s := by
  show execPerfSnapshot c s = _
  rcases h with h | h <;> simp [execPerfSnapshot, h]

/-- A channel changed by a function that agrees with another one at the channel. -/
theorem State.onChan_congr {f g : Channel → Channel} (h : f (s.chan c) = g (s.chan c)) : s.onChan c f = s.onChan c g :=
  congrArg (s.setChan c) h

end Snapshots

/-- Settles O12: the two commands of the reference by whether the module is on, the clocks by their fields, and the snapshot by
reading the map of its words. -/
theorem referenceLossAndSnapshots : Obligations.ReferenceLossAndSnapshots := by
  refine ⟨fun s => exec_referenceLost_of_on, fun s => exec_referenceReturned_of_on, fun s => exec_referenceLost_of_off,
    fun s => exec_referenceReturned_of_off, fun k => ⟨rfl, rfl, rfl, rfl, rfl, rfl⟩, fun c s hserved hidle => ⟨?_, ?_⟩,
    fun c s _ hbusy => exec_perfSnapshot_of_unserved_or_busy (.inr hbusy), fun c s => rfl⟩
  · rw [exec_perfSnapshot_of_idle hserved hidle]; exact congrArg _ (State.onChan_congr rfl)
  · exact (s.chan c).mget_captureWords

/-! Power of the module, restart and failure of the port complex (R28, R526, R530). -/

section Supply
variable {s : State}

theorem exec_modulePowerOff_of_on (hon : s.module.on = true) :
    exec .modulePowerOff s = .next (
      let u := ([0, 1, 2, 3] : List Chan).foldl (fun (s : State) (c : Chan) => (s.goDark c .p4).onPower c (fun p =>
        { Power.reset with fuseClosed := p.fuseClosed })) s.loseRecent
      { u with module := { Module.reset with refPresent := u.module.refPresent, audit := u.module.audit,
                                             fw := { u.module.fw with keys := none }, creds := u.module.creds } }) := by
  show execModulePowerOff s = _
  simp only [execModulePowerOff, hon, Bool.not_true, Bool.false_eq_true, if_false]

theorem State.poweredOn_of_reference (href : s.module.refPresent = true) :
    s.poweredOn = { s.resetModuleEntries.drawFree.2 with module := { Module.reset with
      on := true, refPresent := s.module.refPresent,
      audit := s.module.audit.restart portAuditSize (Config.fresh s.free), fw := s.module.fw,
      creds := { s.module.creds with challenge := none } } } :=
  if_pos href

theorem State.poweredOn_of_noReference (href : s.module.refPresent = false) :
    s.poweredOn = ({ s.resetModuleEntries.drawFree.2 with module := { Module.reset with
      on := true, refPresent := s.module.refPresent,
      audit := s.module.audit.restart portAuditSize (Config.fresh s.free), fw := s.module.fw,
      creds := { s.module.creds with challenge := none } } } : State).portClock Clock.reset.lost (some (0x0012, leBytes 8 0)) :=
  if_neg (ne_true_of_eq_false href)

theorem exec_portComplexRestart_watchdog (pass : Bool) (hon : s.module.on = true) (halive : s.module.alive = true) :
    exec (.portComplexRestart .watchdog pass) s = .next (s.loseRecent.restartPort pass) := by
  show execPortComplexRestart .watchdog pass s = _
  simp [execPortComplexRestart, hon, halive]

theorem exec_portComplexRestart_activate (pass : Bool) (hon : s.module.on = true) (halive : s.module.alive = true)
    (htrial : s.module.fw.trial = 1) :
    exec (.portComplexRestart .activate pass) s = .next (s.beforeRestart.restartPort pass) := by
  show execPortComplexRestart .activate pass s = _
  simp [execPortComplexRestart, hon, halive, htrial]

theorem exec_portComplexRestart_rollback (pass : Bool) (hon : s.module.on = true) (halive : s.module.alive = true)
    (htrial : s.module.fw.state = 4) :
    exec (.portComplexRestart .rollback pass) s = .next (s.beforeRestart.restartPort pass) := by
  show execPortComplexRestart .rollback pass s = _
  simp [execPortComplexRestart, hon, halive, htrial]

theorem exec_portComplexFailure_of_on (hon : s.module.on = true) :
    exec .portComplexFailure s = .next { s.loseRecent.endTransfers.portFails with module :=
      { s.loseRecent.endTransfers.portFails.module with
        sessions := [], initParts := [], endpoint := s.loseRecent.endTransfers.portFails.module.endpoint.linkReset } } := by
  show execPortComplexFailure s = _
  simp [execPortComplexFailure, hon]

end Supply

/-- Settles O13: power-on by whether the reference is present, power-off by its own equation. -/
theorem modulePowerOnAndOff : Obligations.ModulePowerOnAndOff := by
  refine ⟨fun mv pass s u hoff hlow hhigh hu => ⟨fun href => ?_, fun href => ?_⟩,
    fun s hon => ⟨_, rfl, exec_modulePowerOff_of_on hon⟩⟩
  · rw [exec_modulePowerOn_of_off s hoff hlow hhigh, State.poweredOn_of_reference href, hu]
  · rw [exec_modulePowerOn_of_off s hoff hlow hhigh, State.poweredOn_of_noReference href, hu]

/-- Settles O15: the three causes of a restart by their conditions, and the failure by what it does to the queue. -/
theorem portComplexRestartAndFailure : Obligations.PortComplexRestartAndFailure := by
  refine ⟨fun pass s => exec_portComplexRestart_watchdog pass, fun pass s => exec_portComplexRestart_activate pass,
    fun pass s => exec_portComplexRestart_rollback pass, fun s u hon hu => ?_⟩
  rw [exec_portComplexFailure_of_on hon, hu]
  rfl

/-! Faults that open branch fuses (R22, R460). -/

section FuseFaults
variable {s : State} {c : Chan} {mv : Nat}

theorem exec_branchFuseOpen_of_open (h : s.module.on = false ∨ (s.chan c).power.fuseClosed = false) :
    exec (.branchFuseOpen c) s = .next s := by
  show execBranchFuseOpen c s = _
  rcases h with h | h <;> simp [execBranchFuseOpen, h]

theorem exec_supplyFault_of_fault (hon : s.module.on = true) (halive : s.module.alive = true) (hlow : 36000 ≤ mv)
    (hfault : mv < 39000 ∨ 60000 < mv) :
    exec (.supplyFault mv) s = .next
      ((((([0, 1, 2, 3] : List Chan).foldl (fun (s : State) (c : Chan) => s.cutBranch c) s).bumpPort (odKey 0x2800 0x20)).raisePort 0 0x0095
        (leBytes 1 (if mv < 39000 then 0 else 1) ++
          leBytes 4 (w32 (Fp.divRound fp32 .nearest (Fp.ofInt mv) (Fp.ofInt 1000))))).watchDegraded s) := by
  have hin : (decide (39000 ≤ mv) && decide (mv ≤ 60000)) = false := by
    rw [Bool.and_eq_false_iff, decide_eq_false_iff_not, decide_eq_false_iff_not]; omega
  show execSupplyFault mv s = _
  simp only [execSupplyFault, hon, halive, Nat.not_lt.2 hlow, hin, decide_false, Bool.not_true, Bool.or_self,
    Bool.false_eq_true, if_false]

theorem exec_supplyFault_of_none (h : s.module.on = false ∨ s.module.alive = false ∨ mv < 36000 ∨ (39000 ≤ mv ∧ mv ≤ 60000)) :
    exec (.supplyFault mv) s = .next s := by
  show execSupplyFault mv s = _
  rcases h with h | h | h | ⟨h, h'⟩
  · simp [execSupplyFault, h]
  · simp [execSupplyFault, h]
  · simp [execSupplyFault, h]
  · simp [execSupplyFault, h, h']

end FuseFaults

/-- Settles O16: both commands by the conditions under which a fuse opens. -/
theorem powerLossOpensFuses : Obligations.PowerLossOpensFuses :=
  ⟨fun _ _ => exec_branchFuseOpen_of_closed, fun _ _ => exec_supplyFault_of_fault, fun _ _ => exec_branchFuseOpen_of_open,
    fun _ _ => exec_supplyFault_of_none⟩

/-! Trips, watchdogs and throttles (R436, R465, R466). -/

section Trips
variable {s : State} {c : Chan} {v : Word}

theorem exec_limitTrip_junction (s : State) (c : Chan) (v : Word) :
    exec (.limitTrip (.junction c) v) s = .next (if (s.chan c).up then (s.trip c 1 0xFF v).watchDegraded s else s) := rfl

theorem exec_limitTrip_cartridge (s : State) (x : Slot) (v : Word) :
    exec (.limitTrip (.cartridge x) v) s = .next
      (if (s.chan x.owner).up && (s.chan x.owner).power.cartSupply && ((s.chan x.owner).slot x.side.val).present then
        (s.trip x.owner 2 x.side.val v).watchDegraded s
      else s) := rfl

theorem exec_limitTrip_inputCurrent (s : State) (v : Word) :
    exec (.limitTrip .inputCurrent v) s = .next (if s.module.on then s.currentTrip v else s) := rfl

theorem exec_currentTripRecheck (s : State) (b : Bool) (v : Word) :
    exec (.currentTripRecheck b v) s = .next (if s.module.on && b then s.currentTrip v else s) := rfl

theorem exec_coreWatchdog (s : State) (c : Chan) (k : CoreKind) :
    exec (.coreWatchdog c k) s = .next (if !(s.chan c).up then s else
      (((s.bump c (kFw c 0x22)).raise c 0x00B5
        (leBytes 1 (coreCode k).1 ++ leBytes 1 (coreCode k).2)).enterSafe c 2).watchDegraded s) := rfl

end Trips

/-- Settles O18: each command by the condition under which its limit or core acts. -/
theorem protectionTrips : Obligations.ProtectionTrips := by
  refine ⟨fun c v s hup => ?_, fun x v s hup hsupply hpresent => ?_, fun v s hon => ⟨?_, ?_⟩, fun v s => ?_,
    fun b v s hoff => ⟨?_, ?_⟩, fun c k v s hdown => ⟨?_, ?_⟩, fun x v s h => ?_, fun c k s hup => ?_,
    fun c s => exec_internalFault s c⟩
  · rw [exec_limitTrip_junction, if_pos hup]
  · rw [exec_limitTrip_cartridge, if_pos (by simp [hup, hsupply, hpresent])]
  · rw [exec_limitTrip_inputCurrent, if_pos hon]
  · rw [exec_currentTripRecheck, if_pos (by simp [hon])]
  · rw [exec_currentTripRecheck, if_neg (by simp)]
  · rw [exec_limitTrip_inputCurrent, if_neg (by simp [hoff])]
  · rw [exec_currentTripRecheck, if_neg (by simp [hoff])]
  · rw [exec_limitTrip_junction, if_neg (by simp [hdown])]
  · rw [exec_coreWatchdog, if_pos (by simp [hdown])]
  · rw [exec_limitTrip_cartridge, if_neg (by rcases h with h | h | h <;> simp [h])]
  · rw [exec_coreWatchdog, if_neg (by simp [hup])]

section Throttles
variable (k : Throttle)

theorem Throttle.run_above (below : Bool) : k.run true below = ⟨max (k.f - 2) 2, 0⟩ := rfl

theorem Throttle.run_below (h : k.quiet < 9) : k.run false true = ⟨k.f, k.quiet + 1⟩ := by
  simp [Throttle.run, show ¬ 9 ≤ k.quiet by omega]

theorem Throttle.run_below_tenth (h : 9 ≤ k.quiet) : k.run false true = ⟨min (k.f + 1) 16, 0⟩ := by
  simp [Throttle.run, h]

theorem Throttle.run_between : k.run false false = ⟨k.f, 0⟩ := rfl

/-- The bounds of a fraction and of its quiet count are kept (R465). -/
theorem Throttle.run_bounds {k : Throttle} (above below : Bool) (hlow : 2 ≤ k.f) (hhigh : k.f ≤ 16) (hquiet : k.quiet ≤ 9) :
    2 ≤ (k.run above below).f ∧ (k.run above below).f ≤ 16 ∧ (k.run above below).quiet ≤ 9 := by
  cases above
  · cases below
    · exact ⟨hlow, hhigh, Nat.zero_le _⟩
    · by_cases htenth : 9 ≤ k.quiet
      · rw [k.run_below_tenth htenth]; dsimp only; omega
      · rw [k.run_below (by omega)]; dsimp only; omega
  · rw [k.run_above]; dsimp only; omega

end Throttles

/-- Settles O20: the command by its condition; one run of a kind by where the value lies and how long it has been quiet. -/
theorem throttleRun : Obligations.ThrottleRun := by
  refine ⟨fun x s hon => ?_, Throttle.run_above, Throttle.run_below, Throttle.run_below_tenth, Throttle.run_between,
    fun k above below => Throttle.run_bounds above below⟩
  show execThrottleTick x s = _
  rw [execThrottleTick, if_neg (by simp [hon])]

/-! The link of the endpoint and its vectors (R25, R26, R404). -/

/-- Settles O21: each command by the condition under which the port complex or the host acts. -/
theorem pcieLinkAndVectors : Obligations.PcieLinkAndVectors := by
  refine ⟨fun k s hon halive => ?_, fun s hon halive hdown => ?_, fun v s hreach => ?_, fun b s hreach => ?_,
    fun e => ⟨rfl, rfl, rfl, rfl, rfl⟩⟩
  · show execPcieReset k s = _
    rw [execPcieReset, if_neg (by simp [hon, halive])]
  · show execPcieLinkUp s = _
    rw [execPcieLinkUp, if_neg (by simp [hon, halive, hdown])]
  · show execMsixVectorUnmask v s = _
    rw [execMsixVectorUnmask, if_neg (by simp [hreach])]
  · show execBusMasterEnable b s = _
    rw [execBusMasterEnable, if_neg (by simp [hreach])]

/-! Latches (R31, R560). -/

section Latches
variable {s : State} {x : Slot}

@[simp] theorem Channel.setSlot_power (h : Channel) (i : Nat) (y : SlotState) : (h.setSlot i y).power = h.power := by
  unfold Channel.setSlot; split <;> rfl

theorem exec_latchClosed_of_open (hopen : ((s.chan x.owner).slot x.side.val).latchClosed = false) :
    exec (.latchClosed x) s = .next ((s.drawFree.2.fit x.owner x.side.val (Config.cartridge s.free + 1)).onChan x.owner (fun h =>
      h.setSlot x.side.val { (h.slot x.side.val) with latchClosed := true, present := true, status := 1 })) := by
  show execLatchClosed x s = _
  simp [execLatchClosed, hopen]

/-- A closed latch is marked open; what follows depends on the supply of the channel. -/
theorem exec_latchOpened_of_closed {u : State} (hclosed : ((s.chan x.owner).slot x.side.val).latchClosed = true)
    (hu : u = s.onChan x.owner (fun h => h.setSlot x.side.val { ((s.chan x.owner).slot x.side.val) with latchClosed := false })) :
    exec (.latchOpened x) s = .next (if (s.chan x.owner).power.cartSupply then
      ((((u.cutSupply x.owner).raiseBoth x.owner 0x0022 (leBytes 1 x.val)).enterSafe x.owner 3).loseWork x.owner
        x.side.val).watchDegraded u else u.loseWork x.owner x.side.val) := by
  have hpower : (u.chan x.owner).power = (s.chan x.owner).power := by simp [hu]
  rw [← hpower, hu]
  show execLatchOpened x s = _
  simp only [execLatchOpened, hclosed, Bool.not_true, Bool.false_eq_true, if_false]

end Latches

/-- Settles O23: a latch that opens by whether its channel supplies its cartridges. -/
theorem cartridgeLatches : Obligations.CartridgeLatches := by
  refine ⟨fun x s => exec_latchClosed_of_open, fun x s u hclosed hsupply hu => ?_, fun x s u hclosed hsupply hu => ?_⟩
  · rw [exec_latchOpened_of_closed hclosed hu, if_neg (by simp [hsupply])]
  · rw [exec_latchOpened_of_closed hclosed hu, if_pos hsupply]

end Sys2Proof.Machine

/-! ### Power commands and steps, limit writes, metrology, registers and contexts -/

namespace Sys2Proof.Machine

/-! Requests and registers with an entry's own rule. -/

section Writes
variable {s u : State} {c : Chan} {w : State → State × Nat}

theorem State.writeScalar_passes {p : ReqPath} {index sub bytes v : Nat} {who : Option Chan} {r : OdRow}
    (h : s.passes p index sub 0 (leBytes bytes v) who r) (hw : w s = (u, 0)) :
    s.writeScalar p index sub bytes v w = s.answered u p index sub 0 (leBytes bytes v) who r :=
  State.writeRequest_passes h hw

theorem State.writeRegister_accepted {offset : Nat} (hserved : s.hostServed c = true) (hw : w s = (u, 0)) :
    s.writeRegister c offset w = u := by
  simp [State.writeRegister, hserved, hw]

theorem State.writeRegister_declined {offset n : Nat} (hserved : s.hostServed c = true) (hw : w s = (u, n)) (hn : n ≠ 0) :
    s.writeRegister c offset w = u.raise c 0x0004 (leBytes 4 offset) := by
  simp [State.writeRegister, hserved, hw, hn]

end Writes

/-! Power commands, ramps, transition steps and start-ups (R454 to R457, R532). -/

section PowerSteps
variable {s : State} {c : Chan}

theorem exec_powerCommand_of_passes {p : ReqPath} {v : Byte} {u : State} {r : OdRow}
    (hpass : s.passes p 0x2800 (1 + c.val) 0 (leBytes 1 v.toNat) none r) (hrule : s.commandPower c v.toNat = (u, 0)) :
    exec (.powerCommand p c v) s =
      .next ((s.answered u p 0x2800 (1 + c.val) 0 (leBytes 1 v.toNat) none r).watchDegraded s) := by
  show execPowerCommand p c v s = _
  rw [execPowerCommand, State.writeScalar_passes hpass hrule]

theorem exec_powerRampStart_of_none (b : Bool)
    (h : s.module.on = false ∨ s.module.alive = false ∨ s.module.rampQueue = []) :
    exec (.powerRampStart b) s = .next s := by
  show execPowerRampStart b s = _
  rcases h with h | h | h
  · simp [execPowerRampStart, h]
  · simp [execPowerRampStart, h]
  · simp [execPowerRampStart, h]

section Ramp
variable {l : List Chan} (hqueue : s.module.rampQueue = c :: l) (hon : s.module.on = true) (halive : s.module.alive = true)
include hqueue hon halive

theorem exec_powerRampStart_closed : exec (.powerRampStart false) s = .next ((s.leaveQueue c).onPower c (fun p => { p with
    fuseClosed := true, booting := some (if (s.chan c).power.state = .p4 then .cold else .warm) })) := by
  show execPowerRampStart false s = _
  simp only [execPowerRampStart, hqueue, hon, halive, Bool.not_true, Bool.or_self, Bool.false_eq_true, if_false]
  rfl

/-- A short leaves the fuse open, with both events from the port complex (R534); a channel of P3 loses its HBM first. -/
theorem exec_powerRampStart_short : exec (.powerRampStart true) s = .next
    ((((if (s.chan c).power.state = .p3 then (s.leaveQueue c).reachDark c .p4 true else s.leaveQueue c).onPower c (fun p => { p with
      fuseClosed := false, inTransition := false, stepTo := p.state })).raisePort c.val 0x0021 (leBytes 1 c.val)).raisePort
        c.val 0x00D1 (leBytes 1 1 ++ leBytes 3 0)) := by
  show execPowerRampStart true s = _
  simp [execPowerRampStart, hqueue, hon, halive]

end Ramp

section Steps
variable {a b : AuthAnswer} (hwait : (s.chan c).power.waiting = 0) (hstep : (s.chan c).power.inTransition = true)
  (hstart : s.starting c = false) (hsafe : (s.chan c).safe = false)
include hwait hstep hstart hsafe

theorem exec_transitionStepComplete_p0_p1 (hstate : (s.chan c).power.state = .p0) (hto : (s.chan c).power.stepTo = .p1)
    (hjobs : (s.chan c).jobs.any Job.running = false) :
    exec (.transitionStepComplete c a b) s = .next
      (((s.onPower c (fun p => { p with coreMillivolt := 600 })).reach c .p1).watchDegraded s) := by
  show execTransitionStepComplete c a b s = _
  simp only [execTransitionStepComplete, hwait, hstep, hstart, hsafe, hstate, hto, hjobs]; rfl

theorem exec_transitionStepComplete_p1_p0 (hstate : (s.chan c).power.state = .p1) (hto : (s.chan c).power.stepTo = .p0)
    (htest : (s.chan c).selfTest = none) :
    exec (.transitionStepComplete c a b) s = .next
      (((s.onPower c (fun p => { p with coreMillivolt := s.coreSetting c })).reach c .p0).watchDegraded s) := by
  show execTransitionStepComplete c a b s = _
  simp only [execTransitionStepComplete, hwait, hstep, hstart, hsafe, hstate, hto, htest]; rfl

theorem exec_transitionStepComplete_p1_p2 (hstate : (s.chan c).power.state = .p1) (hto : (s.chan c).power.stepTo = .p2)
    (htest : (s.chan c).selfTest = none) (hprogs : (s.chan c).arrays.progs = []) (hcals : (s.chan c).arrays.cals = []) :
    exec (.transitionStepComplete c a b) s = .next (((s.onChan c Channel.parkSlots).reach c .p2).watchDegraded s) := by
  show execTransitionStepComplete c a b s = _
  simp only [execTransitionStepComplete, hwait, hstep, hstart, hsafe, hstate, hto, htest, hprogs, hcals]; rfl

theorem exec_transitionStepComplete_p2_p1 (hstate : (s.chan c).power.state = .p2) (hto : (s.chan c).power.stepTo = .p1) :
    exec (.transitionStepComplete c a b) s = .next
      (((((s.powerSlots c a b false).1).onPower c (fun p => { p with waiting := 2 })).settleStart c).watchDegraded s) := by
  show execTransitionStepComplete c a b s = _
  simp only [execTransitionStepComplete, hwait, hstep, hstart, hsafe, hstate, hto]; rfl

theorem exec_transitionStepComplete_p2_p3 (hstate : (s.chan c).power.state = .p2) (hto : (s.chan c).power.stepTo = .p3) :
    exec (.transitionStepComplete c a b) s = .next (((s.intoP3 c).headFor c).watchDegraded s) := by
  show execTransitionStepComplete c a b s = _
  simp only [execTransitionStepComplete, hwait, hstep, hstart, hsafe, hstate, hto]; rfl

theorem exec_transitionStepComplete_p3_p4 (hstate : (s.chan c).power.state = .p3) (hto : (s.chan c).power.stepTo = .p4) :
    exec (.transitionStepComplete c a b) s = .next (((s.reachDark c .p4 true).headFor c).watchDegraded s) := by
  show execTransitionStepComplete c a b s = _
  simp only [execTransitionStepComplete, hwait, hstep, hstart, hsafe, hstate, hto]; rfl

end Steps

theorem exec_channelStartup_of_booting {f : StartupFindings} {kind : StartKind} (hboot : (s.chan c).power.booting = some kind) :
    exec (.channelStartup c f) s = .next
      ((if ((s.beginStart c kind).secureBoot (some c)).2.1 then
          (if ((s.beginStart c kind).secureBoot (some c)).2.2 then
            ((s.beginStart c kind).secureBoot (some c)).1.startFailed c 2 0 0
          else ((s.beginStart c kind).secureBoot (some c)).1).startSteps c f
        else (((s.beginStart c kind).secureBoot (some c)).1.startFailed c 2 5 0).enterSafe c 5).watchDegraded s) := by
  show execChannelStartup c f s = _
  simp only [execChannelStartup, hboot]

end PowerSteps

/-- Settles O24: each command by its conditions, each step by the state it leaves and the one it leads to. -/
theorem powerCommandsAndSteps : Obligations.PowerCommandsAndSteps := by
  refine ⟨fun p c v s u r => exec_powerCommand_of_passes, fun b s => exec_powerRampStart_of_none b,
    fun c l s hqueue hon halive => ⟨exec_powerRampStart_closed hqueue hon halive, fun hp3 => ?_, fun hp3 => ?_⟩,
    fun c a b s hwait hstep hstart hsafe => ⟨?_, ?_, ?_, ?_, ?_, ?_⟩, fun c f kind s => exec_channelStartup_of_booting⟩
  · rw [exec_powerRampStart_short hqueue hon halive, if_pos hp3]
  · rw [exec_powerRampStart_short hqueue hon halive, if_neg hp3]
  · exact exec_transitionStepComplete_p0_p1 hwait hstep hstart hsafe
  · exact exec_transitionStepComplete_p1_p0 hwait hstep hstart hsafe
  · exact exec_transitionStepComplete_p1_p2 hwait hstep hstart hsafe
  · exact exec_transitionStepComplete_p2_p1 hwait hstep hstart hsafe
  · exact exec_transitionStepComplete_p2_p3 hwait hstep hstart hsafe
  · exact exec_transitionStepComplete_p3_p4 hwait hstep hstart hsafe

/-! The core voltage and the limit registers (R438, R462, R464). -/

section Limits
variable {s : State} {c : Chan} {v : Nat}

theorem State.setVoltage_of_inRange (hlow : 600 ≤ v) (hhigh : v ≤ 850) (hmod : v % 5 = 0) :
    s.setVoltage c v = ((s.setEnt (kPow c 0x01) v).applyVoltage c, 0x00) := by
  simp [State.setVoltage, Nat.not_lt.2 hlow, Nat.not_lt.2 hhigh, hmod]

theorem State.setVoltage_of_outOfRange (h : v < 600 ∨ 850 < v ∨ v % 5 ≠ 0) : s.setVoltage c v = (s, 0x05) := by
  have hbad : (decide (v < 600) || decide (850 < v) || v % 5 != 0) = true := by simpa [or_assoc] using h
  rw [State.setVoltage, if_pos hbad]

end Limits

/-- Settles O26: through BAR0 by the rule of the register, by a request by its checks and the same rule. -/
theorem coreVoltageAndLimitWrites : Obligations.CoreVoltageAndLimitWrites := by
  refine ⟨fun c v s hserved hlow hhigh hmod => ?_, fun c v s hserved h => ?_, fun p c v s u r hpass hrule => ?_,
    fun c v s u hserved => ⟨fun hrule => ?_, fun hrule => ?_, fun hrule => ?_⟩,
    fun p v s u r => ⟨fun hpass hrule => ?_, fun hpass hrule => ?_⟩⟩
  · exact congrArg _ (State.writeRegister_accepted hserved (State.setVoltage_of_inRange hlow hhigh hmod))
  · exact congrArg _ (State.writeRegister_declined hserved (State.setVoltage_of_outOfRange h) (by decide))
  · exact congrArg _ (State.writeScalar_passes hpass (noting_ok hrule))
  · exact congrArg _ (State.writeRegister_accepted hserved hrule)
  · exact congrArg _ (State.writeRegister_accepted hserved hrule)
  · exact congrArg _ (State.writeRegister_accepted hserved hrule)
  · exact congrArg _ (State.writeScalar_passes hpass (noting_ok hrule))
  · exact congrArg _ (State.writeScalar_passes hpass (noting_ok hrule))

/-! The converter (R468 to R472). -/

theorem exec_metrologyConversionEnd_of_input {s : State} {c : Chan} {raw : BitVec 24} (hup : (s.chan c).up = true)
    (hinput : (s.chan c).metro.input ≠ 0) :
    exec (.metrologyConversionEnd c raw) s = .next ((if (s.chan c).metro.check then
      s.openWireCheck c (s.chan c).metro.input raw else s.reportResult c (s.chan c).metro.input raw).nextConversion c
        (s.chan c).metro.input) := by
  show execMetrologyConversionEnd c raw s = _
  simp only [execMetrologyConversionEnd, hup, hinput, Bool.not_true, Bool.false_eq_true, if_false]

/-- Settles O27: the end of a conversion by whether it was a check. -/
theorem metrologyConversion : Obligations.MetrologyConversion := by
  refine fun c raw s hup hinput => ⟨fun hcheck => ?_, fun hcheck => ?_⟩
  · rw [exec_metrologyConversionEnd_of_input hup hinput, if_pos hcheck]
  · rw [exec_metrologyConversionEnd_of_input hup hinput, if_neg (by simp [hcheck])]

/-! Registers of BAR0 (R406, R407). -/

section Registers
variable {s : State} {o : Nat} {wide : Bool} {v : DWord}

theorem exec_registerWrite_bar0 (hreach : s.hostReaches = true) (hbar : o < bar2Base) :
    exec (.registerWrite o wide v) s = .next (s.writeBar0 o wide v.toNat) := by
  show execRegisterWrite o wide v s = _
  simp only [execRegisterWrite, hreach, hbar, Bool.not_true, Bool.false_eq_true, if_false, if_true]

theorem State.writeBar0_of_unaligned {n : Nat} (h : o % (if wide then 8 else 4) ≠ 0) : s.writeBar0 o wide n = s := by
  rw [State.writeBar0, if_pos (by simp [h])]

theorem State.writeBar0_of_untaken {n : Nat} (h : s.takesWrites o = false) : s.writeBar0 o wide n = s := by
  rw [State.writeBar0, if_pos (by simp [h])]

theorem State.writeBar0_half {n : Nat} (halign : o % 4 = 0) (htakes : s.takesWrites o = true) :
    s.writeBar0 o false n = s.writeHalf o (n % 2 ^ 32) := by
  rw [State.writeBar0, if_neg (by simp [halign, htakes]), if_pos (by rfl)]

theorem State.writeBar0_wide {n : Nat} (halign : o % 8 = 0) (htakes : s.takesWrites o = true) (hwide : wideRegister o = true) :
    s.writeBar0 o true n = (s.onEndpoint (fun e => { e with halves := mset none o none e.halves })).writeWide o n := by
  rw [State.writeBar0, if_neg (by simp [halign, htakes]), if_neg (by simp), if_pos hwide]

theorem State.writeHalf_lower {n : Nat} (hwide : wideRegister o = true) :
    s.writeHalf o n = s.onEndpoint (fun e => { e with halves := mset none o (some (BitVec.ofNat 32 n)) e.halves }) := by
  rw [State.writeHalf, if_pos hwide]

theorem State.writeHalf_upper {n : Nat} {w : Word} (hself : wideRegister (o + 4) = false) (hwide : wideRegister o = true)
    (hheld : mget none o s.module.endpoint.halves = some w) :
    s.writeHalf (o + 4) n =
      (s.onEndpoint (fun e => { e with halves := mset none o none e.halves })).writeWide o (n * 2 ^ 32 + w.toNat) := by
  simp [State.writeHalf, hself, hwide, hheld]

theorem State.writeHalf_word {n : Nat} (hself : wideRegister o = false) (hbefore : o < 4 ∨ wideRegister (o - 4) = false) :
    s.writeHalf o n = s.writeWord o n := by
  have hupper : (decide (4 ≤ o) && wideRegister (o - 4)) = false := by
    rcases hbefore with h | h
    · simp [Nat.not_le.2 h]
    · simp [h]
  simp [State.writeHalf, hself, hupper]

end Registers

/-- Settles O28: a write by its alignment and by what stands at its offset, and before it. -/
theorem registerWrites : Obligations.RegisterWrites := by
  refine ⟨fun o wide v s hreach hbar h => ?_, fun o s h => if_pos h, fun o v s hreach hbar halign htakes hwide => ?_,
    fun o v w s hreach hbar halign htakes hself hwide hheld => ?_, fun o v s hreach hbar halign htakes hwide => ?_,
    fun o v s hreach hbar halign htakes hself hbefore => ?_⟩
  · rw [exec_registerWrite_bar0 hreach hbar, State.writeBar0_of_unaligned h]
  · rw [exec_registerWrite_bar0 hreach hbar, State.writeBar0_half halign htakes, State.writeHalf_lower hwide]
  · rw [exec_registerWrite_bar0 hreach hbar, State.writeBar0_half (by omega) htakes, State.writeHalf_upper hself hwide hheld]
  · rw [exec_registerWrite_bar0 hreach hbar, State.writeBar0_wide halign htakes hwide]
  · rw [exec_registerWrite_bar0 hreach hbar, State.writeBar0_half halign htakes, State.writeHalf_word hself hbefore]

/-! An unavailable channel (R407). -/

section Unavailable
variable {s : State} {c : Chan}

theorem State.hostServed_of_unavailable (h : s.available c = false) : s.hostServed c = false := by
  simp [State.hostServed, h]

/-- An offset in the region of a channel (Table 14.1). -/
theorem channelOffset_of_region {r : Nat} (hlow : chBase c ≤ r) (hhigh : r < chBase c + 0x00C00000) :
    channelOffset r = some (c, (r - 0x01000000) % 0x00C00000) := by
  have hc := c.isLt
  unfold chBase at hlow hhigh
  have hnumber : (r - 0x01000000) / 0x00C00000 = c.val := by omega
  rw [channelOffset, if_pos (by omega), hnumber]
  simp

theorem State.takesWrites_of_region {r : Nat} (hlow : chBase c ≤ r) (hhigh : r < chBase c + 0x00C00000) :
    s.takesWrites r = s.available c := by
  simp only [State.takesWrites, channelOffset_of_region hlow hhigh]

theorem lt_bar2Base_of_region {r : Nat} (hhigh : r < chBase c + 0x00C00000) : r < bar2Base := by
  have hc := c.isLt
  unfold chBase at hhigh
  unfold bar2Base
  omega

theorem State.readChannelWord_zero : s.readChannelWord c 0 = (s.chan c).statusWord := rfl

theorem State.readChannelWord_of_unavailable {r : Nat} (h : s.available c = false) (hr : r ≠ 0) :
    s.readChannelWord c r = 0xFFFFFFFF := by
  unfold State.readChannelWord
  dsimp only
  rw [if_neg hr, if_pos (by simp [h])]

theorem Channel.served_of_safe {h : Channel} (hsafe : h.safe = true) : h.served = true := by
  simp [Channel.served, hsafe]

end Unavailable

/-- Settles O30: reads by the offset, writes by the region that takes none, commands by the channel that is not served. -/
theorem unavailableChannelRegisters : Obligations.UnavailableChannelRegisters := by
  refine ⟨fun c s h => ⟨rfl, fun r => State.readChannelWord_of_unavailable h⟩, fun c r wide v s hreach h hlow hhigh => ?_,
    fun c x v p s h => ?_, fun c s hsafe hfuse => ?_⟩
  · have htakes : s.takesWrites r = false := (State.takesWrites_of_region hlow hhigh).trans h
    rw [exec_registerWrite_bar0 hreach (lt_bar2Base_of_region hhigh), State.writeBar0_of_untaken htakes]
  · have hunserved : ¬ s.hostServed c = true := ne_true_of_eq_false (State.hostServed_of_unavailable h)
    refine ⟨?_, ?_, ?_, ?_, ?_, ?_, ?_⟩
    · exact congrArg _ (if_neg hunserved)
    · exact congrArg _ (if_neg hunserved)
    · exact congrArg _ (if_neg hunserved)
    · exact congrArg _ (if_neg hunserved)
    · exact congrArg _ (if_neg hunserved)
    · exact congrArg _ (if_neg hunserved)
    · exact exec_perfSnapshot_of_unserved_or_busy (.inl (State.hostServed_of_unavailable h))
  · simp [State.available, Channel.served_of_safe hsafe, hfuse]

/-! Contexts and the event carousel (R411, R413, R414, R426). -/

section Contexts
variable {s u : State} {c : Chan} {x : Ctx} {p : BitVec 2}

section Served
variable (hserved : s.hostServed c = true)
  (hu : u = s.onChan c (fun h => h.setContext x.val { h.context x.val with priority := p.toNat }))
include hserved hu

/-- A write of ENABLE 1 sets the priority, and then acts on a context that is not enabled. -/
theorem exec_contextEnable_of_hostServed : exec (.contextEnable c x p) s = .next
    (if ((u.chan c).context x.val).enabled then u
      else if (u.chan c).contextOk x.val then
        u.onChan c (fun h => h.setContext x.val { ((u.chan c).context x.val) with
          enabled := true, sqHead := 0, sqTail := 0, cqTail := 0, cqHead := 0, phase := true })
      else (u.onChan c (fun h => h.setContext x.val { ((u.chan c).context x.val) with configError := true })).raise c 0x0006
        (leBytes 1 x.val)) := by
  rw [hu]
  show execContextEnable c x p s = _
  rw [execContextEnable, if_pos hserved]
  rfl

theorem exec_contextDrain_of_hostServed : exec (.contextDrain c x p) s = .next (u.drainContext c x.val) := by
  rw [hu]
  show execContextDrain c x p s = _
  rw [execContextDrain, if_pos hserved]
  rfl

end Served

theorem exec_eventControlWrite_of_hostServed {v : Word} (hserved : s.hostServed c = true) :
    exec (.eventControlWrite c v) s = .next (s.writeEventControl c v) := by
  show execEventControlWrite c v s = _
  rw [execEventControlWrite, if_pos hserved]

/-- ENABLE clear, or a carousel that is enabled: the fields alone are set. -/
theorem State.writeEventControl_of_fields {v : Word}
    (h : (v &&& 0xFFFFFF01#32).getLsbD 0 = false ∨ (s.chan c).host.events.enabled = true) :
    s.writeEventControl c v = s.onChan c (fun h => { h with host := { h.host with
      events := { h.host.events with control := v &&& 0xFFFFFF01#32 } } }) := by
  have hfields : (!(v &&& 0xFFFFFF01#32).getLsbD 0 || (s.chan c).host.events.enabled) = true := by
    rcases h with h | h
    · rw [h]; rfl
    · rw [h, Bool.or_true]
  rw [State.writeEventControl, if_pos hfields]

theorem State.writeEventControl_of_valid {v : Word} (henable : (v &&& 0xFFFFFF01#32).getLsbD 0 = true)
    (hdisabled : (s.chan c).host.events.enabled = false) (halign : (s.chan c).host.events.base % 4096 = 0)
    (hfree : hbmFree (s.chan c).host.events.base (32 * 8192) = true)
    (hapart : ((s.chan c).carousels none).any (overlapRange (s.chan c).host.events.span) = false) :
    s.writeEventControl c v = s.enableEvents c (v &&& 0xFFFFFF01#32) := by
  have hspan : hbmFree (s.chan c).host.events.span.1 (s.chan c).host.events.span.2 = true := hfree
  have hfields : (!(v &&& 0xFFFFFF01#32).getLsbD 0 || (s.chan c).host.events.enabled) = false := by
    rw [henable, hdisabled]; rfl
  have hvalid : ((s.chan c).host.events.base % 4096 == 0 && hbmFree (s.chan c).host.events.span.1 (s.chan c).host.events.span.2 &&
      !((s.chan c).carousels none).any (overlapRange (s.chan c).host.events.span)) = true := by
    rw [halign, hspan, hapart]; rfl
  rw [State.writeEventControl, if_neg (ne_true_of_eq_false hfields), if_pos hvalid]

/-- Messages that are gathered for a time that is not 0 are due. -/
theorem not_nothingGathered {n : Nat} {v : BitVec 16} (hcount : n ≠ 0) (htime : v ≠ 0) :
    ¬ (decide (n = 0) || v == 0) = true := by
  simp only [Bool.or_eq_true, decide_eq_true_eq, beq_iff_eq, not_or]
  exact ⟨hcount, htime⟩

end Contexts

/-- Settles O32: an enable by whether the context is enabled and its carousels are valid, the control of the event carousel by
its ENABLE bits, and a timeout by what is gathered. -/
theorem contextsAndEventCarousel : Obligations.ContextsAndEventCarousel := by
  refine ⟨fun c x p s u hserved hu => ⟨fun hdisabled hok => ?_, fun hdisabled hbad => ?_, fun henabled => ?_, ?_⟩,
    fun c v s hserved => ⟨fun h => ?_, fun henable hdisabled halign hfree hapart => ?_⟩, fun c x s hcount htime => ?_,
    fun c s hcount htime => ?_⟩
  · rw [exec_contextEnable_of_hostServed hserved hu, if_neg (ne_true_of_eq_false hdisabled), if_pos hok]
  · rw [exec_contextEnable_of_hostServed hserved hu, if_neg (ne_true_of_eq_false hdisabled), if_neg (ne_true_of_eq_false hbad)]
  · rw [exec_contextEnable_of_hostServed hserved hu, if_pos henabled]
  · exact exec_contextDrain_of_hostServed hserved hu
  · rw [exec_eventControlWrite_of_hostServed hserved, State.writeEventControl_of_fields h]
  · rw [exec_eventControlWrite_of_hostServed hserved, State.writeEventControl_of_valid henable hdisabled halign hfree hapart]
  · exact congrArg _ (if_neg (not_nothingGathered hcount htime))
  · exact congrArg _ (if_neg (not_nothingGathered hcount htime))

end Sys2Proof.Machine

/-! ### Entries without a descriptor, host transfers, and requests served -/

namespace Sys2Proof.Machine

/-! Submission entries that name no descriptor (R415, R418, R421). -/

section Entries
variable {s : State} {c : Chan} {n ty : Nat} {j : Job}

/-- What acts on a job that has begun or may begin, acts on one that may begin. -/
theorem State.withBegun_ready (h : s.ready c n ty = some j) (f : Job → State) : s.withBegun c n ty f = f j := by
  obtain ⟨hjob, hty, hbegin⟩ := State.ready_some h
  simp [State.withBegun, hjob, hty, hbegin]

theorem exec_entryFetch_of_nextFetch {x : Nat} (hserved : (s.chan c).served = true) (hsafe : (s.chan c).safe = false)
    (hnext : (s.chan c).nextFetch = some x) :
    exec (.entryFetch c) s = .next ((s.onChan c (fun h => h.fetch x)).withJob c (s.chan c).nextId tyBadAddress
      (fun j => (s.onChan c (fun h => h.fetch x)).refuseJob c j (badAddress j.addr))) := by
  show execEntryFetch c s = _
  simp [execEntryFetch, hserved, hsafe, hnext]

theorem exec_invalidEntry : exec (.invalidEntry c n) s = .next
    ((s.withJob c n tyInvalid (fun j => s.failJob c j 0x04 0 0)).withJob c n tyBadAddress
      (fun j => s.refuseJob c j (badAddress j.addr))) := rfl

end Entries

/-- Settles O33: the fetch by its choice, each entry by its job that may begin, ABANDON by the loaded program. -/
theorem entriesThatNameNoWork : Obligations.EntriesThatNameNoWork := by
  refine ⟨fun c x s hserved hsafe hnext haddr => ?_, fun c n j s hready => ?_, fun c n j s hready => ?_,
    fun c n j s hready hnone => ?_, fun c n j p s hready hsome hphase => ?_, fun c n j s hready haddr => ?_,
    fun c n j s hvalid hready => ?_⟩
  · rw [exec_entryFetch_of_nextFetch hserved hsafe hnext, State.withJob_none haddr]
  · exact congrArg _ (State.withJob_ready hready _)
  · exact congrArg _ (State.withBegun_ready hready _)
  · refine congrArg _ ((State.withBegun_ready hready _).trans ?_)
    simp only [hnone]
  · refine congrArg _ ((State.withBegun_ready hready _).trans ?_)
    simp only [hsome, hphase, Bool.false_eq_true, if_false]
  · rw [exec_invalidEntry, State.withJob_ready hready, State.withJob_none haddr]
  · rw [exec_invalidEntry, State.withJob_none hvalid, State.withJob_ready hready]

/-! Host transfers and read-clear registers (R15, R404, R423, R424). -/

section Transfers
variable {s : State} {c : Chan} {j : Job} {host chan length moved : Nat} {toHost : Bool} {data : List Byte}

/-- The state in which a piece has crossed the port link: the mover's turn is noted and the bytes are counted (Table 14.5). -/
def State.pieceMoved (s : State) (c : Chan) (toHost : Bool) (host chan moved n : Nat) (data : List Byte) : State :=
  if toHost then ((s.onEndpoint (fun e => { e with lastMoved := c.val })).emit
    (.hostWrite (BitVec.ofNat 64 (host + moved)) ((s.chan c).bytes (chan + moved) n))).perfAdd c 79 n
  else (((s.onEndpoint (fun e => { e with lastMoved := c.val })).emit (.hostRead (BitVec.ofNat 64 (host + moved)) n)).onChan c
    (fun h => h.write (chan + moved) data)).perfAdd c 78 n

theorem exec_moverPiece_of_transfer (hopen : s.moverOpen = true) (hnext : s.nextMoved = some c)
    (hjob : (s.chan c).transfer = some j) (hphase : j.phase = .transfer toHost host chan length moved) :
    exec (.moverPiece data) s = .next
      (if (!toHost && data.length != pieceLength length moved) = true then s
        else if moved + pieceLength length moved = length then
          (s.pieceMoved c toHost host chan moved (pieceLength length moved) data).completeJob c j length 0
        else (s.pieceMoved c toHost host chan moved (pieceLength length moved) data).onChan c (fun h =>
          h.setJob { j with phase := .transfer toHost host chan length (moved + pieceLength length moved) })) := by
  show execMoverPiece data s = _
  simp only [execMoverPiece, hopen, hnext, hjob, hphase, Bool.not_true, Bool.false_eq_true, if_false]
  rfl

/-- A piece that is read from the host comes with as many bytes as it has (log entry 54). -/
theorem not_pieceMismatch {n : Nat} (hlen : toHost = false → data.length = n) : ¬ (!toHost && data.length != n) = true := by
  cases toHost with
  | true => simp
  | false => simp [hlen rfl]

theorem exec_hostTransfer_of_valid {n : Nat} (hready : s.ready c n 0xA0 = some j) (hvalid : (s.chan c).transferOffence j.addr = none)
    (hopen : s.moverOpen = true) :
    exec (.hostTransfer c n) s = .next (s.onChan c (fun h => { h with jobs := (h.dropJob j.id).jobs ++ [{ j with
      phase := .transfer ((s.chan c).nat (j.addr + 2) 1 == 1) ((s.chan c).nat (j.addr + 8) 8) ((s.chan c).nat (j.addr + 16) 8)
        ((s.chan c).nat (j.addr + 24) 8) 0 }] })) := by
  refine congrArg _ ((State.withJob_ready hready _).trans ?_)
  simp only [hvalid, hopen, Bool.not_true, Bool.false_eq_true, if_false]

end Transfers

section ReadClear
variable {s : State} {c : Chan} (hreach : s.hostReaches = true)
include hreach

theorem exec_rcRegisterRead_moduleEventsLost : exec (.rcRegisterRead .moduleEventsLost) s = .next
    ((s.onEndpoint (fun e => { e with moduleEventsLost := ⟨0, false⟩ })).emit
      (.readData (BitVec.ofNat 64 (s.module.endpoint.moduleEventsLost.read 31)))) := by
  show execRcRegisterRead .moduleEventsLost s = _
  simp [execRcRegisterRead, hreach]

variable (havail : s.available c = true)
include havail

theorem exec_rcRegisterRead_eventsLost : exec (.rcRegisterRead (.eventsLost c)) s = .next ((s.onChan c (fun h => { h with
    host := { h.host with eventsLost := ⟨0, false⟩ } })).emit (.readData (BitVec.ofNat 64 ((s.chan c).host.eventsLost.read 63)))) := by
  show execRcRegisterRead (.eventsLost c) s = _
  simp [execRcRegisterRead, hreach, havail]

theorem exec_rcRegisterRead_doorbellErrors : exec (.rcRegisterRead (.doorbellErrors c)) s = .next ((s.onChan c (fun h => { h with
    host := { h.host with doorbellErrors := ⟨0, false⟩ } })).emit
      (.readData (BitVec.ofNat 64 ((s.chan c).host.doorbellErrors.read 63)))) := by
  show execRcRegisterRead (.doorbellErrors c) s = _
  simp [execRcRegisterRead, hreach, havail]

theorem exec_rcRegisterRead_cqFullWaits : exec (.rcRegisterRead (.cqFullWaits c)) s = .next ((s.onChan c (fun h => { h with
    host := { h.host with cqFullWaits := ⟨0, false⟩ } })).emit
      (.readData (BitVec.ofNat 64 ((s.chan c).host.cqFullWaits.read 63)))) := by
  show execRcRegisterRead (.cqFullWaits c) s = _
  simp [execRcRegisterRead, hreach, havail]

end ReadClear

/-- Settles O34: a transfer by its descriptor, a piece by its direction and whether it is the last, a read by its register. -/
theorem hostTransfersAndCounters : Obligations.HostTransfersAndCounters := by
  refine ⟨fun c n j s hready hvalid hopen => exec_hostTransfer_of_valid hready hvalid hopen,
    fun c j host chan length moved n data s hopen hnext hjob hn => ⟨fun toHost u hphase hlen hu => ⟨fun hlast => ?_, fun hlast => ?_⟩,
      fun hphase hlen => ?_⟩,
    fun s hreach => ⟨exec_rcRegisterRead_moduleEventsLost hreach, fun c havail => ⟨exec_rcRegisterRead_eventsLost hreach havail,
      exec_rcRegisterRead_doorbellErrors hreach havail, exec_rcRegisterRead_cqFullWaits hreach havail⟩⟩⟩
  · subst hn hu
    rw [exec_moverPiece_of_transfer hopen hnext hjob hphase, if_neg (not_pieceMismatch hlen), if_pos hlast]
    rfl
  · subst hn hu
    rw [exec_moverPiece_of_transfer hopen hnext hjob hphase, if_neg (not_pieceMismatch hlen), if_neg hlast]
    rfl
  · rw [exec_moverPiece_of_transfer hopen hnext hjob hphase, if_pos (by simpa [hn] using hlen)]

end Sys2Proof.Machine

/-! ### Requests served, and writes with a rule of their own -/

namespace Sys2Proof.Machine

/-! A request to write, what follows it, and its rule (R477, R492). -/

section Requests
variable {s u : State} {p : ReqPath} {index sub offset : Nat} {d : List Byte} {who : Option Chan} {r : OdRow}
  {w : State → State × Nat}

theorem State.writeStatusOf_passes (h : s.passes p index sub offset d who r) (hw : w s = (u, 0)) :
    s.writeStatusOf p index sub offset d w = 0 := by
  obtain ⟨_, hcheck, hstatus, _⟩ := h
  simp [State.writeStatusOf, hcheck, hstatus, hw]

/-- A request that passes and whose rule accepts is answered, and then what follows it happens. -/
theorem State.writeThen_passes {after : State → State} (h : s.passes p index sub offset d who r) (hw : w s = (u, 0)) :
    s.writeThen p index sub offset d w after = after (s.answered u p index sub offset d who r) := by
  have hopen : s.pathOpen p = true := h.1
  rw [State.writeThen, State.writeRequest_passes h hw, State.writeStatusOf_passes h hw, hopen]
  rfl

/-- Only a firmware command and a recovery piece are followed by anything (R527). -/
theorem State.afterRule_of_other (s : State) (hfw : (odArea index).1 ≠ 0x7100) (hkeys : (odArea index).1 ≠ 0x1110) :
    s.afterRule index sub d = s := by
  simp [State.afterRule, hfw, hkeys]

theorem exec_odWrite_of_passes {i : Half} {b : Byte} (hpass : s.passes p i.toNat b.toNat offset d who r)
    (hrule : s.entryRule p i.toNat b.toNat offset d = (u, 0)) (hwatch : watchesDegraded i.toNat b.toNat = false)
    (hfw : (odArea i.toNat).1 ≠ 0x7100) (hkeys : (odArea i.toNat).1 ≠ 0x1110) :
    exec (.odWrite p i b offset d) s = .next (s.answered u p i.toNat b.toNat offset d who r) := by
  refine congrArg Host.Outcome.next ?_
  show s.odWrite p i.toNat b.toNat offset d = _
  rw [State.odWrite, hwatch, State.writeThen_passes hpass hrule, State.afterRule_of_other _ hfw hkeys]
  rfl

end Requests

section Reads
variable {s : State} {p : ReqPath} {index sub offset n : Nat} {r : OdRow}

theorem State.readRequest_checked (h : s.requestCheck p false index sub n = (0, some r)) :
    s.readRequest p index sub offset n = (s.readEntry p r index sub offset n).2.2.2.reply p
      (s.readEntry p r index sub offset n).1 r.ty (s.readEntry p r index sub offset n).2.1 offset
      (s.readEntry p r index sub offset n).2.2.1 := by
  simp [State.readRequest, h]

/-- A scalar that the role may see, read whole. -/
theorem State.readEntry_scalar (hty : r.ty < 8) (hseen : r.code (s.roleOf p) ≠ 3) :
    s.readEntry p r index sub 0 (odSize r.ty) = (0, odSize r.ty,
      leBytes (odSize r.ty) (s.entryValue p index sub).1, (s.entryValue p index sub).2) := by
  simp [State.readEntry, hty, hseen]

theorem State.wholeLength_challenge : s.wholeLength 0x1100 0x02 = 32 := rfl

/-- A read of CHALLENGE draws a new one (R514). -/
theorem State.readEntry_challenge (hty : r.ty = 9) (hindex : r.index = 0x1100) (hseen : r.code (s.roleOf p) ≠ 3) :
    s.readEntry p r 0x1100 0x02 0 32 =
      (0, 32, pieceOf (leBytes 32 (Config.fresh s.free)) 0 32,
        s.drawFree.2.setChallenge p (some (leBytes 32 (Config.fresh s.free)))) := by
  simp [State.readEntry, hty, hindex, hseen, State.wholeLength_challenge, State.newChallenge, State.drawFree]

end Reads

section OpenPath
variable {s : State}

theorem exec_subscribe_of_session {id : Nat} {d : List Byte} {q : Session} (hopen : s.pathOpen (.session id) = true)
    (hsession : s.session id = some q) (hlen : d.length = 8) :
    exec (.subscribe (.session id) d) s = .next ((s.setSession { q with
      mask := fieldOf d 0 1 % 32, lowCode := fieldOf d 4 2, highCode := fieldOf d 6 2 }).reply (.session id) 0x00 0 0 0 []) := by
  refine congrArg Host.Outcome.next ((if_pos hopen).trans ?_)
  simp [State.subscribe, hlen, hsession]

end OpenPath

/-- Settles O35: a write by its rule with nothing after it, a read by the kind of its entry, the others by their open path. -/
theorem requestsServed : Obligations.RequestsServed := by
  refine ⟨fun p i b o d who r s u => exec_odWrite_of_passes, fun p i b o n r s hopen hcheck hty ho hn hseen => ?_,
    fun p r s hopen hcheck hty hindex hseen => ?_, fun id d q s => exec_subscribe_of_session,
    fun p s hopen => congrArg _ (if_pos hopen)⟩
  · subst ho hn
    refine congrArg Host.Outcome.next ((if_pos hopen).trans ?_)
    rw [State.readRequest_checked hcheck, State.readEntry_scalar hty hseen]
  · refine congrArg Host.Outcome.next ((if_pos hopen).trans ?_)
    rw [State.readRequest_checked hcheck, State.readEntry_challenge hty hindex hseen, hty]

/-! Entries of the module, the links and the training part (R271, R284, R314, R390). -/

section EntryRules
variable {s : State} {c : Chan}

theorem State.writeNumerics_of_idle {v : Nat} (h : (s.chan c).numericsIdle = true) :
    s.writeNumerics c v = (s.setNumerics c (v % 4), 0) :=
  if_pos h

/-- A member that owes nothing reports itself lost with reason 3 (R390). -/
theorem State.setWithdraw_of_idle {v : Nat} {g : Group} (hv : v ≠ 0) (hgroup : s.commitGroup c = some g) (hlive : g.live = true)
    (hprog : (s.chan c).training.program = none) (hrecord : (s.chan c).training.recordSinceSeed = true)
    (hsecured : s.ent (kSafe c 2) = (s.chan c).lastStep) (hsteps : (s.chan c).coll.steps = []) :
    s.setWithdraw c v = (s.reportLost c g g.rank 3, 0) := by
  simp [State.setWithdraw, hv, hgroup, hlive, hprog, hrecord, hsecured, hsteps]

end EntryRules

/-- Settles O37: each entry by its rule, with the status that the rule answers. -/
theorem entriesWritten : Obligations.EntriesWritten := by
  refine ⟨fun p v r s hpass => ?_, fun p w v r s hpass => ?_, fun p c x v r s hpass => ?_, fun p c x v r s u hpass hrule => ?_,
    fun p c o d r s hpass => ?_, fun p c v r s hpass hidle => ?_,
    fun p c v g r s hpass hv hgroup hlive hprog hrecord hsecured hsteps => ?_⟩
  · exact congrArg _ (State.writeScalar_passes hpass rfl)
  · exact congrArg _ (State.writeScalar_passes hpass rfl)
  · exact congrArg _ (State.writeScalar_passes hpass rfl)
  · exact congrArg _ (State.writeScalar_passes hpass hrule)
  · exact congrArg _ (State.writeRequest_passes hpass rfl)
  · exact congrArg _ (State.writeScalar_passes hpass (noting_ok (State.writeNumerics_of_idle hidle)))
  · have hv' : v.toNat ≠ 0 := fun h => hv (BitVec.eq_of_toNat_eq h)
    exact congrArg _ (State.writeScalar_passes hpass
      (noting_ok (State.setWithdraw_of_idle hv' hgroup hlive hprog hrecord hsecured hsteps)))

/-! Firmware of a channel (R441 to R444, R528). -/

section ChannelFirmware
variable {s u : State} {c : Chan} {p : ReqPath} {r : OdRow}

theorem State.writeFwCommand_passes {v : Nat}
    (hpass : s.passes p (0x7100 + 0x100 * c.val) 0x12 0 (leBytes 1 v) (some c) r) (hrule : s.fwCommand c v = (u, 0)) :
    s.writeFwCommand p c v =
      (s.answered u p (0x7100 + 0x100 * c.val) 0x12 0 (leBytes 1 v) (some c) r).afterFwCommand c v :=
  State.writeThen_passes (w := fun s => s.fwCommand c v) (after := fun s => s.afterFwCommand c v) hpass hrule

theorem State.stage_of_mayStage (h : (s.chan c).fw.mayStage = true) :
    s.stage c = (s.onChan c (fun h => { h with fw := { h.fw with
      state := 1, staged := h.bytes (s.ent (kFw c 0x10)) (s.ent (kFw c 0x11)) } }), 0) := by
  simp [State.stage, h]

theorem State.activate_of_free (hact : (s.chan c).fw.mayActivate = true) (hfree : (s.chan c).free = true)
    (hsafe : (s.chan c).safe = false) (hothers : s.othersHoldGroup c = false) :
    s.activate c = (s.onChan c (fun h => { h with fw := { (s.chan c).fw with trial := 1 } }), 0) := by
  simp [State.activate, hact, hfree, hsafe, hothers, State.setDieFw]

theorem State.fwCommand_activate_of_free (hact : (s.chan c).fw.mayActivate = true) (hfree : (s.chan c).free = true)
    (hsafe : (s.chan c).safe = false) (hothers : s.othersHoldGroup c = false) :
    s.fwCommand c 2 = (s.onChan c (fun h => { h with fw := { (s.chan c).fw with trial := 1 } }), 0) :=
  noting_ok (w := fun s => s.activate c) (State.activate_of_free hact hfree hsafe hothers)

theorem State.fwCommand_reboot_of_mayReboot (h : (s.chan c).mayReboot = true) : s.fwCommand c 4 = (s, 0) :=
  noting_ok (w := fun s => (s, if (s.chan c).mayReboot then 0x00 else 0x05)) (by simp [h])

theorem exec_fwVerifyComplete_of_verify {n k : Nat} {f : Firmware} (hf : f = (s.chan c).fw) (hstate : f.state = 1)
    (hup : (s.chan c).up = true) (hcheck : checkSet c.val f.revoked f.securityMin f.staged = (n, k)) :
    exec (.fwVerifyComplete c) s = .next
      (if n = 0 then s.onChan c (fun h => { h with fw := { (f.unverify (1 - f.active)) with state := 2 } })
      else (s.onChan c (fun h => { h with fw := { f with state := 5, result := n, staged := [] } })).raise c 0x00B1 (leBytes 1 n)) := by
  subst hf
  show execFwVerifyComplete c s = _
  by_cases hn : n = 0
  · simp [execFwVerifyComplete, hstate, hup, hcheck, hn, State.setDieFw]
  · simp [execFwVerifyComplete, hstate, hup, hcheck, hn, State.setDieFw, Firmware.refuse]

section Writing
variable {f : Firmware} (hf : f = (s.chan c).fw) (hstate : f.state = 2) (hup : (s.chan c).up = true) (hsafe : (s.chan c).safe = false)
include hf hstate hup hsafe

theorem exec_fwWriteComplete_written : exec (.fwWriteComplete c true) s = .next ((s.onChan c (fun h => { h with
    fw := { (f.setBank (1 - f.active) (verifiedBank f.staged ((setKey c.val f.revoked f.staged).getD 0))) with
      state := 3, staged := [] } })).raise c 0x00B0 (leBytes 1 (1 - f.active) ++ leBytes 4 (setVersion f.staged))) := by
  subst hf
  show execFwWriteComplete c true s = _
  simp [execFwWriteComplete, hstate, hup, hsafe, State.setDieFw]

theorem exec_fwWriteComplete_failed : exec (.fwWriteComplete c false) s = .next (s.onChan c (fun h => { h with
    fw := { ((f.unverify (1 - f.active)).refuse 5) with incoming := [] } })) := by
  subst hf
  show execFwWriteComplete c false s = _
  simp [execFwWriteComplete, hstate, hup, hsafe, State.setDieFw]

end Writing

theorem exec_trialTimeout_of_trial (htrial : (s.chan c).fw.trial = 2) (hup : (s.chan c).up = true) :
    exec (.trialTimeout c) s =
      .next (((s.onChan c (fun h => { h with fw := { h.fw with trial := 3 } })).reboot c).watchDegraded s) := by
  show execTrialTimeout c s = _
  simp [execTrialTimeout, htrial, hup]

end ChannelFirmware

/-- Settles O38: a command by its rule and what follows its answer, the ends of verifying and writing by the firmware's state. -/
theorem channelFirmwareUpdate : Obligations.ChannelFirmwareUpdate := by
  refine ⟨fun p c r s hpass hstage => ?_, fun c n k f s => exec_fwVerifyComplete_of_verify,
    fun c f s hf hstate hup hsafe => ⟨exec_fwWriteComplete_written hf hstate hup hsafe, exec_fwWriteComplete_failed hf hstate hup hsafe⟩,
    fun p c r s hpass hact hfree hsafe hothers => ?_, fun p c r s u hpass hstate hconfirm => ?_,
    fun p c r s hpass hreboot => ?_, fun c s => exec_trialTimeout_of_trial⟩
  · exact congrArg _ (State.writeFwCommand_passes hpass (State.stage_of_mayStage hstage))
  · exact congrArg _ (State.writeFwCommand_passes hpass (State.fwCommand_activate_of_free hact hfree hsafe hothers))
  · exact congrArg _ (State.writeFwCommand_passes hpass hconfirm)
  · exact congrArg _ (State.writeFwCommand_passes hpass (State.fwCommand_reboot_of_mayReboot hreboot))

/-! The port complex's firmware, recovery and key revocation (R445, R502, R503). -/

section PortFirmware
variable {s u : State} {f : Firmware}

theorem State.portImage_of_mayStage {o : Nat} {d : List Byte} (hf : f = s.module.fw) (hstage : f.mayStage = true) :
    s.portImage o d = (s.drawFree.2.setDieFw none { (f.setBank (1 - f.active)
      ⟨writePiece (f.bank (1 - f.active)).image o s.free d, false, (f.bank (1 - f.active)).keySlot⟩) with
        state := if f.state = 3 then 0 else f.state }, 0) := by
  subst hf
  rw [State.portImage, if_neg (by simp [hstage])]
  rfl

theorem State.portStage_of_mayStage {n k : Nat} (hf : f = s.module.fw) (hstage : f.mayStage = true)
    (hcheck : checkSet 4 f.revoked f.securityMin (f.bank (1 - f.active)).image = (n, k)) :
    s.portStage =
      (if n = 0 then (s.setDieFw none { (f.setBank (1 - f.active) (verifiedBank (f.bank (1 - f.active)).image k)) with
          state := 3 }).raisePort 0 0x00B0 (leBytes 1 (1 - f.active) ++ leBytes 4 (setVersion (f.bank (1 - f.active)).image))
        else (s.setDieFw none ((f.unverify (1 - f.active)).refuse n)).raisePort 0 0x00B1 (leBytes 1 n), 0) := by
  subst hf
  by_cases hn : n = 0
  · simp [State.portStage, hstage, hcheck, hn]
  · simp [State.portStage, hstage, hcheck, hn]

theorem State.portActivate_of_mayActivate (h : s.module.fw.mayActivate = true) :
    s.portActivate = (s.setDieFw none { s.module.fw with trial := 1 }, 0) :=
  if_pos h

/-- The first piece erases the bank (R502). -/
theorem State.recoveryPiece_first {c : Chan} {d : List Byte} (hf : f = (s.chan c).fw) (hboot : f.bootState = 2)
    (hdone : recoveryDone d = false) :
    s.recoveryPiece c 0 d =
      (s.onChan c (fun h => { h with fw := { (f.setBank (1 - f.active) ⟨[], false, 0⟩) with incoming := d } }), 0) := by
  subst hf
  simp [State.recoveryPiece, hboot, hdone, State.setDieFw]

theorem State.afterRecovery_of_no_trial {c : Chan} (h : (s.chan c).fw.trial ≠ 1) : s.afterRecovery c = s :=
  if_neg h

theorem State.revokeKeys_of_slotLeft {die : Option Chan} {v n : Nat} (hf : f = s.dieFw die) (hn : n = (f.revoked ||| v % 16))
    (hleft : n ≠ 15) :
    s.revokeKeys die v =
      (([0, 1, 2, 3].filter (fun k => n.testBit k && !f.revoked.testBit k)).foldl (fun s k => s.raiseDie die 0x00C5 (leBytes 1 k))
        (s.setDieFw die { f with revoked := n, bank0 := f.bank0.rekey (dieNumber die) n, bank1 := f.bank1.rekey (dieNumber die) n }),
        0) := by
  subst hf hn
  exact if_neg hleft

theorem exec_fwKeyRevoke_of_passes {p : ReqPath} {c : Option Chan} {v : Byte} {r : OdRow} {index sub : Nat}
    (hplace : match c with
      | some c => index = 0x1110 + c.val ∧ sub = 0x02
      | none => index = 0x1100 ∧ sub = 0x16)
    (hpass : s.passes p index sub 0 (leBytes 1 v.toNat) c r) (hrule : s.revokeKeys c v.toNat = (u, 0)) :
    exec (.fwKeyRevoke p c v) s = .next (s.answered u p index sub 0 (leBytes 1 v.toNat) c r) := by
  cases c with
  | some c =>
    obtain ⟨rfl, rfl⟩ := hplace
    exact congrArg _ (State.writeScalar_passes hpass hrule)
  | none =>
    obtain ⟨rfl, rfl⟩ := hplace
    exact congrArg _ (State.writeScalar_passes hpass hrule)

end PortFirmware

/-- Settles O39: each request by its rule; a recovery piece that does not complete the set is followed by no boot. -/
theorem portFirmwareRecoveryAndKeys : Obligations.PortFirmwareRecoveryAndKeys := by
  refine ⟨fun p o d f r s hpass hf hstage => ?_, fun p n k f r s hpass hf hstage hcheck => ?_, fun p r s hpass hact => ?_,
    fun p r s u hpass hstate hconfirm => ?_, fun p c d f r s hpass hf hboot _ hdone hafter => ?_,
    fun p c v n f r s index sub hplace hpass hf hn hleft => ?_⟩
  · exact congrArg _ (State.writeRequest_passes hpass (State.portImage_of_mayStage hf hstage))
  · exact congrArg _ (State.writeScalar_passes hpass (State.portStage_of_mayStage hf hstage hcheck))
  · exact congrArg _ (State.writeScalar_passes hpass (noting_ok (State.portActivate_of_mayActivate hact)))
  · exact congrArg _ (State.writeScalar_passes hpass hconfirm)
  · exact congrArg _ ((State.writeThen_passes (w := fun s => s.recoveryPiece c 0 d) (after := fun s => s.afterRecovery c) hpass
      (State.recoveryPiece_first hf hboot hdone)).trans (State.afterRecovery_of_no_trial hafter))
  · exact exec_fwKeyRevoke_of_passes hplace hpass (State.revokeKeys_of_slotLeft hf hn hleft)

/-! Attestation, credentials and debug (R507, R514 to R522). -/

section Credentials
variable {s u : State} {c : Chan} {p : ReqPath} {d : List Byte}

/-- A write that covers a stored value replaces it. -/
theorem spliced_of_length {l : List Byte} (h : d.length = l.length) : l.take 0 ++ d ++ l.drop (0 + d.length) = d := by
  simp [h]

theorem State.setNonce_of_whole (hlen : d.length = 32) (hold : (s.chan c).attest.nonce.length = 32)
    (hclosed : (s.chan c).fw.debugState = 0) :
    s.setNonce c 0 d = (s.onChan c (fun h => { h with attest := ⟨d, true, none⟩ }), 0) := by
  rw [State.setNonce, if_neg (not_not.2 hclosed), spliced_of_length (hlen.trans hold.symm)]
  simp [hlen]

theorem State.setSecret_of_whole (hlen : d.length = 32) (hold : s.module.creds.installerSecret.length = 32) :
    s.setSecret 0 d = ({ s with module := { s.module with
      creds := { s.module.creds with installerSecret := d, challenge := none },
      sessions := s.module.sessions.map (fun q => { q with challenge := none }) } }, 0) := by
  rw [State.setSecret, spliced_of_length (hlen.trans hold.symm)]
  rfl

theorem exec_authenticate_of_pathOpen (hopen : s.pathOpen p = true) :
    exec (.authenticate p d) s = .next ((s.authenticate p d).1.reply p (s.authenticate p d).2 0 0 0 []) := by
  show execAuthenticate p d s = _
  simp [execAuthenticate, hopen]

theorem State.authenticate_of_response {ch : List Byte} {role : Nat} (hu : u = s.setChallenge p none) (hrole : role = fieldOf d 0 1)
    (hlen : d.length = 40) (hknown : role = 1 ∨ role = 2) (hlocked : u.module.creds.locked p = false)
    (hchallenge : s.challengeOf p = some ch) (hresponse : d.drop 8 = u.authResponse p role ch) :
    s.authenticate p d = ((((({ u with module := { u.module with creds := u.module.creds.setRefusals p 0 false } } :
      State).setRole p role).auditPath p 2 role).raisePort 0 0x00C3 (leBytes 1 (pathCode p) ++ leBytes 4 (pathSession p) ++
        leBytes 1 role)), 0) := by
  subst hu hrole
  have hroles : (fieldOf d 0 1 == 1 || fieldOf d 0 1 == 2) = true := by simpa using hknown
  simp [State.authenticate, hlen, hlocked, hchallenge, hresponse, hroles]

theorem State.authenticate_of_refused (hu : u = s.setChallenge p none)
    (h : s.challengeOf p = none ∨ u.module.creds.locked p = true ∨ d.length ≠ 40) :
    s.authenticate p d = ((u.refuseAuth p).auditPath p 3 (u.roleOf p), 7) := by
  subst hu
  refine if_neg ?_
  rcases h with h | h | h
  · simp [h]
  · simp [h]
  · simp [h]

theorem State.setDebug_of_free (hcount : (s.chan c).fw.debugCount < 16) (hmay : (s.chan c).mayDebug = true) :
    (s.setDebug p c 1).2 = 0 := by
  simp [State.setDebug, Nat.not_le.2 hcount, hmay]

theorem exec_attestReportSigned_of_signing (hsigning : (s.chan c).attest.signing = true) (hserved : (s.chan c).served = true) :
    exec (.attestReportSigned c) s = .next (s.signReport c) := by
  show execAttestReportSigned c s = _
  simp [execAttestReportSigned, hsigning, hserved]

end Credentials

/-- Settles O40: requests by their rules, AUTHENTICATE by whether the response is the one called for, the rest by their effect. -/
theorem attestationRolesAndDebug : Obligations.AttestationRolesAndDebug := by
  refine ⟨fun p c d r s hpass hlen hold hclosed => ?_, fun c s hsigning hserved => exec_attestReportSigned_of_signing hsigning hserved,
    fun p d r s hpass hlen hold => ?_, fun p s => rfl,
    fun p d ch role s u hopen hu hrole hlen hknown hlocked hchallenge hresponse => ?_, fun p d s u hopen hu h => ?_,
    fun s => ⟨rfl, rfl⟩, fun p s hopen => ?_, fun c s hup => congrArg _ (if_pos hup), fun s hon halive => ?_,
    fun p c r s u hpass hcount hmay hu => ?_⟩
  · exact congrArg _ (State.writeRequest_passes hpass (State.setNonce_of_whole hlen hold hclosed))
  · exact congrArg _ (State.writeRequest_passes hpass (State.setSecret_of_whole hlen hold))
  · rw [exec_authenticate_of_pathOpen hopen,
      State.authenticate_of_response hu hrole hlen hknown hlocked hchallenge hresponse]
  · rw [exec_authenticate_of_pathOpen hopen, State.authenticate_of_refused hu h]
  · exact congrArg _ (if_neg (by simp [hopen]))
  · exact congrArg _ (if_pos (by simp [hon, halive]))
  · have hrule : s.setDebug p c 1 = (u, 0) := Prod.ext hu.symm (State.setDebug_of_free hcount hmay)
    exact congrArg (fun t : State => Host.Outcome.next (t.watchDegraded s)) (State.writeScalar_passes hpass hrule)

/-! Self-tests on demand (R537 to R540). -/

section SelfTests
variable {s u : State} {c : Chan} {v : Nat}

theorem State.startTest_of_native (hmay : s.mayTest c (v % 256) false = true) (hnative : v.testBit 8 = false) :
    s.startTest c v = (((s.saveRegion c (v % 256)).1.setEnt (kFw c 0x34) 2).onChan c (fun h =>
      { h with selfTest := some ⟨v % 256, false, (s.saveRegion c (v % 256)).2⟩ }), 0) := by
  simp only [State.startTest, hnative, hmay, Bool.not_true, Bool.false_eq_true, if_false]

theorem State.startTest_of_refused (hmay : s.mayTest c (v % 256) (v.testBit 8) = false) :
    s.startTest c v = ((s.setEnt (kFw c 0x35) (3 + v % 256 * 256 + (if v.testBit 8 then 65536 else 0))).setEnt (kFw c 0x37)
      (s.chan c).clock.timebase.toNat, 5) := by
  simp only [State.startTest, hmay, Bool.not_false, if_true]
  rfl

section Complete
variable {x : SelfTest} (htest : (s.chan c).selfTest = some x) (hnative : x.compat = false)
  (hu : u = s.drawFree.2.onChan c (fun h => { h with selfTest := none }))
include htest hnative hu

theorem exec_selfTestComplete_passed : exec (.selfTestComplete c none true) s = .next
    (((((((u.setEnt (kFw c 0x34) 0).setEnt (kFw c 0x35) (testCode 0 x.region false)).setEnt (kFw c 0x36) 0).setEnt (kFw c 0x37)
      (s.chan c).clock.timebase.toNat).bump c (kFw c 0x24)).raise c 0x00D2
        (leBytes 1 x.region ++ leBytes 1 0 ++ leBytes 1 0 ++ leBytes 4 0))) := by
  subst hu
  show execSelfTestComplete c none true s = _
  simp [execSelfTestComplete, htest, hnative]

theorem exec_selfTestComplete_failed {n : Nat} : exec (.selfTestComplete c (some n) true) s = .next
    (((((((((u.setEnt (kFw c 0x34) 0).setEnt (kFw c 0x35) (testCode 1 x.region false)).setEnt (kFw c 0x36) n).setEnt (kFw c 0x37)
      (s.chan c).clock.timebase.toNat).bump c (kFw c 0x24)).bump c (kFw c 0x25)).raise c 0x00D2
        (leBytes 1 x.region ++ leBytes 1 0 ++ leBytes 1 1 ++ leBytes 4 n)).enterSafe c 4).watchDegraded s) := by
  subst hu
  show execSelfTestComplete c (some n) true s = _
  simp [execSelfTestComplete, htest, hnative]

end Complete
end SelfTests

/-- Settles O41: a command by whether its test is accepted, an end by its failing unit. -/
theorem selfTestOnDemand : Obligations.SelfTestOnDemand := by
  refine ⟨fun p c v r s hpass => ⟨fun hmay hnative => ?_, fun hmay => ?_⟩,
    fun c x s u htest hnative hu => exec_selfTestComplete_passed htest hnative hu,
    fun c x n s u htest hnative hu => exec_selfTestComplete_failed htest hnative hu⟩
  · exact congrArg _ (State.writeScalar_passes hpass (State.startTest_of_native hmay hnative))
  · exact congrArg _ (State.writeRequest_declined hpass (State.startTest_of_refused hmay) (by decide))

end Sys2Proof.Machine

/-! ### Sessions, engines, weights, programs and the stash -/

namespace Sys2Proof.Machine

/-! Frames of the Miger protocol (R484 to R491). -/

section Frames
variable {s : State} {f : Frame} {q : Session} {ftype : Nat} (hup : s.fieldUp = true)
include hup

/-- A frame that is trusted and later than the last, with SEQUENCE left for one more, is acted on (R485, R511). -/
theorem State.acceptFrame_accepted (htrusted : s.trusted ftype f = some q) (hlater : seqLater f.sequence q.lastSeq = true)
    (hroom : f.sequence.toNat + 1 < 2 ^ 31) (act : State → Session → List Byte → State) :
    s.acceptFrame ftype f act = act (s.hear q f.sequence) q (cipher q.inCipher f.session f.sequence f.body) := by
  have hbelow : ¬ 2 ^ 31 ≤ f.sequence.toNat := by omega
  simp only [State.acceptFrame, hup, htrusted, hlater, hbelow, hroom.ne, Bool.not_true, Bool.false_eq_true, if_false]

theorem State.acceptFrame_untrusted (htrusted : s.trusted ftype f = none) (act : State → Session → List Byte → State) :
    s.acceptFrame ftype f act = s.discard := by
  simp only [State.acceptFrame, hup, htrusted, Bool.not_true, Bool.false_eq_true, if_false]

theorem exec_request_of_new (htrusted : s.trusted 0x10 f = some q) (hnew : q.repeats f = false)
    (hlater : seqLater f.sequence q.lastSeq = true) (hroom : f.sequence.toNat + 1 < 2 ^ 31) :
    exec (.request f) s = .next ((s.hear q f.sequence).serveRequest (.session q.id)
      (cipher q.inCipher f.session f.sequence f.body)) := by
  show execRequest f s = _
  rw [execRequest, hup, htrusted]
  simp only [hnew]
  exact congrArg _ (State.acceptFrame_accepted hup htrusted hlater hroom _)

theorem exec_request_of_repeated {body : List Byte} (htrusted : s.trusted 0x10 f = some q)
    (hlast : q.lastRequest = some (f.sequence, body)) :
    exec (.request f) s = .next (((s.setSession { q with
      heard := s.module.clock.timebase }).bumpPort (odKey 0x1010 0x20)).sessionFrame q.id 0x11 body) := by
  have hrepeats : q.repeats f = true := by simp [Session.repeats, hlast]
  show execRequest f s = _
  simp only [execRequest, hup, htrusted, hrepeats, hlast]

omit hup in
theorem State.id_of_session {n : Nat} (h : s.session n = some q) : q.id = n := by
  simpa using List.find?_some h

theorem exec_notifyAck_of_outstanding {k : Session} {seq : Word} {body : List Byte} {m : Nat}
    (htrusted : s.trusted 0x13 f = some q) (hlater : seqLater f.sequence q.lastSeq = true)
    (hroom : f.sequence.toNat + 1 < 2 ^ 31) (hsession : (s.hear q f.sequence).session q.id = some k)
    (hout : k.outstanding = some (seq, body, m))
    (hnamed : fieldOf (cipher q.inCipher f.session f.sequence f.body) 0 4 = seq.toNat) :
    exec (.notifyAck f) s = .next (((s.hear q f.sequence).setSession { k with outstanding := none }).notify q.id) := by
  refine congrArg Host.Outcome.next ((State.acceptFrame_accepted hup htrusted hlater hroom _).trans ?_)
  simp only [hsession, Option.bind_some, hout, hnamed, if_true, State.id_of_session hsession]

end Frames

section SessionSetup
variable {s u : State} {n : Nat} {v : Byte} {b0 b1 : List Byte} (hup : s.fieldUp = true) (hspeaks : s.speaks v = true)
  (hu : u = s.bumpPort (odKey 0x1010 0x20))
include hup hspeaks hu

/-- The first part of a SESSION_INIT waits for its pair. -/
theorem exec_sessionInit_first (hnone : u.module.initParts = []) :
    exec (.sessionInit n v 0x10#8 b0) s = .next { u with module := { u.module with initParts := [⟨n, 0, b0⟩] } } := by
  subst hu
  show execSessionInit n v 0x10#8 b0 s = _
  simp [execSessionInit, hup, hspeaks, hnone]

/-- The second part opens a session while fewer than eight are open (R487). -/
theorem exec_sessionInit_second (hlen : b0.length + b1.length = 1600) (hfirst : u.module.initParts = [⟨n, 0, b0⟩])
    (hfew : u.module.sessions.length < 8) :
    exec (.sessionInit n v 0x11#8 b1) s =
      .next (({ u with module := { u.module with initParts := [] } }).openSession (b0 ++ b1)) := by
  subst hu
  show execSessionInit n v 0x11#8 b1 s = _
  simp [execSessionInit, hup, hspeaks, hfirst, State.bothParts, hlen, Nat.not_le.2 hfew]

end SessionSetup

theorem exec_notifyResend_of_few {s : State} {q : Session} {n m : Nat} {seq : Word} {body : List Byte}
    (hsession : s.session n = some q) (hout : q.outstanding = some (seq, body, m)) (hfew : m < 5) :
    exec (.notifyResend n) s =
      .next ((s.setSession { q with outstanding := some (seq, body, m + 1) }).resendNotify q seq body) := by
  show execNotifyResend n s = _
  simp only [execNotifyResend, hsession, hout, hfew, if_true]

theorem exec_migerFrameDiscarded_of_fieldUp {s : State} (n : Nat) (hup : s.fieldUp = true) (why : FrameFault) :
    exec (.migerFrameDiscarded n why) s = .next (match why with
      | .foreign => s
      | .badVersion true => s.discard.refuseSession 2
      | .badLength true => s.discard.refuseSession 3
      | _ => s.discard) :=
  congrArg _ (if_neg (by simp [hup]))

/-- Settles O42: setup by the parts that wait, frames by their acceptance, timeouts by their session. -/
theorem migerSessions : Obligations.MigerSessions := by
  refine ⟨fun n s hup => congrArg _ (if_pos hup), fun n v b0 b1 s u hup hspeaks hlen hu =>
      ⟨exec_sessionInit_first hup hspeaks hu, exec_sessionInit_second hup hspeaks hu hlen⟩,
    fun s => rfl, fun f q s hup hlater hroom => ⟨fun htrusted hnew => ?_, fun htrusted => ?_, fun htrusted => ?_,
      fun k seq body m htrusted => ?_⟩,
    fun f q body s hup => exec_request_of_repeated hup, fun f s hup htrusted => ?_, fun n m q seq body s => exec_notifyResend_of_few,
    fun n s => rfl, fun n s hup => ⟨?_, ?_, ?_, ?_⟩⟩
  · exact exec_request_of_new hup htrusted hnew hlater hroom
  · exact congrArg _ (State.acceptFrame_accepted hup htrusted hlater hroom _)
  · exact congrArg _ (State.acceptFrame_accepted hup htrusted hlater hroom _)
  · exact exec_notifyAck_of_outstanding hup htrusted hlater hroom
  · exact congrArg _ (State.acceptFrame_untrusted hup htrusted _)
  · exact exec_migerFrameDiscarded_of_fieldUp n hup _
  · exact exec_migerFrameDiscarded_of_fieldUp n hup _
  · exact exec_migerFrameDiscarded_of_fieldUp n hup _
  · exact exec_migerFrameDiscarded_of_fieldUp n hup _

/-! The four digital engines (R200, R209 to R225): a descriptor that is loaded now, or that is held as it was loaded. -/

section Engines
variable {s : State} {c : Chan} {n : Nat} {j : Job} {r : Refused}

theorem exec_productDescriptor_of_bad (hready : s.ready c n 0x20 = some j) (hfresh : ∀ y, j.phase ≠ .held y)
    (hload : (s.chan c).loadProduct (s.loadEnv c j) j = .error r) :
    exec (.productDescriptor c n) s = .next (s.refuseJob c j r) := by
  refine congrArg Host.Outcome.next ((State.withJob_ready hready _).trans ?_)
  unfold State.beginProduct
  split
  · next hphase => exact absurd hphase (hfresh _)
  · next hphase => exact absurd hphase (hfresh _)
  · rw [hload]

theorem exec_productDescriptor_of_takesUp {e : ProductExec} (hready : s.ready c n 0x20 = some j)
    (htakes : j.takesUp (.product e) ((s.chan c).loadProduct (s.loadEnv c j) j = .ok e)) :
    exec (.productDescriptor c n) s = .next (s.startHeld c j (.product e) (fun s =>
      s.onChan c (fun h => h.setJob { j with phase := .product e }))) := by
  refine congrArg Host.Outcome.next ((State.withJob_ready hready _).trans ?_)
  obtain hheld | ⟨hfresh, hload⟩ := htakes
  · simp only [State.beginProduct, hheld]
  · unfold State.beginProduct
    split
    · next hphase => exact absurd hphase (hfresh _)
    · next hphase => exact absurd hphase (hfresh _)
    · rw [hload]

theorem exec_transposeDescriptor_of_bad (hready : s.ready c n 0x32 = some j) (hfresh : ∀ y, j.phase ≠ .held y)
    (hload : (s.chan c).loadTranspose (s.loadEnv c j) j = .error r) :
    exec (.transposeDescriptor c n) s = .next (s.refuseJob c j r) := by
  refine congrArg Host.Outcome.next ((State.withJob_ready hready _).trans ?_)
  dsimp only
  split
  · next hphase => exact absurd hphase (hfresh _)
  · next hphase => exact absurd hphase (hfresh _)
  · rw [hload]

theorem exec_transposeDescriptor_of_takesUp {src dst : TensorDesc} (hready : s.ready c n 0x32 = some j)
    (htakes : j.takesUp (.transpose src dst) ((s.chan c).loadTranspose (s.loadEnv c j) j = .ok (src, dst))) :
    exec (.transposeDescriptor c n) s =
      .next (s.startHeld c j (.transpose src dst) (fun s => s.transposeStarted c j src dst)) := by
  refine congrArg Host.Outcome.next ((State.withJob_ready hready _).trans ?_)
  obtain hheld | ⟨hfresh, hload⟩ := htakes
  · simp only [hheld]
  · dsimp only
    split
    · next hphase => exact absurd hphase (hfresh _)
    · next hphase => exact absurd hphase (hfresh _)
    · rw [hload]

theorem exec_rowDescriptor_of_bad (hready : s.ready c n 0x30 = some j) (hfresh : ∀ y, j.phase ≠ .held y)
    (hload : (s.chan c).loadRow (s.loadEnv c j) j = .error r) :
    exec (.rowDescriptor c n) s = .next (s.refuseJob c j r) := by
  refine congrArg Host.Outcome.next ((State.withJob_ready hready _).trans ?_)
  dsimp only
  split
  · next hphase => exact absurd hphase (hfresh _)
  · next hphase => exact absurd hphase (hfresh _)
  · rw [hload]

theorem exec_rowDescriptor_of_takesUp {e : RowExec} (hready : s.ready c n 0x30 = some j)
    (htakes : j.takesUp (.row e) ((s.chan c).loadRow (s.loadEnv c j) j = .ok e)) :
    exec (.rowDescriptor c n) s = .next (s.startHeld c j (.row e) (fun s => s.rowStarted c j e)) := by
  refine congrArg Host.Outcome.next ((State.withJob_ready hready _).trans ?_)
  obtain hheld | ⟨hfresh, hload⟩ := htakes
  · simp only [hheld]
  · dsimp only
    split
    · next hphase => exact absurd hphase (hfresh _)
    · next hphase => exact absurd hphase (hfresh _)
    · rw [hload]

theorem exec_rasterDescriptor_of_bad (hready : s.ready c n 0x60 = some j) (hfresh : ∀ y, j.phase ≠ .held y)
    (hload : (s.chan c).loadRaster (s.loadEnv c j) j = .error r) :
    exec (.rasterDescriptor c n) s = .next (s.refuseJob c j r) := by
  refine congrArg Host.Outcome.next ((State.withJob_ready hready _).trans ?_)
  dsimp only
  split
  · next hphase => exact absurd hphase (hfresh _)
  · next hphase => exact absurd hphase (hfresh _)
  · rw [hload]

theorem exec_rasterDescriptor_of_takesUp {e : RasterExec} (hready : s.ready c n 0x60 = some j)
    (htakes : j.takesUp (.raster e) ((s.chan c).loadRaster (s.loadEnv c j) j = .ok e)) :
    exec (.rasterDescriptor c n) s = .next (s.startHeld c j (.raster e) (fun s => s.rasterStarted c j e)) := by
  refine congrArg Host.Outcome.next ((State.withJob_ready hready _).trans ?_)
  obtain hheld | ⟨hfresh, hload⟩ := htakes
  · simp only [hheld]
  · dsimp only
    split
    · next hphase => exact absurd hphase (hfresh _)
    · next hphase => exact absurd hphase (hfresh _)
    · rw [hload]

theorem exec_engineTileComplete_of_product {tile : Nat} {e : ProductExec} (hjob : (s.chan c).job n = some j)
    (hphase : j.phase = .product e) (hissues : (s.chan c).issues = true) :
    exec (.engineTileComplete c n tile) s =
      .next (if tile < e.tileCount ∧ tile ∉ e.done then s.endTile c j e tile else s) := by
  show execEngineTileComplete c n tile s = _
  simp [execEngineTileComplete, hjob, hphase, hissues]

theorem State.heldWait_of_banks_bad {x : Held} (h : (s.chan c).banksCheck j x.tensors = .error r) : s.heldWait c j x = .error r := by
  simp only [State.heldWait, h]

theorem State.heldWait_of_banks_waiting {x : Held} (h : (s.chan c).banksCheck j x.tensors = .ok true) :
    s.heldWait c j x = .ok (some (0, kEng c 0x08)) := by
  simp only [State.heldWait, h]

/-- Only an array descriptor waits for anything besides its banks. -/
theorem State.heldWait_of_banks_ready {x : Held} (hx : ∀ e, x ≠ .array e) (h : (s.chan c).banksCheck j x.tensors = .ok false) :
    s.heldWait c j x = .ok none := by
  cases x with
  | array e => exact absurd rfl (hx e)
  | _ => simp only [State.heldWait, h]

end Engines

/-- Settles O43: each descriptor by whether it loads, or is held; the start of a held one is said once for all of them. -/
theorem engineDescriptors : Obligations.EngineDescriptors := by
  refine ⟨fun c n j s hready => ⟨fun r => exec_productDescriptor_of_bad hready, fun e htakes =>
      ⟨_, exec_productDescriptor_of_takesUp hready htakes, State.startHeld_startsAs _ _ _ _ _⟩⟩,
    fun c n tile j e s hjob hphase hissues => ⟨fun hlt hnew => ?_, fun h => ?_⟩,
    fun c n j s hready => ⟨fun r => exec_transposeDescriptor_of_bad hready, fun src dst htakes =>
      ⟨_, exec_transposeDescriptor_of_takesUp hready htakes, State.startHeld_startsAs _ _ _ _ _⟩⟩,
    fun c n j s hready => ⟨fun r => exec_rowDescriptor_of_bad hready, fun e htakes =>
      ⟨_, exec_rowDescriptor_of_takesUp hready htakes, State.startHeld_startsAs _ _ _ _ _⟩⟩,
    fun c n j s hready => ⟨fun r => exec_rasterDescriptor_of_bad hready, fun e htakes =>
      ⟨_, exec_rasterDescriptor_of_takesUp hready htakes, State.startHeld_startsAs _ _ _ _ _⟩⟩,
    fun c j x s hx => ⟨fun r => State.heldWait_of_banks_bad, State.heldWait_of_banks_waiting, State.heldWait_of_banks_ready hx⟩,
    fun c j src dst e r s u => ⟨?_, ?_, ?_⟩⟩
  · rw [exec_engineTileComplete_of_product hjob hphase hissues, if_pos ⟨hlt, hnew⟩]
  · rw [exec_engineTileComplete_of_product hjob hphase hissues,
      if_neg (fun hboth => h.elim (Nat.not_le.2 hboth.1) hboth.2)]
  · rintro rfl; rfl
  · rintro rfl; rfl
  · rintro rfl; rfl

/-! Weights and their versions (R230 to R233, R236). -/

section Weights
variable {s u : State} {c : Chan} {n : Nat} {j : Job}

theorem exec_weightDescriptor_of_bad {r : Refused} (hready : s.ready c n 0x73 = some j)
    (hkeeps : (s.chan c).releases j.addr = false) (hload : (s.chan c).loadWeight (s.loadEnv c j) j = .error r) :
    exec (.weightDescriptor c n) s = .next (s.refuseJob c j r) := by
  refine congrArg Host.Outcome.next ((State.withJob_ready hready _).trans ?_)
  simp only [hkeeps, hload, Bool.false_eq_true, if_false]

theorem exec_weightDescriptor_of_loaded {w : Weight} {tag : Half} (hready : s.ready c n 0x73 = some j)
    (hkeeps : (s.chan c).releases j.addr = false) (hload : (s.chan c).loadWeight (s.loadEnv c j) j = .ok w)
    (htag : tag = BitVec.ofNat 16 ((s.chan c).nat (j.addr + 8) 2))
    (hu : u = s.onChan c (fun h => { h.clearBuffer w.grad with training := { h.training with
      weights := h.training.weights ++ [w.setHeld (tag.toNat % 2) (some tag)] } })) :
    exec (.weightDescriptor c n) s = .next (if (u.chan c).live (tag - 2) then
      (u.onChan c (fun h => h.setJob { j with phase := .building w.id })).onTraining c
          (fun t => { t with builds := t.builds ++ [(tag, [w.id])] })
      else (u.buildWeight c w.id tag).finishJob c j 0 0) := by
  subst hu htag
  refine congrArg Host.Outcome.next ((State.withJob_ready hready _).trans ?_)
  simp only [hkeeps, hload, Bool.false_eq_true, if_false]
  rfl

theorem exec_weightRelease_of_unused {id : Nat} (hready : s.ready c n 0x73 = some j)
    (hreleases : (s.chan c).releases j.addr = true) (hty : (s.chan c).nat j.addr 2 = 0x73)
    (hprog : (s.chan c).training.program = none) (hid : id = (s.chan c).nat (j.addr + 4) 2) (hlt : id < 4096) :
    exec (.weightRelease c n) s = .next ((s.onTraining c (fun t => { t with
      weights := t.weights.filter (fun w => w.id != id) })).finishJob c j 0 0) := by
  subst hid
  refine congrArg Host.Outcome.next ((State.withJob_ready hready _).trans ?_)
  simp [hreleases, hty, hprog, Nat.not_le.2 hlt]

theorem exec_versionBuild_of_front {v : Half} {left : List Nat} {rest : List (Half × List Nat)}
    (hbuilds : (s.chan c).training.builds = (v, left) :: rest) (hissues : (s.chan c).issues = true) :
    exec (.versionBuild c) s = .next (if (s.chan c).live (v - 2) then s else
      ((((((s.chan c).training.ids.filter (fun i => left.contains i)).foldl (fun s i => s.buildWeight c i v) s).onTraining c
        (fun t => { t with builds := rest })).endBuilds c left).recheckBanks c)) := by
  show execVersionBuild c s = _
  simp only [execVersionBuild, hbuilds, hissues, Bool.not_true, Bool.or_false]

end Weights

/-! Programs (R236 to R241, R250, R366). -/

section Programs
variable {s u : State} {c : Chan} {n : Nat} {j : Job} {p : Program}

theorem exec_programLoad_of_free (hready : s.ready c n 0x70 = some j) (hprog : (s.chan c).training.program = none)
    (hfirst : (s.chan c).safety.refreshFirst = []) :
    exec (.programLoad c n) s = .next (match s.checkProgram c j with
      | .error f => s.refuseProgram c j f
      | .ok p => s.installProgram c j p) := by
  refine congrArg Host.Outcome.next ((State.withJob_ready hready _).trans ?_)
  simp only [hprog, hfirst, Option.isSome_none, List.isEmpty_nil, Bool.not_true, Bool.or_self, Bool.false_eq_true, if_false] <;> rfl

theorem exec_programLoad_of_busy (hready : s.ready c n 0x70 = some j)
    (hbusy : (s.chan c).training.program ≠ none ∨ (s.chan c).safety.refreshFirst ≠ []) :
    exec (.programLoad c n) s = .next (s.onChan c (fun h => h.setJob { j with phase := .waiting })) := by
  have hcond : ((s.chan c).training.program.isSome || !(s.chan c).safety.refreshFirst.isEmpty) = true := by
    simpa [Option.isSome_iff_ne_none] using hbusy
  exact congrArg Host.Outcome.next ((State.withJob_ready hready _).trans (if_pos hcond))

/-- Every live tag of a channel is the loaded program's own (log entry 133). -/
theorem Channel.eq_of_mem_liveTags {h : Channel} (hprog : h.training.program = some p) {t : Half} (ht : t ∈ h.liveTags) : t = p.tag := by
  simp only [Channel.liveTags, hprog, List.mem_map] at ht
  obtain ⟨_, _, rfl⟩ := ht
  rfl

theorem Channel.versionStalled_eq_false {h : Channel} (hprog : h.training.program = some p) (mb : Nat) :
    h.versionStalled p mb = false := by
  have hnone : h.liveTags.any (fun t => t != p.tag && t != p.tag - 1) = false := by
    rw [List.any_eq_false]
    intro t ht
    simp [Channel.eq_of_mem_liveTags hprog ht]
  rw [Channel.versionStalled, hnone, Bool.and_false]

/-- An entry that may start is not abandoned and not loaded (R240). -/
theorem Program.mayStart_iff_idle {i : Nat} (h : p.mayStart i = true) :
    p.abandoned = none ∧ p.states.getD i .done = .idle := by
  unfold Program.mayStart at h
  split at h
  · cases h
  · simp only [Bool.and_eq_true, beq_iff_eq] at h
    obtain ⟨⟨⟨habandoned, hidle⟩, _⟩, _⟩ := h
    exact ⟨Option.isNone_iff_eq_none.1 habandoned, hidle⟩

section Entry
variable {i : Fin 15} {e : SlotEntry} (hprog : (s.chan c).training.program = some p)
  (hentry : (p.slots.getD p.slot [])[i.val]? = some e) (hruns : (s.chan c).runs = true)
include hprog hentry hruns

theorem exec_programEntryStart_of_mayStart (hstart : p.mayStart i.val = true) :
    exec (.programEntryStart c i) s = .next
      (if (decide (e.weight ≠ 0xFFFF) && (s.chan c).bufferBusy e.weight) = true then
        if p.gradWaited.contains i.val then s
        else (s.onTraining c (fun t => { t with
          program := some { p with gradWaited := i.val :: p.gradWaited } })).bump c (kEng c 0x09)
      else s.loadEntry c p i.val e) := by
  obtain ⟨habandoned, hidle⟩ := Program.mayStart_iff_idle hstart
  have hstate : ¬ p.states.getD i.val .done = .loaded := by rw [hidle]; decide
  show execProgramEntryStart c i s = _
  unfold execProgramEntryStart
  simp only [hprog, hentry, hruns, habandoned, hstart, hstate, Channel.versionStalled_eq_false hprog, Option.isSome_none,
    Bool.not_true, Bool.or_self, Bool.false_eq_true, if_false]

theorem exec_programEntryStart_of_loaded {x : Held} (habandoned : p.abandoned = none)
    (hloaded : p.states.getD i.val .done = .loaded) (hjob : (s.chan c).entryJob p i.val = some j) (hphase : j.phase = .held x) :
    exec (.programEntryStart c i) s = .next (s.takeEntry c j x) := by
  show execProgramEntryStart c i s = _
  unfold execProgramEntryStart
  simp only [hprog, hentry, hruns, habandoned, hloaded, hjob, hphase, Option.isSome_none, Bool.not_true, Bool.or_self,
    Bool.false_eq_true, if_false, if_true]

end Entry

theorem exec_descriptorComplete_of_ended {r0 r1 : Nat} (hjob : (s.chan c).job n = some j) (hphase : j.phase = .ended r0 r1) :
    exec (.descriptorComplete c n) s = .next (s.completeJob c j r0 r1) := by
  show execDescriptorComplete c n s = _
  simp only [execDescriptorComplete, hjob, hphase]

section EndProgram
variable {r0 r1 x sq id flags : Nat} (howner : j.owner = .sub x sq id flags) (hjob : (u.chan c).job p.job = some j)
include howner hjob

theorem State.endProgram_completed
    (hu : u = (((s.onTraining c (fun t => { t with program := none })).markProgramDone c p.step).releaseKeys c)) :
    s.endProgram c p 0 r0 r1 = (u.onChan c (fun h => h.dropJob j.id)).endSubmission c x sq id flags 0 r0 r1 := by
  subst hu
  simp only [State.endProgram, if_true, hjob, howner]

theorem State.endProgram_failed {status : Nat} (hstatus : status ≠ 0)
    (hu : u = (((s.onTraining c (fun t => { t with program := none, silence := t.silence.filter (fun q => q.step != p.step) })).bump c
        (kEng c 0x0E)).releaseKeys c)) :
    s.endProgram c p status r0 r1 = (u.onChan c (fun h => h.dropJob j.id)).endSubmission c x sq id flags status r0 r1 := by
  subst hu
  simp only [State.endProgram, hstatus, if_false, hjob, howner]

end EndProgram
end Programs

/-- Settles O45: descriptors by what they load, builds by the tag two before, entries by their state, the end of a program by its
status. -/
theorem weightsAndPrograms : Obligations.WeightsAndPrograms := by
  refine ⟨fun c n j s hready hkeeps => ⟨fun r => exec_weightDescriptor_of_bad hready hkeeps, fun w tag u hload htag hu => ⟨?_, ?_⟩⟩,
    fun c n id j s => exec_weightRelease_of_unused, fun c v left rest s hbuilds hissues => ⟨?_, ?_⟩,
    fun c n j s hready => ⟨fun hprog hfirst => ⟨fun f hf => ?_, fun p hp => ?_⟩, exec_programLoad_of_busy hready⟩,
    fun c i p e s hprog hentry hruns hstart =>
      ⟨Channel.versionStalled_eq_false hprog _, fun hfree => ?_, fun hweight hbusy hnew => ?_⟩,
    fun c i p e j x s hprog hentry hruns => exec_programEntryStart_of_loaded hprog hentry hruns, fun c n r0 r1 j s => exec_descriptorComplete_of_ended,
    fun c p r0 r1 x sq id flags j s u howner => ⟨fun hu hjob => State.endProgram_completed howner hjob hu,
      fun status hstatus hu hjob => State.endProgram_failed howner hjob hstatus hu⟩⟩
  · intro hdead
    rw [exec_weightDescriptor_of_loaded hready hkeeps hload htag hu, if_neg (ne_true_of_eq_false hdead)]
  · intro hlive
    rw [exec_weightDescriptor_of_loaded hready hkeeps hload htag hu, if_pos hlive]
  · intro hdead
    rw [exec_versionBuild_of_front hbuilds hissues, if_neg (ne_true_of_eq_false hdead)]
  · intro hlive
    rw [exec_versionBuild_of_front hbuilds hissues, if_pos hlive]
  · rw [exec_programLoad_of_free hready hprog hfirst, hf]
  · rw [exec_programLoad_of_free hready hprog hfirst, hp]
  · have hcond : ¬ (decide (e.weight ≠ 0xFFFF) && (s.chan c).bufferBusy e.weight) = true := by
      rcases hfree with h | h <;> simp [h]
    rw [exec_programEntryStart_of_mayStart hprog hentry hruns hstart, if_neg hcond]
  · rw [exec_programEntryStart_of_mayStart hprog hentry hruns hstart, if_pos (by simp [hweight, hbusy]),
      if_neg (by simpa using hnew)]

/-! The stash (R251 to R254, R221). -/

section Stash
variable {s u : State} {c : Chan} {n key : Nat} {j : Job} {r : Refused} {t : TensorDesc} {free : Bool}

theorem exec_stashOut_of_bad (hready : s.ready c n 0x38 = some j) (hfresh : ∀ y, j.phase ≠ .held y)
    (hout : (s.chan c).isIn j.addr = false) (hload : (s.chan c).loadOut (s.loadEnv c j) j = .error r) :
    exec (.stashOut c n) s = .next (s.refuseJob c j r) := by
  refine congrArg Host.Outcome.next ((State.withJob_ready hready _).trans ?_)
  dsimp only
  split
  · next hphase => exact absurd hphase (hfresh _)
  · next hphase => exact absurd hphase (hfresh _)
  · simp only [hout, hload, Bool.false_eq_true, if_false]

/-- An OUT of a KEY that is held, or that was dropped, fails its load (R252). -/
theorem Channel.loadOut_of_key_held {h : Channel} {env : LoadEnv} {dir : Nat} (hstash : h.loadStash env j = .ok (t, key, dir, free))
    (hkey : h.training.key key ≠ none) : h.loadOut env j = .error ⟨0x38, j.addr, 4, 0⟩ := by
  simp [Channel.loadOut, hstash, Option.isSome_iff_ne_none, hkey]

theorem Channel.loadIn_of_key_unknown {h : Channel} {env : LoadEnv} {dir : Nat} (hstash : h.loadStash env j = .ok (t, key, dir, free))
    (hkey : h.training.key key = none) : h.loadIn env j = .error ⟨0x38, j.addr, 4, 0⟩ := by
  simp [Channel.loadIn, hstash, hkey]

theorem State.takeOut_of_banks_bad (h : (s.chan c).banksCheck j [t] = .error r) : s.takeOut c j t key = s.refuseJob c j r := by
  simp [State.takeOut, h]

theorem State.takeOut_of_banks_waiting (h : (s.chan c).banksCheck j [t] = .ok true) :
    s.takeOut c j t key = s.holdJob c j (.stashOut t key) 0 (kEng c 0x08) := by
  simp [State.takeOut, h]

theorem State.takeOut_of_run {g : Nat} (h : (s.chan c).banksCheck j [t] = .ok false)
    (hrun : (s.chan c).training.freeRun (s.stashGranules c) t.granules = some g) :
    s.takeOut c j t key = (s.markStarted c j).stashCopy c j t key g := by
  simp [State.takeOut, h, hrun]

theorem exec_stashIn_of_bad (hready : s.ready c n 0x38 = some j) (hfresh : ∀ y, j.phase ≠ .held y)
    (hin : (s.chan c).isIn j.addr = true) (hload : (s.chan c).loadIn (s.loadEnv c j) j = .error r) :
    exec (.stashIn c n) s = .next (s.refuseJob c j r) := by
  refine congrArg Host.Outcome.next ((State.withJob_ready hready _).trans ?_)
  dsimp only
  split
  · next hphase => exact absurd hphase (hfresh _)
  · next hphase => exact absurd hphase (hfresh _)
  · simp only [hin, hload, Bool.not_true, Bool.false_eq_true, if_false]

theorem exec_stashIn_of_takesUp (hready : s.ready c n 0x38 = some j)
    (htakes : j.takesUp (.stashIn t key free)
      ((s.chan c).isIn j.addr = true ∧ (s.chan c).loadIn (s.loadEnv c j) j = .ok (t, key, free))) :
    exec (.stashIn c n) s = .next (s.startHeld c j (.stashIn t key free) (fun s => s.stashBack c j t key free)) := by
  refine congrArg Host.Outcome.next ((State.withJob_ready hready _).trans ?_)
  obtain hheld | ⟨hfresh, hin, hload⟩ := htakes
  · simp only [hheld]
  · dsimp only
    split
    · next hphase => exact absurd hphase (hfresh _)
    · next hphase => exact absurd hphase (hfresh _)
    · simp only [hin, hload, Bool.not_true, Bool.false_eq_true, if_false]

/-- The stalled OUT of a job for which a run is free, with that run (R253). -/
def State.resumable (s : State) (c : Chan) (j : Job) : Option (Job × Nat × Nat × TensorDesc) :=
  match j.phase with
  | .stalled key n t => ((s.chan c).training.freeRun (s.stashGranules c) n).map (fun g => (j, key, g, t))
  | _ => none

theorem State.resumable_of_stalled {k : Nat} (hphase : j.phase = .stalled key k t) :
    s.resumable c j = ((s.chan c).training.freeRun (s.stashGranules c) k).map (fun g => (j, key, g, t)) := by
  simp only [State.resumable, hphase]

theorem State.resumable_eq_none
    (h : ∀ key k t, j.phase = .stalled key k t → (s.chan c).training.freeRun (s.stashGranules c) k = none) :
    s.resumable c j = none := by
  unfold State.resumable
  split
  · next key k t hphase => rw [h key k t hphase]; rfl
  · rfl

theorem exec_stashOutResume_of_runs (hruns : (s.chan c).runs = true) :
    exec (.stashOutResume c) s = .next (match (s.chan c).jobs.findSome? (s.resumable c) with
      | some (j, key, g, t) => (s.markStarted c j).stashCopy c j t key g
      | none => s) := by
  show execStashOutResume c s = _
  rw [execStashOutResume]
  simp only [hruns, Bool.not_true, Bool.false_eq_true, if_false]
  rfl

theorem State.findSome_resumable_first {pre rest : List Job}
    (hpre : ∀ i ∈ pre, ∀ key k t, i.phase = .stalled key k t → (s.chan c).training.freeRun (s.stashGranules c) k = none) :
    (pre ++ j :: rest).findSome? (s.resumable c) = (j :: rest).findSome? (s.resumable c) := by
  have hnone : pre.findSome? (s.resumable c) = none :=
    List.findSome?_eq_none_iff.2 (fun i hi => State.resumable_eq_none (hpre i hi))
  rw [List.findSome?_append, hnone, Option.none_or]

theorem State.stashBack_dropped {k : Stashed} (hkey : (s.chan c).training.key key = some k) (hdropped : k.dropped = true) :
    s.stashBack c j t key free = s.onChan c (fun h => h.setJob { j with
      phase := .recomputing (h.recomputeList k.tensor.recompute) key free }) := by
  simp only [State.stashBack, hkey, hdropped, if_true]

theorem State.stashBack_held {k : Stashed} (hkey : (s.chan c).training.key key = some k) (hheld : k.dropped = false)
    (hlayout : k.tensor.layout = t.layout)
    (hu : u = (s.countNearest c j [t]).onChan c (fun h =>
        if free then { h.unpackRows t (s.ent (kEng c 0x40) + 65536 * k.first) with
            training := { (h.unpackRows t (s.ent (kEng c 0x40) + 65536 * k.first)).training with
              stash := (h.unpackRows t (s.ent (kEng c 0x40) + 65536 * k.first)).training.stash.filter (fun q => q.key != key) } }
        else h.unpackRows t (s.ent (kEng c 0x40) + 65536 * k.first))) :
    s.stashBack c j t key free = ((u.countSilence c j t ((u.chan c).copiedBlocks t)).perfAdd c 73 (t.storedRows * t.padded)).finishJob
      c j 0 0 := by
  subst hu
  simp only [State.stashBack, hkey, hheld, hlayout, Bool.false_eq_true, if_false, if_true]

theorem exec_recomputeDescriptor_of_next {a : Nat} {left : List Nat} (hjob : (s.chan c).job n = some j)
    (hphase : j.phase = .recomputing (a :: left) key free) (hidle : ∀ i ∈ (s.chan c).jobs, i.owner ≠ .recompute j.id)
    (hissues : (s.chan c).issues = true) :
    exec (.recomputeDescriptor c n) s = .next (s.onChan c (fun h =>
      (h.setJob { j with phase := .recomputing left key free }).addJob (.recompute j.id) a (h.nat a 2))) := by
  have hnone : (s.chan c).jobs.any (fun i => i.owner == .recompute j.id) = false := by
    rw [List.any_eq_false]
    intro i hi
    simpa using hidle i hi
  show execRecomputeDescriptor c n s = _
  simp only [execRecomputeDescriptor, hjob, hphase, hnone, hissues, Bool.not_true, Bool.or_self, Bool.false_eq_true, if_false]

end Stash

/-- Settles O47: an OUT by its load, its bank and its run, the resumed one by the first job with a run, an IN by its KEY. -/
theorem stashMoves : Obligations.StashMoves := by
  refine ⟨fun c n j s hready hfresh hout => ⟨fun r => exec_stashOut_of_bad hready hfresh hout, fun t key dir free hstash hkey => ?_⟩,
    fun c n key j t s hready htakes => ⟨fun r hbanks => ?_, fun hbanks => ?_, fun hbanks => ⟨fun g hrun => ?_, fun hrun => ?_⟩⟩,
    fun c s hruns => ⟨fun j key g k t pre rest hjobs hpre hphase hrun => ?_, fun hnone => ?_⟩,
    fun c n j s hready => ⟨fun hfresh hin => ⟨fun r => exec_stashIn_of_bad hready hfresh hin, fun t key dir free hstash hkey => ?_⟩,
      fun t key free htakes => ⟨_, exec_stashIn_of_takesUp hready htakes, State.startHeld_startsAs _ _ _ _ _⟩⟩,
    fun c j t key free k s u hkey => ⟨State.stashBack_dropped hkey, State.stashBack_held hkey⟩,
    fun c n key a left free j s => exec_recomputeDescriptor_of_next⟩
  · exact exec_stashOut_of_bad hready hfresh hout (Channel.loadOut_of_key_held hstash hkey)
  · rw [exec_stashOut_of_takesUp hready htakes, State.takeOut_of_banks_bad hbanks]
  · rw [exec_stashOut_of_takesUp hready htakes, State.takeOut_of_banks_waiting hbanks]
  · rw [exec_stashOut_of_takesUp hready htakes, State.takeOut_of_run hbanks hrun]
  · rw [exec_stashOut_of_takesUp hready htakes, State.takeOut_of_noRun hbanks hrun]
  · have hfound : (s.chan c).jobs.findSome? (s.resumable c) = some (j, key, g, t) := by
      rw [hjobs, State.findSome_resumable_first hpre, List.findSome?_cons, State.resumable_of_stalled hphase, hrun]
      rfl
    rw [exec_stashOutResume_of_runs hruns, hfound]
  · have hfound : (s.chan c).jobs.findSome? (s.resumable c) = none :=
      List.findSome?_eq_none_iff.2 (fun i hi => State.resumable_eq_none (hnone i hi))
    rw [exec_stashOutResume_of_runs hruns, hfound]
  · exact exec_stashIn_of_bad hready hfresh hin (Channel.loadIn_of_key_unknown hstash hkey)

end Sys2Proof.Machine

/-! ### The arrays: execution, programming and calibration -/

namespace Sys2Proof.Machine

/-! Array layers executed (R120 to R129, R156, R161, R162). -/

section Execution
variable {s u w x : State} {c : Chan} {n : Nat} {j : Job} {r : Refused} {e : ArrayExec} {l : Layer}

theorem exec_arrayLayerExecute_of_bad (hready : s.ready c n 0x41 = some j) (hfresh : ∀ y, j.phase ≠ .held y)
    (hload : s.loadArray c j = .error r) : exec (.arrayLayerExecute c n) s = .next (s.refuseJob c j r) := by
  refine congrArg Host.Outcome.next ((State.withJob_ready hready _).trans ?_)
  dsimp only
  split
  · next hphase => exact absurd hphase (hfresh _)
  · next hphase => exact absurd hphase (hfresh _)
  · rw [hload]

theorem exec_arrayLayerExecute_of_takesUp (hready : s.ready c n 0x41 = some j)
    (htakes : j.takesUp (.array e) (s.loadArray c j = .ok e)) :
    exec (.arrayLayerExecute c n) s = .next (s.startHeld c j (.array e) (fun s => s.gatewayStart c j e)) := by
  refine congrArg Host.Outcome.next ((State.withJob_ready hready _).trans ?_)
  obtain hheld | ⟨hfresh, hload⟩ := htakes
  · simp only [hheld]
  · dsimp only
    split
    · next hphase => exact absurd hphase (hfresh _)
    · next hphase => exact absurd hphase (hfresh _)
    · rw [hload]

theorem State.heldWait_array (hbanks : (s.chan c).banksCheck j [e.param, e.input, e.output, e.snapshot] = .ok false) :
    s.heldWait c j (.array e) = s.arrayWait c j e := by
  have htensors : (s.chan c).banksCheck j (Held.array e).tensors = .ok false := hbanks
  simp only [State.heldWait, htensors]

theorem State.arrayWait_switched {v : Half} (hlayer : (s.chan c).arrays.layers.find? (fun l => l.id == e.layer) = some l)
    (hswitched : l.switched = some v) (hlater : later16 v e.tag = true) :
    s.arrayWait c j e = .error ⟨0x41, j.addr, 0, 0⟩ := by
  simp only [State.arrayWait, hlayer, hswitched, hlater, if_true]

theorem State.arrayWait_current (hlayer : (s.chan c).arrays.layers.find? (fun l => l.id == e.layer) = some l)
    (hswitched : ∀ v, l.switched = some v → later16 v e.tag = false) :
    s.arrayWait c j e = if s.refreshPending c l e.tag then .ok (some (1, kArr c 0x31)) else .ok none := by
  simp only [State.arrayWait, hlayer]
  cases hl : l.switched with
  | none => simp only [Bool.false_eq_true, if_false]
  | some v => simp only [hswitched v hl, Bool.false_eq_true, if_false]

section Folds
variable {due : List Fold} (hlayer : (s.chan c).arrays.layers.find? (fun l => l.id == e.layer) = some l)
  (hdue : due = (if s.mirror c then [] else (s.chan c).arrays.folds.filter (fun f => f.layer == l.id && f.reached e.tag)))
include hlayer hdue

/-- Folds that are due wait for the earlier reads of the layer (R161). -/
theorem State.gatewayStart_waiting (hsome : due ≠ []) (hreads : (s.chan c).layerReads j.id l.id = true) :
    s.gatewayStart c j e = s.onChan c (fun h => h.setJob { j with phase := .held (.array e) }) := by
  have hwait : (!due.isEmpty && (s.chan c).layerReads j.id l.id) = true := by simp [hsome, hreads]
  simp only [State.gatewayStart, hlayer, ← hdue, hwait, if_true]

theorem State.gatewayStart_starting (hfree : due = [] ∨ (s.chan c).layerReads j.id l.id = false)
    (hu : u = due.foldl (fun s f => s.switchFold c j e l f) s) :
    s.gatewayStart c j e = (u.countNearest c j [e.output]).startArray c (u.current c j) e := by
  have hwait : (!due.isEmpty && (s.chan c).layerReads j.id l.id) = false := by
    rcases hfree with h | h <;> simp [h]
  subst hu
  simp only [State.gatewayStart, hlayer, ← hdue, hwait, Bool.false_eq_true, if_false]

end Folds

theorem exec_tileReadComplete_of_active {side tile k i : Nat} {spare : Bool} {acc : List Nat} {q : TileRead} {v : VecState}
    (hread : (s.chan c).arrays.reads.find? (fun r => r.id == i) = some q) (hphase : q.phase = .active side tile spare k acc)
    (hexec : (s.chan c).execOf q.job = some e) (hvec : e.vecs.find? (fun v => v.index == q.vec) = some v) :
    exec (.tileReadComplete c i) s = .next (s.readLoop c q e v side tile spare k acc) := by
  show execTileReadComplete c i s = _
  simp only [execTileReadComplete, hread, hphase, hexec, hvec]

section Delivery
variable {v : VecState} {ks : List Nat} {g : Channel × Stats} {inv : List Invalid}
  (hjob : (s.chan c).job n = some j) (hexec : (s.chan c).execOf n = some e)
  (hvec : e.vecs.find? (fun v => v.index == e.delivered) = some v) (hcomplete : v.complete e = true)
  (hissues : (s.chan c).issues = true)
  (hks : ks = (if v.kind = .mirror then List.range e.k else []))
  (hinv : inv = (s.chan c).paramFaults e v.index ks ++ ((s.chan c).vectorOuts e v).flatMap (fun o => o.invalid))
  (hg : g = (if e.output.format = 0x12 then (s.chan c).deliverKa (s.k2 c) e v
      else if e.output.layout = 0 then (s.chan c).deliverRow (s.k2 c) e (s.drawKeys c j e.output) v
      else (s.chan c).deliverColumn (s.k2 c) e (s.drawKeys c j e.output) v))
  (hu : u = ((((s.setChan c g.1).mergeStats c e.output g.2).countSilence c j e.output g.2).onChan c (fun h => match h.job n with
      | some j => h.setJob (j.noteInvalid e.output g.2)
      | none => h)))
  (hx : x = (inv.foldl (fun s i => s.gatewayInvalid c n e i) u).storeReads c (fun w => e.paramTouches ks w ||
      (v.kind != .mirror && decide (e.scaleAddr ≤ 8 * w) && decide (8 * w < e.scaleAddr + 2 * e.n))))
  (hw : w = (if e.output.format = 0x12 then x.countAccumulates c e.kaCount else x).setExec c n { e with delivered := e.delivered + 1 })
include hjob hexec hvec hcomplete hissues hks hinv hg hu hx hw

/-- The next vector in order is delivered; the last one ends the descriptor (R120, R123). -/
theorem exec_vectorDelivery_of_complete : exec (.vectorDelivery c n) s = .next (if e.delivered + 1 = e.vectors then
    (match (w.chan c).job n with
      | some j => w.finishJob c j 0 0
      | none => w)
    else w) := by
  subst hw hx hu hg hinv hks
  show execVectorDelivery c n s = _
  simp only [execVectorDelivery, hjob, hexec, hvec, hcomplete, hissues, beq_iff_eq, Bool.not_true, Bool.or_self, Bool.false_eq_true,
    if_false] <;> rfl

end Delivery

theorem exec_deferredOutlierServe_of_front {d : Deferred} {rest : List Deferred} (hfront : (s.chan c).arrays.deferred = d :: rest)
    (hissues : (s.chan c).issues = true) (hu : u = s.onArrays c (fun a => { a with deferred := rest })) :
    exec (.deferredOutlierServe c) s = .next (match (u.chan c).execOf d.job with
      | none => u
      | some e => (u.readOutliers c d.job e d.vec [d.index]).onExec c d.job (fun x => { x with
        vecs := x.vecs.map (fun v => if v.index = d.vec then { v with
          deferredLeft := v.deferredLeft - 1, outliers := v.outliers ++ (u.chan c).outlierTerms e [(d.index, d.value)] } else v) })) := by
  subst hu
  show execDeferredOutlierServe c s = _
  simp only [execDeferredOutlierServe, hfront, hissues, Bool.not_true, Bool.false_eq_true, if_false] <;> rfl

end Execution

/-- Settles O48: a descriptor by its load, a start by the folds that are due, a delivery by whether it is the last. -/
theorem arrayExecution : Obligations.ArrayExecution := by
  refine ⟨fun c n j s hready => ⟨fun r => exec_arrayLayerExecute_of_bad hready, fun e htakes =>
      ⟨_, exec_arrayLayerExecute_of_takesUp hready htakes, State.startHeld_startsAs _ _ _ _ _⟩⟩,
    fun c j e l s hlayer hbanks => ⟨fun v hswitched hlater => ?_, fun hswitched => ⟨fun hpending => ?_, fun hpending => ?_⟩⟩,
    fun c j e l due s u hlayer hdue => ⟨State.gatewayStart_waiting hlayer hdue, State.gatewayStart_starting hlayer hdue⟩,
    fun c s hissues hsupply => congrArg _ (if_pos (by simp [hissues, hsupply])),
    fun c side tile k i spare acc q e v s => exec_tileReadComplete_of_active,
    fun c n j e v ks g inv s u w x hjob hexec hvec hcomplete hissues hks hinv hg hu hx hw => ⟨fun hmore => ?_, fun k hlast hk => ?_⟩,
    fun c d rest s u hfront hissues hu => ⟨fun hnone => ?_, fun e hsome => ?_⟩⟩
  · rw [State.heldWait_array hbanks, State.arrayWait_switched hlayer hswitched hlater]
  · rw [State.heldWait_array hbanks, State.arrayWait_current hlayer hswitched, if_pos hpending]
  · rw [State.heldWait_array hbanks, State.arrayWait_current hlayer hswitched, if_neg (ne_true_of_eq_false hpending)]
  · rw [exec_vectorDelivery_of_complete hjob hexec hvec hcomplete hissues hks hinv hg hu hx hw, if_neg hmore]
  · rw [exec_vectorDelivery_of_complete hjob hexec hvec hcomplete hissues hks hinv hg hu hx hw, if_pos hlast, hk]
  · rw [exec_deferredOutlierServe_of_front hfront hissues hu, hnone]
  · rw [exec_deferredOutlierServe_of_front hfront hissues hu, hsome]

/-! Programming, refresh and calibration (R142 to R157, R166 to R186). -/

section Programming
variable {s u w b : State} {c : Chan} {n : Nat} {j : Job}

theorem exec_programDescriptor_of_bad {r : Refused} (hready : s.ready c n 0x50 = some j)
    (hkeeps : (s.chan c).releases j.addr = false) (hload : s.loadProgramDesc c j = .error r) :
    exec (.programDescriptor c n) s = .next (s.refuseJob c j r) := by
  refine congrArg Host.Outcome.next ((State.withJob_ready hready _).trans ?_)
  simp only [hkeeps, hload, Bool.false_eq_true, if_false]

theorem exec_programDescriptor_of_loaded {e : ProgramExec} (hready : s.ready c n 0x50 = some j)
    (hkeeps : (s.chan c).releases j.addr = false) (hload : s.loadProgramDesc c j = .ok e)
    (hu : u = ((s.writeViews c j e).onArrays c (fun a => { a with layers := a.layers ++ [e.layer] })).onChan c (fun h =>
      h.setJob { ((h.job j.id).getD j) with phase := .programming e.layer.id 0 0 0 })) :
    exec (.programDescriptor c n) s = .next (e.layer.tiles.foldl (fun s d =>
      (s.onChan c (fun h => h.toState d .loading)).requestProgram c (.first d e.layer.id) d false) u) := by
  subst hu
  refine congrArg Host.Outcome.next ((State.withJob_ready hready _).trans ?_)
  simp only [hkeeps, hload, Bool.false_eq_true, if_false]

section Release
variable {id : Nat} (hready : s.ready c n 0x50 = some j) (hreleases : (s.chan c).releases j.addr = true)
  (hty : (s.chan c).nat j.addr 2 = 0x50) (hid : id = (s.chan c).nat (j.addr + 74) 2) (hlt : id < 4096)
include hready hreleases hty hid hlt

theorem exec_programRelease_of_none (hnone : ∀ l ∈ (s.chan c).arrays.layers, l.id ≠ id) :
    exec (.programRelease c n) s = .next (s.finishJob c j 0 0) := by
  have hfind : (s.chan c).arrays.layers.find? (fun l => l.id == id) = none :=
    List.find?_eq_none.2 (fun l hl => by simpa using hnone l hl)
  subst hid
  refine congrArg Host.Outcome.next ((State.withJob_ready hready _).trans ?_)
  simp only [hreleases, hty, hfind, Nat.not_le.2 hlt, ne_eq, not_true_eq_false, Bool.not_true, Bool.false_eq_true, if_false]

theorem exec_programRelease_of_layer {l : Layer} (hfind : (s.chan c).arrays.layers.find? (fun l => l.id == id) = some l)
    (hu : u = l.tiles.foldl (fun s d => s.releaseEntry c d)
      (((s.chan c).arrays.folds.filter (fun f => f.layer == id)).foldl (fun s f => s.cancelFold c f) s))
    (hw : w = u.onArrays c (fun a => { a with
      retireWaits := a.retireWaits.filter (fun d => !l.tiles.contains d || a.releaseWaits.contains d),
      calQueue := a.calQueue.filter (fun d => !l.tiles.contains d || a.releaseWaits.contains d),
      refreshLeft := a.refreshLeft.filter (fun i => i != id) })) :
    exec (.programRelease c n) s = .next (((if (s.chan c).arrays.refreshLeft ≠ [] ∧ (w.chan c).arrays.refreshLeft = [] then
        w.selectFolds c (s.chan c).arrays.refreshVersion else w).onChan c (fun h =>
      h.setJob { j with phase := .releasing id })).settleRelease c) := by
  subst hw hu hid
  refine congrArg Host.Outcome.next ((State.withJob_ready hready _).trans ?_)
  simp only [hreleases, hty, hfind, Nat.not_le.2 hlt, ne_eq, not_true_eq_false, Bool.not_true, Bool.false_eq_true, if_false,
    Bool.and_eq_true, Bool.not_eq_true', List.isEmpty_eq_false_iff, List.isEmpty_iff]

end Release

theorem exec_tileProgramStart_of_next {p : TileProg} (hnext : (s.chan c).nextProg = some p)
    (hu : u = s.onArrays c (fun a => { a with progQueue := a.progQueue.filter (fun q => q.id != p.id) })) :
    exec (.tileProgramStart c) s = .next
      (if tileRating ≤ ((u.chan c).slot (p.entry / slotEntries)).count ((u.chan c).tileOf p.entry) then u.progFailed c p
      else (u.countProgram c (p.entry / slotEntries) ((u.chan c).tileOf p.entry)).onArrays c
        (fun a => { a with progs := a.progs ++ [p] })) := by
  subst hu
  show execTileProgramStart c s = _
  simp only [execTileProgramStart, hnext]

section ProgramEnd
variable {i : Nat} {p : TileProg} (hfind : (s.chan c).arrays.progs.find? (fun p => p.id == i) = some p)
  (hu : u = s.onArrays c (fun a => { a with progs := a.progs.filter (fun q => q.id != i) }))
include hfind hu

theorem exec_tileProgramComplete_verified : exec (.tileProgramComplete c i true) s = .next (u.progVerified c p) := by
  subst hu
  show execTileProgramComplete c i true s = _
  simp only [execTileProgramComplete, hfind, if_true]

/-- A program that does not verify has its header marked bad, and runs once more (R147). -/
theorem exec_tileProgramComplete_unverified (hb : b = u.onChan c (fun h => h.writeHeader p.entry 0x3F80#16 0#8 false [])) :
    exec (.tileProgramComplete c i false) s =
      .next (if p.again then b.progFailed c p else b.requestProgram c p.purpose p.entry true) := by
  subst hb hu
  show execTileProgramComplete c i false s = _
  simp only [execTileProgramComplete, hfind, Bool.false_eq_true, if_false]

end ProgramEnd

theorem exec_factorRefresh_of_due {id : Nat} {rest : List Nat} {l : Layer} (hleft : (s.chan c).arrays.refreshLeft = id :: rest)
    (hmirror : s.mirror c = false) (hissues : (s.chan c).issues = true)
    (hlive : (s.chan c).live ((s.chan c).arrays.refreshVersion - 2) = false)
    (hlayer : (s.chan c).arrays.layers.find? (fun l => l.id == id) = some l)
    (hu : u = (s.refreshLayer c l (s.chan c).arrays.refreshVersion (s.chan c).arrays.refreshStep).onChan c (fun h => { h with
      arrays := { h.arrays with refreshLeft := rest },
      safety := { h.safety with refreshFirst := h.safety.refreshFirst.filter (fun i => i != id) } })) :
    exec (.factorRefresh c) s = .next (if rest = [] then u.selectFolds c (s.chan c).arrays.refreshVersion else u) := by
  subst hu
  show execFactorRefresh c s = _
  simp only [execFactorRefresh, hleft, hmirror, hissues, hlive, hlayer, Bool.not_true, Bool.or_self, Bool.false_eq_true, if_false,
    List.isEmpty_iff]

theorem exec_poweredHour_of_powered {x : Slot} {y : SlotState} (hslot : (s.chan x.owner).slot x.side.val = y)
    (hpresent : y.present = true) (hsupply : (s.chan x.owner).power.cartSupply = true) :
    exec (.poweredHour x) s = .next (s.onChan x.owner (fun h => h.setSlot x.side.val { y with
      hours := (y.hourNow :: y.hours).take 168, hourNow := 0, poweredHours := y.poweredHours + 1 })) := by
  subst hslot
  exact congrArg _ (if_neg (by simp [hpresent, hsupply]))

theorem exec_tileCalibrationStart_of_next {k : CalStart} {t : Int} (hu : u = (if (s.chan c).issues then s.calPump c else s))
    (hnext : (u.chan c).nextCal (u.serviceWaits c) = some k) (htemp : ((u.chan c).slot k.side).temp = some t) :
    exec (.tileCalibrationStart c) s = .next ((u.onChan c (fun h =>
      let g := { h with nextId := h.nextId + 1, arrays := { h.arrays with
        cals := h.arrays.cals ++ [⟨h.nextId, k.side, k.tile, k.entry, k.mode, t⟩],
        calQueue := if k.mode = .sweep then h.arrays.calQueue else h.arrays.calQueue.filter (fun e => e != k.entry) } }
      if k.mode = .sweep then g.setSlot k.side { (g.slot k.side) with sweep := some (k.tile + 1) }
      else if k.mode = .spare then g.toState k.entry .calibrating
      else g)).calPump c) := by
  subst hu
  show execTileCalibrationStart c s = _
  simp only [execTileCalibrationStart, hnext, htemp, Option.isSome_some, if_true, Option.getD_some]

theorem exec_tileCalibrationComplete_of_found {i : Nat} {k : TileCal}
    (hfind : (s.chan c).arrays.cals.find? (fun k => k.id == i) = some k) :
    exec (.tileCalibrationComplete c i) s = .next ((((s.calEnd c k).sweepFailed c k).settleStart c).watchDegraded s) := by
  show execTileCalibrationComplete c i s = _
  simp only [execTileCalibrationComplete, hfind]

end Programming

/-- Settles O49: descriptors by their load and release, tile programs by their rating and verify, calibrations by what is next. -/
theorem arrayProgrammingAndCalibration : Obligations.ArrayProgrammingAndCalibration := by
  refine ⟨fun c n j s hready hkeeps => ⟨fun r => exec_programDescriptor_of_bad hready hkeeps,
      fun e u => exec_programDescriptor_of_loaded hready hkeeps⟩,
    fun c n id j s hready hreleases hty hid hlt => ⟨exec_programRelease_of_none hready hreleases hty hid hlt,
      fun l u hfind hu w => exec_programRelease_of_layer hready hreleases hty hid hlt hfind hu⟩,
    fun c p s u hnext hu => ⟨fun hworn => ?_, fun hfresh => ?_⟩,
    fun c i p s u b hfind hu hb => ⟨exec_tileProgramComplete_verified hfind hu, fun hagain => ?_, fun hfirst => ?_⟩,
    fun c id rest l s u hleft hmirror hissues hlive hlayer hu => ⟨fun hmore => ?_, fun hlast => ?_⟩,
    fun x y s => exec_poweredHour_of_powered, fun c k t s u => exec_tileCalibrationStart_of_next,
    fun c i k s => exec_tileCalibrationComplete_of_found⟩
  · rw [exec_tileProgramStart_of_next hnext hu, if_pos hworn]
  · rw [exec_tileProgramStart_of_next hnext hu, if_neg (Nat.not_le.2 hfresh)]
  · rw [exec_tileProgramComplete_unverified hfind hu hb, if_pos hagain]
  · rw [exec_tileProgramComplete_unverified hfind hu hb, if_neg (ne_true_of_eq_false hfirst)]
  · rw [exec_factorRefresh_of_due hleft hmirror hissues hlive hlayer hu, if_neg hmore]
  · rw [exec_factorRefresh_of_due hleft hmirror hissues hlive hlayer hu, if_pos hlast]

end Sys2Proof.Machine

/-! ### Links: flits, packets, training and calibration -/

namespace Sys2Proof.Machine

/-! Flits and their timers (R293 to R300). -/

section Flits
variable {s u v : State} {c : Chan} {p : Port} {f : Flit} {n : Fin 16}

/-- The distance between two sequence numbers is 0 only for equal ones. -/
theorem toNat_sub_eq_zero_iff {w : Nat} {a b : BitVec w} : (a - b).toNat = 0 ↔ a = b := by
  rw [← BitVec.toNat_zero (w := w), BitVec.toNat_inj]
  exact sub_eq_zero

theorem exec_badFlit_of_deaf {why : BadFlit} (hdeaf : (s.chan c).hears p.val = false) : exec (.badFlit c p why) s = .next s :=
  congrArg _ (if_pos (by simp [hdeaf]))

theorem exec_replayTimeout_of_deaf (hdeaf : (s.chan c).hears p.val = false) : exec (.replayTimeout c p) s = .next s :=
  congrArg _ (if_pos (by simp [hdeaf]))

section Hears
variable (hhears : (s.chan c).hears p.val = true)
include hhears

theorem exec_dataFlit_of_hears (hu : u = s.flitIn c p (f.received n)) :
    exec (.dataFlit c p ⟨f, n⟩) s = .next
      (if (u.chan c).hears p.val = false then u
      else if f.seq = ((u.chan c).link p.val).expected then u.acceptData c p f
      else if (f.seq - ((u.chan c).link p.val).expected).toNat < 2048 then u.sendNak c p else u) := by
  subst hu
  refine congrArg Host.Outcome.next ((if_pos hhears).trans ?_)
  simp only [State.dataIn, Bool.not_eq_true', toNat_sub_eq_zero_iff]

theorem exec_badFlit_uncorrectable :
    exec (.badFlit c p .uncorrectable) s = .next (s.badIn c p 0 (some 0x05)) :=
  congrArg _ (if_neg (by simp [hhears]))

/-- A flit that was bad is taken by what its bytes show. -/
theorem exec_badFlit_arrived {b : List Byte} : exec (.badFlit c p (.arrived b n)) s = .next
    (if (!flitCrcOk b) = true then s.badIn c p n.val (some 0x06)
    else if 2 < (Flit.ofBytes b).ftype then s.badIn c p n.val none
    else if (Flit.ofBytes b).ftype = 0 then s.dataIn c p (Flit.ofBytes b) n
    else s.flitIn c p ((Flit.ofBytes b).received n)) :=
  congrArg _ (if_neg (by simp [hhears]))

theorem exec_replayTimeout_of_hears
    (hu : u = (if ((s.chan c).link p.val).nakSent = true then s.sendFlit c p idleFlit true else s)) :
    exec (.replayTimeout c p) s = .next (if ((s.chan c).link p.val).replay = [] then u
      else ((u.resend c p).bump c (kPort c p.val 0x08)).replayed c p) := by
  subst hu
  refine congrArg Host.Outcome.next ((if_neg (by simp [hhears])).trans ?_)
  simp only [List.isEmpty_iff]

end Hears

theorem exec_fastRetrainEnd_of_retraining (hrun : (s.chan c).linksRun = true)
    (hretrain : ((s.chan c).link p.val).retraining = true)
    (hu : u = s.onLink c p.val (fun k => { k with retraining := false, stuck := 0 })) :
    exec (.fastRetrainEnd c p) s = .next (if ((s.chan c).link p.val).replay = [] then u
      else (u.resend c p).bump c (kPort c p.val 0x07)) := by
  subst hu
  refine congrArg Host.Outcome.next ((if_pos (by simp [hrun, hretrain])).trans ?_)
  simp only [List.isEmpty_iff]

theorem not_retraining (h : (s.chan c).linksRun = false ∨ ((s.chan c).link p.val).retraining = false) :
    ¬ ((s.chan c).linksRun && ((s.chan c).link p.val).retraining) = true := by
  rcases h with h | h <;> simp [h]

/-- Ticket returns that wait go out in a flit of pads when no packet may start (R300). -/
theorem exec_ticketReturnTimer : exec (.ticketReturnTimer c p) s = .next
    (if (s.chan c).sends p.val = true ∧ ((s.chan c).link p.val).choose = none ∧ ∃ n ∈ ((s.chan c).link p.val).returns, n ≠ 0
      then s.sendData c p 0 [] else s) := by
  show execTicketReturnTimer c p s = _
  simp only [execTicketReturnTimer, Bool.and_eq_true, Option.isNone_iff_eq_none, List.any_eq_true, bne_iff_ne, and_assoc]

end Flits

/-- Settles O50: each flit by whether the port hears, then by its sequence or its kind; each timer by what waits. -/
theorem flitsOnALink : Obligations.FlitsOnALink := by
  refine ⟨fun c p f n s u hhears hu => ⟨?_, fun hdeaf => ?_, fun hstill => ⟨fun hseq => ?_, fun hseq hahead => ?_, fun hbehind => ?_⟩⟩,
    fun c p b n s u v hhears hu hv => ⟨?_, fun hcrc => ?_, fun hcrc htype => ?_, fun hcrc htype => ?_, fun hcrc hne hle => ?_⟩,
    fun c p f n why s hdeaf => ⟨?_, ?_, exec_badFlit_of_deaf hdeaf, exec_replayTimeout_of_deaf hdeaf⟩,
    fun c p s u hhears hu => ⟨fun hsome => ?_, fun hnone => ?_⟩,
    fun c p s u hrun hretrain hu => ⟨fun hnone => ?_, fun hsome => ?_, congrArg _ (if_pos (by simp [hrun, hretrain]))⟩,
    fun c p s h => ⟨congrArg _ (if_neg (not_retraining h)), congrArg _ (if_neg (not_retraining h))⟩,
    fun c p s => ⟨fun hsends hchoose hwaits => ?_, fun h => ?_⟩⟩
  · subst hu
    exact congrArg _ (if_pos hhears)
  · rw [exec_dataFlit_of_hears hhears hu, if_pos hdeaf]
  · rw [exec_dataFlit_of_hears hhears hu, if_neg (ne_false_of_eq_true hstill), if_pos hseq]
  · rw [exec_dataFlit_of_hears hhears hu, if_neg (ne_false_of_eq_true hstill), if_neg hseq, if_pos hahead]
  · have hseq : ¬ f.seq = ((u.chan c).link p.val).expected := fun h => by
      rw [← toNat_sub_eq_zero_iff] at h; omega
    rw [exec_dataFlit_of_hears hhears hu, if_neg (ne_false_of_eq_true hstill), if_neg hseq, if_neg (Nat.not_lt.2 hbehind)]
  · subst hu
    exact exec_badFlit_uncorrectable hhears
  · subst hv hu
    rw [exec_badFlit_arrived hhears, if_pos (by simp [hcrc])]
    rfl
  · subst hv hu
    rw [exec_badFlit_arrived hhears, if_neg (by simp [hcrc]), if_pos htype]
    rfl
  · rw [exec_badFlit_arrived hhears, if_neg (by simp [hcrc]), if_neg (by omega), if_pos htype]
    exact congrArg _ (if_pos hhears).symm
  · subst hv hu
    rw [exec_badFlit_arrived hhears, if_neg (by simp [hcrc]), if_neg (Nat.not_lt.2 hle), if_neg hne]
    rfl
  · exact congrArg _ (if_neg (ne_true_of_eq_false hdeaf))
  · exact congrArg _ (if_neg (ne_true_of_eq_false hdeaf))
  · rw [exec_replayTimeout_of_hears hhears hu, if_neg hsome]
  · rw [exec_replayTimeout_of_hears hhears hu, if_pos hnone]
  · rw [exec_fastRetrainEnd_of_retraining hrun hretrain hu, if_pos hnone]
  · rw [exec_fastRetrainEnd_of_retraining hrun hretrain hu, if_neg hsome]
  · rw [exec_ticketReturnTimer, if_pos ⟨hsends, hchoose, hwaits⟩]
  · rw [exec_ticketReturnTimer, if_neg]
    rintro ⟨hsends, hchoose, n, hn, hne⟩
    rcases h with h | h | h
    · rw [h] at hsends; cases hsends
    · exact h hchoose
    · exact hne (h n hn)

/-! Packets and segments (R299 to R312, R340). -/

section Packets
variable {s u : State} {c : Chan} {k : Packet} {key : SegKey}

theorem exec_packetStart_of_chosen {p : Port} {cls : Nat} {l : Link} {q : Queued} (hsends : (s.chan c).sends p.val = true)
    (hu : u = s.countStalls c p.val) (hchoose : ((u.chan c).link p.val).choose = some (cls, l)) (hhead : l.headOf cls = some q) :
    exec (.packetStart c p) s = .next (((u.onLink c p.val (fun _ => { l with
      queue := l.queue.erase q, tickets := l.tickets.set cls (l.tickets.getD cls 0 - q.pkt.words) })).sendData c p 0
        q.pkt.bytes).giveBack c q.source q.pkt) := by
  subst hu
  show execPacketStart c p s = _
  simp only [execPacketStart, hsends, hchoose, hhead, Bool.not_true, Bool.false_eq_true, if_false]

theorem exec_unknownPacketType_of_reserved {p : Port} (hreceives : s.receives c k = true) (htype : k.ptype = 0 ∨ 0x07 < k.ptype) :
    exec (.unknownPacketType c p k) s = .next ((s.takeInbox c k).unknownType c p.val k) :=
  congrArg _ ((if_neg (by simp [hreceives])).trans (if_pos htype))

section Checked
variable (hreceives : s.receives c k = true) (hcheck : (s.takeInbox c k).checkPacket c k false = (u, true))
include hreceives hcheck

theorem exec_segAck_of_checked {gone : Unacked → Bool} (htype : k.ptype = 0x06)
    (hkey : key = ⟨s.address c, k.source, k.group, k.segment, k.step⟩)
    (hgone : gone = (fun a => (leNat ((k.data.drop 2).take 1)).testBit 0 || decide (a.pkt.seq < leNat (k.data.take 2)) ||
      (decide (leNat (k.data.take 2) < a.pkt.seq) &&
        (leNat ((k.data.drop 8).take 8)).testBit (a.pkt.seq - leNat (k.data.take 2) - 1)))) :
    exec (.segAck c k) s = .next ((u.onNet c (fun n => { n with tx := (n.tx.map (fun t =>
      if t.key = key then { t with unacked := t.unacked.filter (fun a => !gone a) } else t)).filter (fun t =>
        !(t.key == key && t.last && t.unacked.isEmpty)) })).pump c) := by
  subst hkey hgone
  show execSegAck c k s = _
  simp only [execSegAck, htype, hreceives, hcheck, ne_eq, not_true_eq_false, decide_false, Bool.not_true, Bool.or_self,
    Bool.false_eq_true, if_false]

theorem exec_unreachable_of_checked (htype : k.ptype = 0x07)
    (hkey : key = ⟨s.address c, k.field 0 4, k.field 4 2, k.field 6 2, k.step⟩) :
    exec (.unreachable c k) s = .next ((if (u.chan c).net.tx.any (fun t => t.key == key) then u.abortSegment c key (k.field 8 2)
      else u).addressGone c (k.field 0 4) 2) := by
  subst hkey
  show execUnreachable c k s = _
  simp only [execUnreachable, htype, hreceives, hcheck, ne_eq, not_true_eq_false, decide_false, Bool.not_true, Bool.or_self,
    Bool.false_eq_true, if_false]

end Checked

section AckTimer
variable {r : RxSegment} (hrun : (s.chan c).linksRun = true) (hfind : (s.chan c).net.rx.find? (fun r => r.key == key) = some r)
include hrun hfind

theorem exec_segAckTimer_of_none (hnone : r.fresh = 0) : exec (.segAckTimer c key) s = .next s := by
  show execSegAckTimer c key s = _
  simp only [execSegAckTimer, hrun, hfind, hnone, Bool.not_true, Bool.false_eq_true, if_false, if_true]

theorem exec_segAckTimer_of_fresh {g : Group} (hnew : r.fresh ≠ 0) (hgroup : (s.chan c).comm key.group = some g) :
    exec (.segAckTimer c key) s = .next
      ((s.setRx c { r with fresh := 0 }).sendAck c { r with fresh := 0 } (g.epoch.setWidth 8)) := by
  show execSegAckTimer c key s = _
  simp only [execSegAckTimer, hrun, hfind, hnew, hgroup, Bool.not_true, Bool.false_eq_true, if_false, Option.map_some,
    Option.getD_some]

end AckTimer

theorem exec_e2eTimeout_of_unacked {n : Nat} {t : TxSegment} {a : Unacked} (hrun : (s.chan c).linksRun = true)
    (hseg : (s.chan c).net.tx.find? (fun t => t.key == key) = some t)
    (hpkt : t.unacked.find? (fun a => a.pkt.seq == n) = some a) :
    exec (.e2eTimeout c key n) s = .next
      (if ((s.chan c).comm key.group).any (fun g => g.state == .failed) = true then s.silenceGroup c key.group
      else if s.ent (kLink c 0xC1) ≤ a.retries then s.abortSegment c key n
      else ((s.onNet c (fun m => { m with
        tx := m.tx.map (fun x => if x.key = key then { x with unacked := x.unacked.map (fun v => if v.pkt.seq = n then
          { v with retries := v.retries + 1, sent := (s.chan c).clock.timebase } else v) } else x) })).bump c (kLink c 0xD0)).sendPacket
            c a.pkt none) := by
  show execE2eTimeout c key n s = _
  simp only [execE2eTimeout, hrun, hseg, hpkt, Bool.not_true, Bool.false_eq_true, if_false]

end Packets

/-- Settles O52: packets by their type and check, acknowledgements by what is new, a timeout by its group and its retries. -/
theorem packetsAndSegments : Obligations.PacketsAndSegments := by
  refine ⟨fun c p cls k q s u => exec_packetStart_of_chosen, fun c k s htype => congrArg _ (if_pos htype),
    fun c p k s => exec_unknownPacketType_of_reserved,
    fun c k gone key s u htype hreceives hcheck => exec_segAck_of_checked hreceives hcheck htype,
    fun c key r g s hrun hfind => ⟨exec_segAckTimer_of_none hrun hfind, exec_segAckTimer_of_fresh hrun hfind⟩,
    fun c key n t a s hrun hseg hpkt => ⟨fun hfailed => ?_, fun hlives hmany => ?_, fun hlives hfew => ?_⟩,
    fun c k key s u htype hreceives hcheck => exec_unreachable_of_checked hreceives hcheck htype⟩
  · rw [exec_e2eTimeout_of_unacked hrun hseg hpkt, if_pos hfailed]
  · rw [exec_e2eTimeout_of_unacked hrun hseg hpkt, if_neg (ne_true_of_eq_false hlives), if_pos hmany]
  · rw [exec_e2eTimeout_of_unacked hrun hseg hpkt, if_neg (ne_true_of_eq_false hlives), if_neg (Nat.not_le.2 hfew)]

end Sys2Proof.Machine

/-! ### Links trained and calibrated -/

namespace Sys2Proof.Machine

/-! A CONTROL flit (R294). -/

section Control
variable {s u : State} {c : Chan} {p : Port} {r : Received}

theorem State.controlIn_of_deaf (hdeaf : (s.chan c).hearsControl p.val = false) (act : State → State) :
    s.controlIn c p r act = s :=
  if_pos (by simp [hdeaf])

theorem State.controlIn_of_hears (hhears : (s.chan c).hearsControl p.val = true) (hu : u = s.flitIn c p r) (act : State → State) :
    s.controlIn c p r act = if (u.chan c).hearsControl p.val then act u else u := by
  subst hu
  exact if_neg (by simp [hhears])

/-- The message is acted on where the link still stands after its acknowledgement. -/
theorem State.controlIn_of_heard (hhears : (s.chan c).hearsControl p.val = true) (hu : u = s.flitIn c p r)
    (hstands : (u.chan c).hearsControl p.val = true) (act : State → State) : s.controlIn c p r act = act u :=
  (State.controlIn_of_hears hhears hu act).trans (if_pos hstands)

end Control

/-! Training and discovery (R309 to R319). -/

section Training
variable {s : State} {c : Chan} {p : Port} (hrun : (s.chan c).linksRun = true)
include hrun

theorem exec_signalDetected_of_enabled (henabled : s.portEnabled c p.val = true)
    (hstate : ((s.chan c).link p.val).state ∈ [0, 1, 4, 5]) :
    exec (.signalDetected c p) s = .next (s.onLink c p.val (fun k => { k with
      state := 1, trained := false, slowOffer := k.slowOffer && k.state == 1 })) :=
  congrArg _ (if_pos (by rw [hrun, henabled, List.contains_iff_mem.2 hstate]; rfl))

section Untrained
variable (hstate : ((s.chan c).link p.val).state = 1) (huntrained : ((s.chan c).link p.val).trained = false)
include hstate huntrained

theorem exec_trainingRateSwitch_of_training : exec (.trainingRateSwitch c p) s =
    .next (s.onLink c p.val (fun k => { k with slowOffer := !k.slowOffer })) :=
  congrArg _ (if_pos (by rw [hrun, hstate, huntrained]; rfl))

theorem exec_pmdTrainingComplete_locked : exec (.pmdTrainingComplete c p true) s = .next
    ((s.onLink c p.val (fun k => { k with trained := true })).sendControl c p (s.capability c p)) :=
  congrArg _ (if_pos (by rw [hrun, hstate, huntrained]; rfl))

theorem exec_pmdTrainingComplete_unlocked : exec (.pmdTrainingComplete c p false) s =
    .next (s.onLink c p.val (fun k => { k with reason := 7 })) :=
  congrArg _ (if_pos (by rw [hrun, hstate, huntrained]; rfl))

end Untrained

theorem exec_discoveryTimeout_of_waiting (henabled : s.portEnabled c p.val = true)
    (hstate : ((s.chan c).link p.val).state ∈ [0, 1, 5]) :
    exec (.discoveryTimeout c p) s = .next (if planned (s.planOf c p.val) then
      (s.onLink c p.val (fun l => { l with state := 4, trained := false })).raise c 0x0053
        (leBytes 1 p.val ++ leBytes 4 (s.planOf c p.val))
      else s.onLink c p.val (fun l => { l with state := 0, trained := false })) :=
  congrArg _ (if_pos (by rw [hrun, henabled, List.contains_iff_mem.2 hstate]; rfl))

theorem exec_trainingRetry_of_idle (henabled : s.portEnabled c p.val = true) (hstate : ((s.chan c).link p.val).state ∈ [0, 4, 5]) :
    exec (.trainingRetry c p) s =
      .next (s.onLink c p.val (fun l => { l with state := 1, trained := false, slowOffer := false })) :=
  congrArg _ (if_pos (by rw [hrun, henabled, List.contains_iff_mem.2 hstate]; rfl))

theorem exec_linkFailure_of_trained {loss : Bool} (hstate : ((s.chan c).link p.val).state ∈ [2, 3, 7]) :
    exec (.linkFailure c p loss) s = .next (s.linkFailed c p.val (if loss then 2 else 1)) := by
  have huntrained : ((s.chan c).link p.val).state ≠ 1 := fun h => by rw [h] at hstate; revert hstate; decide
  exact congrArg _ ((if_neg (by simp [hrun])).trans ((if_neg huntrained).trans (if_pos (List.contains_iff_mem.2 hstate))))

end Training

/-! Messages that a port hears (R298, R310, R319, R327, R189). -/

section Messages
variable {s u : State} {c : Chan} {p : Port} {r : Received} (hhears : (s.chan c).hearsControl p.val = true)
  (hu : u = s.flitIn c p r) (hstands : (u.chan c).hearsControl p.val = true)
include hhears hu hstands

theorem exec_capabilityMessage_of_trained {cap : Capability} {t : State} (htrained : ((u.chan c).link p.val).trained = true)
    (ht : t = u.onLink c p.val (fun l => { l with
      peer := some cap, version := min 3 cap.version, features := 0x000F#16 &&& cap.features })) :
    exec (.capabilityMessage c ⟨p, r⟩ cap) s = .next ((if cap.version < 2 then t.linkRefused c p.val 5
      else if rttLimit p.val < cap.rttNs then t.linkRefused c p.val 6 else t.discover c p.val).watchDegraded u) := by
  subst ht
  refine congrArg Host.Outcome.next ((State.controlIn_of_heard hhears hu hstands _).trans ?_)
  exact if_neg (by simp [htrained])

theorem exec_goodbye_of_inService (hstate : ((u.chan c).link p.val).state ∈ [2, 7]) :
    exec (.goodbye c ⟨p, r⟩) s = .next (match ((u.chan c).link p.val).peer with
      | some q => ((u.linkDown c p.val 0 4).watchDegraded u).addressGone c (q.moduleNumber % 32768 * 4 + q.channel % 4) 1
      | none => (u.linkDown c p.val 0 4).watchDegraded u) := by
  refine congrArg Host.Outcome.next ((State.controlIn_of_heard hhears hu hstands _).trans ?_)
  refine (if_neg ?_).trans rfl
  rw [List.contains_iff_mem.2 hstate]
  decide

theorem exec_uplinkNotice_of_first {n : Notice} (hstate : ((u.chan c).link p.val).state = 2) (hport : p.isU = false)
    (hfirst : mget none (noticeKey n) (u.chan c).net.noticeSeen = none) :
    exec (.uplinkNotice c ⟨p, r⟩ n) s = .next (((u.onNet c (fun t => { (t.applyNotice n) with
      noticeSeen := mset none (noticeKey n) (some n.sequence) t.noticeSeen })).bump c (odKey (0x5010 + c.val) 0x22)).spreadNotice
        c n (if p.isM then bPorts else mPorts)) := by
  refine congrArg Host.Outcome.next ((State.controlIn_of_heard hhears hu hstands _).trans ?_)
  simp [hstate, hport, hfirst]

theorem exec_linkRecalRequest_of_trained (hstate : ((u.chan c).link p.val).state ∈ [2, 3]) :
    exec (.linkRecalRequest c ⟨p, r⟩) s = .next
      (if (decide ((u.chan c).recalibrating < 4) && !((u.chan c).link p.val).goodbye) = true then
        ((((u.otherRoute c p.val).2.sendControl c p .recalAck).beginRecal c p.val
          (((u.chan c).link p.val).state == 2 && !(u.otherRoute c p.val).1)).watchDegraded u)
      else u.sendControl c p .recalRefuse) := by
  refine congrArg Host.Outcome.next ((State.controlIn_of_heard hhears hu hstands _).trans (if_neg ?_))
  have htwo : ((u.chan c).link p.val).state = 2 ∨ ((u.chan c).link p.val).state = 3 := by simpa using hstate
  rcases htwo with h | h <;> simp [h]

end Messages

/-! Measurement and recalibration (06 R188 to R191). -/

section Recalibration
variable {s : State} {c : Chan} {p : Port} (hrun : (s.chan c).linksRun = true)
include hrun

theorem exec_linkEyeMeasure_of_measured {wd ht temp : Nat} {ser : Word} {r : State × Bool} {l : Link} {due : Bool}
    (hr : ((s.chan c).link p.val).state = 2 ∧ r = (s.noteSer c p.val ser).eye c p.val wd ht ∨
      ((s.chan c).link p.val).state = 3 ∧ r = (s.noteSer c p.val ser, (s.noteSer c p.val ser).eyeLow c p.val))
    (hl : l = (r.1.chan c).link p.val)
    (hdue : due = (Fp.gt (eighths (max (l.calTemp.getD temp) temp - min (l.calTemp.getD temp) temp))
      (f32 (r.1.ent (kLinkCal c 0xF0))) || r.2)) :
    exec (.linkEyeMeasure c p wd ht temp ser) s = .next (r.1.onLink c p.val (fun q => { q with
      calTemp := some (l.calTemp.getD temp), islandTemp := some temp, due := due,
      deferredAt := if due then q.deferredAt else none })) := by
  subst hdue hl
  show execLinkEyeMeasure c p wd ht temp ser s = _
  unfold execLinkEyeMeasure
  obtain ⟨hup, rfl⟩ | ⟨hquarantined, rfl⟩ := hr
  · simp only [hrun, hup]
    rfl
  · simp only [hrun, hquarantined]
    rfl

section Asking
variable {a : Bool} {r : Received} {l : Link} (hl : l = (s.chan c).link p.val) (hretrain : l.retraining = false)
  (hgoodbye : l.goodbye = false) (hfew : (s.chan c).recalibrating < 4)
include hl hretrain hgoodbye hfew

theorem exec_linkRecalStart_of_due (hstate : l.state ∈ [2, 3]) (hdue : l.due = true) (hquiet : l.asking = false)
    (hfree : s.serviceWaits c = false) :
    exec (.linkRecalStart c p ⟨a, r⟩) s = .next (if ((s.otherRoute c p.val).1 || l.state == 3) = true then
        (s.otherRoute c p.val).2.askRecal c p a false r
      else ((s.otherRoute c p.val).2.onLink c p.val
        (fun l => { l with deferredAt := l.deferredAt <|> some (s.chan c).clock.timebase })).bump c (kLinkCal c 0x6B)) := by
  have htwo : (l.state == 2 || l.state == 3) = true := by simpa using hstate
  subst hl
  refine congrArg Host.Outcome.next (if_neg ?_)
  rw [hrun, htwo, hdue, hquiet, hretrain, hgoodbye, hfree, decide_eq_true hfew]
  decide

theorem exec_linkRecalRetry_of_asking (hstate : l.state ∈ [2, 3]) (hasking : l.asking = true) :
    exec (.linkRecalRetry c p ⟨a, r⟩) s = .next (s.askRecal c p a l.deferredAt.isSome r) := by
  have htwo : (l.state == 2 || l.state == 3) = true := by simpa using hstate
  subst hl
  refine congrArg Host.Outcome.next (if_pos ?_)
  rw [hrun, htwo, hasking, hretrain, hgoodbye, decide_eq_true hfew]
  rfl

theorem exec_linkRecalForced_of_interval (hstate : l.state = 2) (hdue : l.due = true) (hinterval : s.recalInterval c l = true)
    (hquiet : l.asking = false) :
    exec (.linkRecalForced c p ⟨a, r⟩) s = .next (s.askRecal c p a true r) := by
  subst hl
  refine congrArg Host.Outcome.next (if_pos ?_)
  rw [hrun, hstate, hdue, hinterval, hquiet, hretrain, hgoodbye, decide_eq_true hfew]
  rfl

end Asking

theorem exec_linkRecalibrationComplete_ok {wd ht : Nat} {t : State × Bool} (hstate : ((s.chan c).link p.val).state = 7)
    (ht' : t = (s.bump c (kLinkCal c (0x41 + p.val))).eye c p.val wd ht) :
    exec (.linkRecalibrationComplete c p true wd ht) s = .next ((t.1.endRecal c p.val t.2).watchDegraded s) := by
  subst ht'
  exact congrArg _ (if_neg (by rw [hrun, hstate]; decide))

theorem exec_linkRecalibrationComplete_failed {wd ht : Nat} (hstate : ((s.chan c).link p.val).state = 7) :
    exec (.linkRecalibrationComplete c p false wd ht) s =
      .next (s.drawFree.2.linkFailed c p.val (Config.fresh s.drawFree.1 % 256)) :=
  congrArg _ (if_neg (by rw [hrun, hstate]; decide))

end Recalibration

/-- A link returns to service as it left it; where its plan has changed since, discovery follows (R315). -/
theorem State.endRecal_of_peer {s t u : State} {c : Chan} {p : Nat} {low : Bool} {k : Capability} {l : Link}
    (hl : l = (s.chan c).link p) (hpeer : l.peer = some k)
    (ht : t = s.onLink c p (fun l => { l with
      state := if l.recalUp then 2 else 3, recalUp := false, asking := false, due := low, deferredAt := none, calTemp := l.islandTemp }))
    (hu : u = (if l.recalUp = true ∧ l.deferredAt = none then t.uplinkChanged c p true else t)) :
    s.endRecal c p low = if s.matchesPlan c p k = l.recalUp then u else u.discover c p := by
  subst hu ht hl
  simp only [State.endRecal, hpeer, Option.map_some, Option.getD_some, Bool.and_eq_true, Option.isNone_iff_eq_none]

/-- Settles O53: training by the state of the port, messages by what a heard flit does, recalibration by its conditions. -/
theorem linksTrainedAndCalibrated : Obligations.LinksTrainedAndCalibrated := by
  refine ⟨fun c p r act s t ht => ⟨fun hdeaf => State.controlIn_of_deaf hdeaf act, fun hhears hfell => ?_,
      fun hhears hstands => State.controlIn_of_heard hhears ht hstands act⟩,
    fun c p s hrun => ⟨exec_signalDetected_of_enabled hrun, fun hstate huntrained =>
        ⟨exec_trainingRateSwitch_of_training hrun hstate huntrained, exec_pmdTrainingComplete_locked hrun hstate huntrained,
          exec_pmdTrainingComplete_unlocked hrun hstate huntrained⟩,
      fun henabled hstate => ⟨fun hplan => ?_, fun hplan => ?_⟩, exec_trainingRetry_of_idle hrun,
      fun hstate => ⟨exec_linkFailure_of_trained hrun hstate, exec_linkFailure_of_trained hrun hstate⟩,
      congrArg _ (if_neg (by simp [hrun]))⟩,
    fun c p r s u hhears hu hstands => ⟨fun cap t htrained ht => ⟨fun hold => ?_, fun hnew hlong => ?_, fun hnew hshort => ?_⟩,
      fun hstate hnone => ?_, fun q hstate hsome => ?_, fun n => exec_uplinkNotice_of_first hhears hu hstands,
      fun hstate => ⟨fun hfew hgoodbye q hq => ?_, fun h => ?_⟩⟩,
    fun c p wd ht temp ser r l due s hrun => exec_linkEyeMeasure_of_measured hrun,
    fun c p a r l s hrun hl hretrain hgoodbye hfew => ⟨fun hstate hdue hquiet hfree => ⟨fun h => ?_, fun hno hup => ?_⟩,
      exec_linkRecalRetry_of_asking hrun hl hretrain hgoodbye hfew,
      exec_linkRecalForced_of_interval hrun hl hretrain hgoodbye hfew⟩,
    fun c p wd ht t s hrun hstate ht' => ⟨exec_linkRecalibrationComplete_ok hrun hstate ht',
      exec_linkRecalibrationComplete_failed hrun hstate⟩,
    fun c p low k l s t u hl hpeer ht hu => ⟨fun hsame => ?_, fun hchanged => ?_⟩⟩
  · rw [State.controlIn_of_hears hhears ht, if_neg (ne_true_of_eq_false hfell)]
  · rw [exec_discoveryTimeout_of_waiting hrun henabled hstate, if_pos hplan]
  · rw [exec_discoveryTimeout_of_waiting hrun henabled hstate, if_neg (ne_true_of_eq_false hplan)]
  · rw [exec_capabilityMessage_of_trained hhears hu hstands htrained ht, if_pos hold]
  · rw [exec_capabilityMessage_of_trained hhears hu hstands htrained ht, if_neg (Nat.not_lt.2 hnew), if_pos hlong]
  · rw [exec_capabilityMessage_of_trained hhears hu hstands htrained ht, if_neg (Nat.not_lt.2 hnew), if_neg (Nat.not_lt.2 hshort)]
  · rw [exec_goodbye_of_inService hhears hu hstands hstate, hnone]
  · rw [exec_goodbye_of_inService hhears hu hstands hstate, hsome]
  · subst hq
    rw [exec_linkRecalRequest_of_trained hhears hu hstands hstate, if_pos (by simp [hfew, hgoodbye])]
  · have hrefused : ¬ (decide ((u.chan c).recalibrating < 4) && !((u.chan c).link p.val).goodbye) = true := by
      rcases h with h | h
      · simp [Nat.not_lt.2 h]
      · simp [h]
    rw [exec_linkRecalRequest_of_trained hhears hu hstands hstate, if_neg hrefused]
  · have hroute : ((s.otherRoute c p.val).1 || l.state == 3) = true := by simpa using h
    rw [exec_linkRecalStart_of_due hrun hl hretrain hgoodbye hfew hstate hdue hquiet hfree, if_pos hroute]
  · rw [exec_linkRecalStart_of_due hrun hl hretrain hgoodbye hfew hstate hdue hquiet hfree, if_neg (by simp [hno, hup])]
  · rw [State.endRecal_of_peer hl hpeer ht hu, if_pos hsame]
  · rw [State.endRecal_of_peer hl hpeer ht hu, if_neg hchanged]

end Sys2Proof.Machine

/-! ### Groups, plans, replicas, barriers and the reduction -/

namespace Sys2Proof.Machine

/-! Communication groups (R331 to R341). -/

section GroupDescriptors
variable {s : State} {c : Chan} {n : Nat} {j : Job}

theorem exec_groupDescriptor_of_fault {f : GroupFault} (hready : s.ready c n 0x80 = some j)
    (hkeeps : (s.chan c).nat (j.addr + 2) 2 % 2 = 0) (hfault : s.groupFault c j.addr = some f) :
    exec (.groupDescriptor c n) s = .next (s.refuseGroup c j 0x01 f) := by
  show execGroupDescriptor c n s = _
  simp only [execGroupDescriptor, hready, hkeeps, hfault, zero_ne_one, if_false]

theorem exec_groupDescriptor_of_sound {g : Group} (hready : s.ready c n 0x80 = some j)
    (hkeeps : (s.chan c).nat (j.addr + 2) 2 % 2 = 0) (hsound : s.groupFault c j.addr = none) (hg : g = s.readGroup c j.addr) :
    exec (.groupDescriptor c n) s = .next (if ((s.chan c).comm g.id).isSome then s.refuseGroup c j 0x02 ⟨4, 0⟩
      else (s.onChan c (fun h => { (h.setJob { j with phase := .group g.id }) with
        groups := h.groups ++ [{ g with job := some j.id }] })).sendJoin c { g with job := some j.id }) := by
  subst hg
  show execGroupDescriptor c n s = _
  simp only [execGroupDescriptor, hready, hkeeps, hsound, zero_ne_one, if_false]

section Release
variable (hready : s.ready c n 0x80 = some j) (hflags : (s.chan c).nat (j.addr + 2) 2 = 1)
  (hid : (s.chan c).nat (j.addr + 4) 2 ≤ 1023)
include hready hflags hid

theorem exec_groupRelease_of_unknown (hnone : (s.chan c).comm ((s.chan c).nat (j.addr + 4) 2) = none) :
    exec (.groupRelease c n) s = .next (s.finishJob c j 0 0) := by
  show execGroupRelease c n s = _
  simp only [execGroupRelease, hready, hflags, hnone, Nat.not_lt.2 hid, Nat.reduceMod, one_ne_zero, ne_eq, not_true_eq_false,
    if_false]

theorem exec_groupRelease_of_known {g : Group} (hgroup : (s.chan c).comm ((s.chan c).nat (j.addr + 4) 2) = some g)
    (hjob : g.job = none) :
    exec (.groupRelease c n) s = .next ((s.onChan c (fun h => h.setJob { j with phase := .group g.id })).onComm c g.id
      (fun g => { g with state := .releasing, job := some j.id })) := by
  show execGroupRelease c n s = _
  simp only [execGroupRelease, hready, hflags, hgroup, hjob, Nat.not_lt.2 hid, Nat.reduceMod, one_ne_zero, ne_eq,
    not_true_eq_false, if_false, Option.bind_none]

end Release
end GroupDescriptors

section GroupTimers
variable {s : State} {c : Chan} {n : Nat} {g : Group} (hgroup : (s.chan c).comm n = some g)
include hgroup

theorem exec_groupFree_of_closed (hstate : g.state = .releasing) (hclosed : (s.chan c).segmentsOpen n = false) :
    exec (.groupFree c n) s = .next (s.freeGroup c g) := by
  show execGroupFree c n s = _
  simp [execGroupFree, hgroup, hstate, hclosed]

theorem exec_groupFormTimeout_of_forming (hstate : g.state = .forming) :
    exec (.groupFormTimeout c n) s = .next (s.dropForming c g 0x03 0 0) := by
  show execGroupFormTimeout c n s = _
  simp [execGroupFormTimeout, hgroup, hstate]

theorem exec_joinRepeat_of_forming (hstate : g.state = .forming) (hrun : (s.chan c).linksRun = true) :
    exec (.joinRepeat c n) s = .next (s.sendJoin c g) := by
  show execJoinRepeat c n s = _
  simp [execJoinRepeat, hgroup, hstate, hrun]

theorem exec_heartbeatSend_of_live (hlive : g.live = true) (hrun : (s.chan c).linksRun = true) :
    exec (.heartbeatSend c n) s = .next (s.tellAll c g (g.beatTargets (n == s.ent (kUpd c 1))) 0x05 0 []) := by
  show execHeartbeatSend c n s = _
  simp [execHeartbeatSend, hgroup, hlive, hrun]

theorem exec_ringmasterTimeout_of_linksRun (hrun : (s.chan c).linksRun = true) :
    exec (.ringmasterTimeout c n) s = .next
      ((s.ringmasterGone c n (fun r => r != g.rank && g.silent (s.chan c).clock.timebase r)).payOwed c n) := by
  show execRingmasterTimeout c n s = _
  simp only [execRingmasterTimeout, hgroup, hrun, Bool.not_true, Bool.false_eq_true, if_false]

end GroupTimers

section GroupMessages
variable {s t u : State} {c : Chan} {k : Packet} {g q : Group}

/-- A JOIN of the ringmaster's own block is kept; the last one of the block reports it ready (R334). -/
theorem exec_join_of_ownBlock {r : Nat} (hdelivered : s.delivered c k 0x01 false t g) (hrank : g.rankOf k.source = some r)
    (hstate : g.state = .forming) (hmaster : g.isMaster = true) (hblock : g.blockOf r = g.block)
    (hq : q = { g with joins := g.joins.filter (fun q => q.rank != r) ++ [⟨r, (k.data.drop 16).take 8, k.field 24 2, k.field 26 1,
      k.field 27 1, k.source, k.field 28 2, k.field 30 2⟩] }) (htop : q.joins.length < (q.ranksIn q.block).length ∨ g.isTop = true) :
    exec (.join c k) s = .next (if q.joins.length < (q.ranksIn q.block).length then t.onComm c q.id (fun _ => q)
      else (t.onComm c q.id (fun _ => q)).blockJoined c q ((t.onComm c q.id (fun _ => q)).readyInfo c q)) := by
  subst hq
  refine congrArg Host.Outcome.next ((State.onMessage_delivered hdelivered _).trans ?_)
  simp only [hrank]
  rw [if_neg (by simp [hstate, hmaster, hblock])]
  rcases htop with hmore | htop
  · exact (if_pos hmore).trans (if_pos hmore).symm
  · exact congrArg (fun x => ite _ _ x) (if_pos htop)

theorem exec_admitMsg_of_forming (hdelivered : s.delivered c k 0x03 false t g) (hstate : g.state = .forming)
    (hq : q = { g with
      state := .active, features := k.field 16 2, version := k.field 18 2, job := none, joins := [], readies := [] })
    (hu : u = (t.onComm c g.id (fun _ => q.watchFrom (t.chan c).clock.timebase)).relay c q k) :
    exec (.admitMsg c k) s = .next (match g.job.bind (u.chan c).job with
      | some j => u.completeJob c j 0 0
      | none => u) := by
  subst hu hq
  refine congrArg Host.Outcome.next ((State.onMessage_delivered hdelivered _).trans ?_)
  simp only [hstate, bne_self_eq_false, Bool.false_eq_true, if_false] <;> rfl

theorem exec_newEpoch_of_later (hdelivered : s.delivered c k 0x06 (s.laterEpoch c k) t g)
    (hlater : later32 k.fullEpoch g.epoch = true) (hq : ((t.applyEpoch c g k).chan c).comm g.id = some q) :
    exec (.newEpoch c k) s = .next (if q.top ≠ g.top then ((t.applyEpoch c g k).relay c q k).resendTo c q
      else (t.applyEpoch c g k).relay c q k) := by
  refine congrArg Host.Outcome.next ((State.onMessage_delivered hdelivered _).trans ?_)
  simp only [hlater, hq, Bool.not_true, Bool.false_eq_true, if_false]

theorem exec_takeoverRequest_of_top (hdelivered : s.delivered c k 0x07 true t g) (hlive : g.live = true) (htop : g.isTop = true)
    (hknown : ((s.chan c).comm k.group).isSome = true) (hrank : g.rankOf k.source = some (k.field 16 4)) :
    exec (.takeoverRequest c k) s = .next (t.grantBlock c g (k.field 16 4)) := by
  rw [← hknown] at hdelivered
  refine congrArg Host.Outcome.next ((State.onMessage_delivered hdelivered _).trans (if_pos ?_))
  simp [hlive, htop, hrank]

end GroupMessages

/-- Settles O54: descriptors by their faults, timers by the state of the group, messages by their delivery. -/
theorem groupsFormedAndKept : Obligations.GroupsFormedAndKept := by
  refine ⟨fun c n j g s hready hkeeps => ⟨fun f => exec_groupDescriptor_of_fault hready hkeeps, fun hsound hg =>
      ⟨fun hknown => ?_, fun hnew => ?_⟩⟩,
    fun c n j s hready hflags hid => ⟨exec_groupRelease_of_unknown hready hflags hid,
      fun g => exec_groupRelease_of_known hready hflags hid⟩,
    fun c n g s hgroup => ⟨exec_groupFree_of_closed hgroup, fun hstate => ⟨exec_groupFormTimeout_of_forming hgroup hstate,
      exec_joinRepeat_of_forming hgroup hstate⟩, exec_heartbeatSend_of_live hgroup, exec_ringmasterTimeout_of_linksRun hgroup⟩,
    fun c k t g q r s hdelivered hrank hstate hmaster hblock hq => ⟨fun hmore => ?_, fun hlast htop => ?_⟩,
    fun c k t g s hdelivered hstate htop => ?_, fun c k t u g q s hdelivered hstate hq hu => ⟨fun hnone => ?_, fun i j hi hj => ?_⟩,
    fun c k t g s hdelivered hstate => ?_, fun c k t g r s hdelivered hrank => ?_, fun c k t g s => exec_takeoverRequest_of_top,
    fun c k t g q s hdelivered hlater hq => ⟨fun hsame => ?_, fun hmoved => ?_⟩⟩
  · rw [exec_groupDescriptor_of_sound hready hkeeps hsound hg, if_pos (Option.isSome_iff_ne_none.2 hknown)]
  · rw [exec_groupDescriptor_of_sound hready hkeeps hsound hg, if_neg (by simp [hnew])]
  · rw [exec_join_of_ownBlock hdelivered hrank hstate hmaster hblock hq (.inl hmore), if_pos hmore]
  · rw [exec_join_of_ownBlock hdelivered hrank hstate hmaster hblock hq (.inr htop), if_neg (Nat.not_lt.2 hlast)]
  · exact congrArg _ ((State.onMessage_delivered hdelivered _).trans (if_neg (by simp [hstate, htop])))
  · rw [exec_admitMsg_of_forming hdelivered hstate hq hu, hnone]
    rfl
  · have hwaits : g.job.bind (u.chan c).job = some j := by rw [hi]; exact hj
    rw [exec_admitMsg_of_forming hdelivered hstate hq hu, hwaits]
  · exact congrArg _ ((State.onMessage_delivered hdelivered _).trans (if_neg (by simp [hstate])))
  · refine congrArg _ ((State.onMessage_delivered hdelivered _).trans ?_)
    simp only [hrank]
  · rw [exec_newEpoch_of_later hdelivered hlater hq, if_neg (not_not.2 hsame)]
  · rw [exec_newEpoch_of_later hdelivered hlater hq, if_pos hmoved]

/-! Plans and replicas (R344 to R346, R376, R377). -/

section PlanDescriptors
variable {s : State} {c : Chan} {n : Nat} {j : Job}

section Plans
variable (hready : s.ready c n 0x90 = some j)
include hready

theorem exec_planDescriptor_of_bad {off : Nat} (hkeeps : (s.chan c).releases j.addr = false)
    (hload : s.loadPlan c j.addr = .error off) :
    exec (.planDescriptor c n) s = .next (s.refuseJob c j ⟨0x90, j.addr, off, 0⟩) := by
  refine congrArg Host.Outcome.next ((State.withJob_ready hready _).trans ?_)
  simp only [hkeeps, hload, Bool.false_eq_true, if_false]

theorem exec_planDescriptor_of_loaded {p : Plan} (hkeeps : (s.chan c).releases j.addr = false)
    (hload : s.loadPlan c j.addr = .ok p) :
    exec (.planDescriptor c n) s = .next
      ((s.onChan c (fun h => { h with coll := { h.coll with plans := h.coll.plans ++ [p] } })).finishJob c j 0 0) := by
  refine congrArg Host.Outcome.next ((State.withJob_ready hready _).trans ?_)
  simp only [hkeeps, hload, Bool.false_eq_true, if_false]

theorem exec_planRelease_of_keeps (hkeeps : (s.chan c).releases j.addr = false) : exec (.planRelease c n) s = .next s :=
  congrArg _ ((State.withJob_ready hready _).trans (if_pos (by simp [hkeeps])))

theorem exec_planRelease_of_releases {g : Nat} (hreleases : (s.chan c).releases j.addr = true)
    (hg : g = (s.chan c).nat (j.addr + 4) 2) :
    exec (.planRelease c n) s = .next (if (s.chan c).training.program.isSome then s.refuseJob c j ⟨0x90, j.addr, 0, 0⟩
      else if 1023 < g then s.refuseJob c j ⟨0x90, j.addr, 4, 0⟩
      else (s.onChan c (fun h => { h with coll := { h.coll with
        plans := h.coll.plans.filter (fun p => p.group != g) } })).finishJob c j 0 0) := by
  subst hg
  exact congrArg _ ((State.withJob_ready hready _).trans (if_neg (by simp [hreleases])))

end Plans

section Replicas
variable (hready : s.ready c n 0x92 = some j)
include hready

theorem exec_replicaDescriptor_of_bad {off : Nat} (hkeeps : (s.chan c).releases j.addr = false)
    (hload : s.loadReplica c j.addr = .error off) :
    exec (.replicaDescriptor c n) s = .next (s.refuseJob c j ⟨0x92, j.addr, off, 0⟩) := by
  refine congrArg Host.Outcome.next ((State.withJob_ready hready _).trans ?_)
  simp only [hkeeps, hload, Bool.false_eq_true, if_false]

theorem exec_replicaDescriptor_of_loaded {r : Replica} (hkeeps : (s.chan c).releases j.addr = false)
    (hload : s.loadReplica c j.addr = .ok r) :
    exec (.replicaDescriptor c n) s = .next
      ((s.onChan c (fun h => { h with safety := { h.safety with replica := some r } })).finishJob c j 0 0) := by
  refine congrArg Host.Outcome.next ((State.withJob_ready hready _).trans ?_)
  simp only [hkeeps, hload, Bool.false_eq_true, if_false]

theorem exec_replicaRelease_of_keeps (hkeeps : (s.chan c).releases j.addr = false) : exec (.replicaRelease c n) s = .next s :=
  congrArg _ ((State.withJob_ready hready _).trans (if_pos (by simp [hkeeps])))

section Releases
variable {g : Nat} (hreleases : (s.chan c).releases j.addr = true) (hg : g = (s.chan c).nat (j.addr + 4) 2)
include hreleases hg

theorem exec_replicaRelease_of_other (hother : g ≠ s.ent (kUpd c 1) ∨ 1023 < g) :
    exec (.replicaRelease c n) s = .next (s.refuseJob c j ⟨0x92, j.addr, 4, 0⟩) := by
  subst hg
  refine congrArg Host.Outcome.next ((State.withJob_ready hready _).trans ((if_neg (by simp [hreleases])).trans (if_pos ?_)))
  simpa using hother

theorem exec_replicaRelease_of_commitGroup (hcommit : g = s.ent (kUpd c 1)) (hid : g ≤ 1023) :
    exec (.replicaRelease c n) s = .next ((s.onChan c (fun h => { h with safety := { h.safety with
      replica := h.safety.replica.filter (fun r => r.group != g) } })).finishJob c j 0 0) := by
  subst hg
  refine congrArg Host.Outcome.next ((State.withJob_ready hready _).trans ((if_neg (by simp [hreleases])).trans
    ((if_neg (by simp [← hcommit, Nat.not_lt.2 hid])).trans ?_)))
  refine congrArg (fun t : State => t.finishJob c j 0 0) (State.onChan_congr ?_)
  cases hreplica : (s.chan c).safety.replica with
  | none => rfl
  | some r =>
    by_cases hgroup : r.group = (s.chan c).nat (j.addr + 4) 2
    · simp [Option.filter, hgroup]
    · simp [Option.filter, hgroup]

end Releases
end Replicas

/-! Barriers (R374). -/

section Barriers
variable (hready : s.ready c n 0x91 = some j)
include hready

theorem exec_barrierDescriptor_of_other (hty : (s.chan c).nat j.addr 2 ≠ 0x91) :
    exec (.barrierDescriptor c n) s = .next (s.refuseJob c j ⟨0x91, j.addr, 0, 0⟩) :=
  congrArg _ ((State.withJob_ready hready _).trans (if_pos hty))

theorem exec_barrierDescriptor_of_unknown (hty : (s.chan c).nat j.addr 2 = 0x91)
    (hnone : (s.chan c).comm ((s.chan c).nat (j.addr + 2) 2) = none) :
    exec (.barrierDescriptor c n) s = .next (s.refuseJob c j ⟨0x91, j.addr, 2, 0⟩) := by
  refine congrArg Host.Outcome.next ((State.withJob_ready hready _).trans ((if_neg (not_not.2 hty)).trans ?_))
  simp only [hnone]

theorem exec_barrierDescriptor_of_group {g : Group} (hty : (s.chan c).nat j.addr 2 = 0x91)
    (hgroup : (s.chan c).comm ((s.chan c).nat (j.addr + 2) 2) = some g) :
    exec (.barrierDescriptor c n) s = .next (if g.state = .active then ((s.onChan c (fun h =>
        h.setJob { j with phase := .group g.id })).onComm c g.id (fun g => { g with
          barriers := g.barriers ++ [((s.chan c).nat (j.addr + 4) 4, j.id)] })).sendUp c g 0x30 0
            (leBytes 4 1 ++ leBytes 4 ((s.chan c).nat (j.addr + 4) 4))
      else s.refuseJob c j ⟨0x91, j.addr, 2, 0⟩) := by
  refine congrArg Host.Outcome.next ((State.withJob_ready hready _).trans ((if_neg (not_not.2 hty)).trans ?_))
  by_cases hstate : g.state = .active
  · simp [hgroup, hstate]
  · simp [hgroup, hstate]

end Barriers
end PlanDescriptors

section BarrierMessages
variable {s t u : State} {c : Chan} {k : Packet} {g : Group}

theorem exec_barrierArrive_of_delivered (hdelivered : s.delivered c k 0x30 false t g) :
    exec (.barrierArrive c k) s = .next (match g.arrivalOf k (k.field 20 4) with
      | none => t
      | some a => t.climb c g a (fun _ => leBytes 4 (k.field 20 4)) (fun s _ =>
        s.broadcast c g 0x31 0 ([0#8, 0#8, 0#8, 0#8] ++ leBytes 4 (k.field 20 4)))) :=
  congrArg Host.Outcome.next ((State.onMessage_delivered hdelivered _).trans rfl)

/-- The job of a barrier completes, where it is still there. -/
def State.completeBarrier (c : Chan) (s : State) (b : Nat × Nat) : State :=
  (((s.chan c).job b.2).map (fun j => s.completeJob c j 0 0)).getD s

theorem exec_barrierRelease_of_delivered (hdelivered : s.delivered c k 0x31 false t g)
    (hu : u = (t.relay c g k).onComm c g.id (fun g => { g with barriers := g.barriers.filter (fun b => b.1 != k.field 20 4) })) :
    exec (.barrierRelease c k) s =
      .next ((g.barriers.filter (fun b => b.1 == k.field 20 4)).foldl (State.completeBarrier c) u) := by
  subst hu
  refine congrArg Host.Outcome.next ((State.onMessage_delivered hdelivered _).trans ?_)
  refine congrArg (fun f => List.foldl f _ _) (funext₂ fun s b => ?_)
  cases hjob : (s.chan c).job b.2 with
  | none => simp only [State.completeBarrier, hjob, Option.map_none, Option.getD_none]
  | some j => simp only [State.completeBarrier, hjob, Option.map_some, Option.getD_some]

end BarrierMessages

/-- Settles O55: descriptors by what they load or release, messages by their delivery and their child. -/
theorem plansReplicasAndBarriers : Obligations.PlansReplicasAndBarriers := by
  refine ⟨fun c n j s hready => ⟨fun hkeeps => ⟨fun off => exec_planDescriptor_of_bad hready hkeeps,
      fun p => exec_planDescriptor_of_loaded hready hkeeps, exec_planRelease_of_keeps hready hkeeps⟩,
      fun hreleases => congrArg _ ((State.withJob_ready hready _).trans (if_pos hreleases))⟩,
    fun c n g j s hready hreleases hg => ⟨fun hprog => ?_, fun hprog hid => ?_, fun hprog hid => ?_⟩,
    fun c n j s hready => ⟨fun hkeeps => ⟨fun off => exec_replicaDescriptor_of_bad hready hkeeps,
      fun r => exec_replicaDescriptor_of_loaded hready hkeeps, exec_replicaRelease_of_keeps hready hkeeps⟩,
      fun hreleases => congrArg _ ((State.withJob_ready hready _).trans (if_pos hreleases))⟩,
    fun c n g j s hready hreleases hg => ⟨exec_replicaRelease_of_other hready hreleases hg,
      exec_replicaRelease_of_commitGroup hready hreleases hg⟩,
    fun c n j s hready => ⟨exec_barrierDescriptor_of_other hready, fun hty => ⟨exec_barrierDescriptor_of_unknown hready hty,
      fun g hgroup => ⟨fun hactive => ?_, fun hother => ?_⟩⟩⟩,
    fun f ty hmem c n s hnone => ?_,
    fun c k t g s hdelivered => ⟨fun a ha => ?_, fun hnone => ?_⟩,
    fun c k t u g s hdelivered hu => ⟨exec_barrierRelease_of_delivered hdelivered hu, fun hnone => ?_, fun i j hone hjob => ?_⟩,
    fun f m hmem c k s hnot => ?_⟩
  · rw [exec_planRelease_of_releases hready hreleases hg, if_pos (Option.isSome_iff_ne_none.2 hprog)]
  · rw [exec_planRelease_of_releases hready hreleases hg, if_neg (by simp [hprog]), if_pos hid]
  · rw [exec_planRelease_of_releases hready hreleases hg, if_neg (by simp [hprog]), if_neg (Nat.not_lt.2 hid)]
  · rw [exec_barrierDescriptor_of_group hready hty hgroup, if_pos hactive]
  · rw [exec_barrierDescriptor_of_group hready hty hgroup, if_neg hother]
  · simp only [List.mem_cons, Prod.mk.injEq, List.not_mem_nil, or_false] at hmem
    obtain ⟨rfl, rfl⟩ | ⟨rfl, rfl⟩ | ⟨rfl, rfl⟩ | ⟨rfl, rfl⟩ | ⟨rfl, rfl⟩ := hmem
    · exact congrArg _ (State.withJob_none hnone _)
    · exact congrArg _ (State.withJob_none hnone _)
    · exact congrArg _ (State.withJob_none hnone _)
    · exact congrArg _ (State.withJob_none hnone _)
    · exact congrArg _ (State.withJob_none hnone _)
  · rw [exec_barrierArrive_of_delivered hdelivered, ha]
  · rw [exec_barrierArrive_of_delivered hdelivered, hnone]
  · have hfilter : g.barriers.filter (fun b => b.1 == k.field 20 4) = [] := by simpa using hnone
    rw [exec_barrierRelease_of_delivered hdelivered hu, hfilter]
    rfl
  · have hfilter : g.barriers.filter (fun b => b.1 == k.field 20 4) = [(k.field 20 4, i)] := by simp [hone]
    rw [exec_barrierRelease_of_delivered hdelivered hu, hfilter]
    simp only [List.foldl_cons, List.foldl_nil, State.completeBarrier, hjob, Option.map_some, Option.getD_some]
  · simp only [List.mem_cons, Prod.mk.injEq, List.not_mem_nil, or_false] at hmem
    obtain ⟨rfl, rfl⟩ | ⟨rfl, rfl⟩ := hmem
    · exact congrArg _ (State.onMessage_undelivered hnot _)
    · exact congrArg _ (State.onMessage_undelivered hnot _)

end Sys2Proof.Machine

/-! ### The reduction and the parameters -/

namespace Sys2Proof.Machine

section Buckets
variable {s : State} {c : Chan} {n b step : Nat} {g : Group} {p : Plan} {w : Weight}

/-- A bucket whose turn and gate have come converts; at its combiner once it has a slot (R350, R351). -/
theorem exec_bucketConvert_of_turn (hgroup : (s.chan c).comm n = some g) (hplan : (s.chan c).coll.plan n = some p)
    (hweight : (s.chan c).weight (p.bucket b).weight = some w) (hhanded : w.handed = some step) (hissues : (s.chan c).issues = true)
    (hb : b < p.buckets.length) (hactive : g.state = .active)
    (hbefore : ∀ i, i < b → (p.bucket i).weight = w.id → ((s.chan c).coll.run n step i).converted = true)
    (hnew : ((s.chan c).coll.run n step b).converted = false) (hgate : (s.chan c).gateOpen p step b = true) :
    exec (.bucketConvert c n b) s = .next (if g.combiner b (p.bucket b) g.block = g.rank then
        ((s.claimSlot c n step b).map (fun u => u.convertBucket c g p w step b)).getD s
      else s.convertBucket c g p w step b) := by
  have hnone : (List.range b).any (fun i => (p.bucket i).weight == w.id && !((s.chan c).coll.run n step i).converted) = false := by
    rw [List.any_eq_false]
    intro i hi
    simpa using hbefore i (List.mem_range.1 hi)
  show execBucketConvert c n b s = _
  simp only [execBucketConvert, hgroup, hplan, hweight, hhanded, hissues, hactive, hnone, hnew, hgate, Nat.not_le.2 hb, decide_false,
    bne_self_eq_false, Bool.not_true, Bool.or_self, Bool.false_eq_true, if_false]
  cases s.claimSlot c n step b with
  | none => rfl
  | some u => rfl

end Buckets

section Partials
variable {s u : State} {c : Chan} {k : Packet} {g : Group} {p : Plan}

theorem exec_partialPkt_of_receives (htype : k.ptype = 0x02) (hreceives : s.receives c k = true) :
    exec (.partialPkt c k) s = .next (s.partialArrives c k) :=
  congrArg _ (if_neg (by simp [htype, hreceives]))

section Planned
variable (hcrc : k.e2e = k.crc) (hgroup : (s.chan c).comm k.group = some g) (hplan : (s.chan c).coll.plan k.group = some p)
include hcrc hgroup hplan

theorem State.partialArrives_of_disagreeing (htags : g.tagsAgree k = false) :
    s.partialArrives c k = (s.takeInbox c k).bump c (kLink c 0xD2) := by
  simp only [State.partialArrives, hgroup, hplan, hcrc, htags, beq_self_eq_true, Bool.not_false, Bool.and_self, if_true]

section Agreeing
variable (htags : g.tagsAgree k = true)
include htags

theorem State.partialArrives_of_late (hlate : (s.chan c).lateStep (liftStep (s.chan c).nearStep k.step) = true)
    (hreceive : s.receive c k false = (u, true)) : s.partialArrives c k = u.bump c (kUpd c 0x26) := by
  simp only [State.partialArrives, hgroup, hplan, hcrc, htags, hlate, hreceive, beq_self_eq_true, Bool.not_true, Bool.and_false,
    Bool.false_and, Bool.false_eq_true, if_false, if_true]

section InTime
variable (hintime : (s.chan c).lateStep (liftStep (s.chan c).nearStep k.step) = false)
include hintime

theorem State.partialArrives_of_no_slot
    (hslot : s.claimSlot c g.id (liftStep (s.chan c).nearStep k.step) (k.segment % 16384) = none) :
    s.partialArrives c k = s.holdPartial c k := by
  simp only [State.partialArrives, hgroup, hplan, hcrc, htags, hintime, hslot, beq_self_eq_true, Bool.not_true, Bool.not_false,
    Bool.and_false, Bool.and_self, Option.isNone_none, Bool.false_eq_true, if_false, if_true]

theorem State.partialArrives_of_slot {w : State} {child : Nat}
    (hslot : (s.claimSlot c g.id (liftStep (s.chan c).nearStep k.step) (k.segment % 16384)).isSome = true)
    (hreceive : s.receive c k false = (u, true))
    (hclaim : u.claimSlot c g.id (liftStep (s.chan c).nearStep k.step) (k.segment % 16384) = some w)
    (hchild : g.childOf k.source = some child) :
    s.partialArrives c k = ((List.range (k.data.length / 128)).foldl (fun x i =>
      x.arriveUnit c g p (liftStep (s.chan c).nearStep k.step) (k.segment % 16384) (k.tag.toNat % 1024 + i) child
        ((k.data.drop (128 * i)).take 128)) w).advance c := by
  have hfound : (s.claimSlot c g.id (liftStep (s.chan c).nearStep k.step) (k.segment % 16384)).isNone = false := by
    simpa [Option.isSome_iff_ne_none] using hslot
  simp only [State.partialArrives, hgroup, hplan, hcrc, htags, hintime, hfound, hreceive, hclaim, hchild, beq_self_eq_true,
    Bool.not_true, Bool.not_false, Bool.and_false, Bool.and_self, Bool.false_eq_true, if_false]

end InTime
end Agreeing
end Planned

theorem exec_slotWaitResume_of_freeSlot {e : Option Nat × Packet} {l : List (Option Nat × Packet)}
    (hwait : (s.chan c).coll.waitPartial = e :: l) (hrun : (s.chan c).linksRun = true) (hfree : (s.chan c).coll.freeSlot ≠ none)
    (hu : u = (s.onColl c (fun q => { q with waitPartial := l })).onNet c (fun n => { n with inbox := e :: n.inbox }))
    (hreceives : u.receives c e.2 = true) : exec (.slotWaitResume c) s = .next (u.partialArrives c e.2) := by
  have hslot : (s.chan c).coll.freeSlot.isNone = false := by simpa [Option.isSome_iff_ne_none] using hfree
  subst hu
  show execSlotWaitResume c s = _
  simp only [execSlotWaitResume, hwait, hrun, hslot, hreceives, Bool.not_true, Bool.and_false, Bool.or_self, Bool.false_eq_true,
    if_false, if_true]

end Partials

section Norms
variable {s t u v w : State} {c : Chan} {k : Packet} {g : Group} {p : Plan} {q : StepRun}

theorem exec_norm_of_noted (hdelivered : s.delivered c k 0x21 false t g) (hu : u = t.relay c g k)
    (hplan : (u.chan c).coll.plan g.id = some p) (hstep : (u.chan c).coll.stepRun k.fullStep = some q)
    (h : p.clip = false ∨ (mget none g.id q.norms).isSome = true) : exec (.norm c k) s = .next u := by
  subst hu
  refine congrArg Host.Outcome.next ((State.onMessage_delivered hdelivered _).trans ?_)
  simp only [hplan, hstep]
  refine if_pos ?_
  rcases h with h | h <;> simp [h]

/-- A norm is noted once; one that is not finite skips the step; the buckets of an owner go on (R360). -/
theorem exec_norm_of_new (hdelivered : s.delivered c k 0x21 false t g) (hu : u = t.relay c g k)
    (hplan : (u.chan c).coll.plan g.id = some p) (hstep : (u.chan c).coll.stepRun k.fullStep = some q) (hclip : p.clip = true)
    (hnew : mget none g.id q.norms = none)
    (hv : v = u.onStep c k.fullStep (fun q => { q with
      norms := mset none g.id (some (BitVec.ofNat 32 (k.field 16 4))) q.norms }))
    (hw : w = (if (f32 (BitVec.ofNat 32 (k.field 16 4)).toNat).isFinite then v else v.skipStep c g.id k.fullStep)) :
    exec (.norm c k) s = .next ((p.ownedBy g.rank).foldl (fun s b => (List.range (g.units (p.bucket b))).foldl (fun s u =>
      s.applyUnit c g p k.fullStep b u ((s.chan c).storedGradients g p k.fullStep b u)) s) w) := by
  subst hw hv hu
  refine congrArg Host.Outcome.next ((State.onMessage_delivered hdelivered _).trans ?_)
  simp only [hplan, hstep, hclip, hnew, Option.isSome_none, Bool.not_true, Bool.or_self, Bool.false_eq_true, if_false]

theorem exec_reduced_of_plan (hdelivered : s.delivered c k 0x22 false t g) (hplan : (t.chan c).coll.plan g.id = some p)
    (hu : u = t.onRun c g.id k.fullStep (k.field 16 2) (fun r => { r with gate := true })) :
    exec (.reduced c k) s = .next (if addrBlock k.source = g.block then u
      else u.tellAll c g (g.downTree (k.field 16 2) (p.bucket (k.field 16 2))) 0x22 k.fullStep (leBytes 2 (k.field 16 2))) := by
  subst hu
  refine congrArg Host.Outcome.next ((State.onMessage_delivered hdelivered _).trans ?_)
  simp only [hplan]

end Norms

section Params
variable {s u : State} {c : Chan} {k : Packet} {g : Group} {p : Plan} (htype : k.ptype = 0x03) (hreceives : s.receives c k = true)
  (hreceive : s.receive c k false = (u, true)) (hgroup : (s.chan c).comm k.group = some g)
  (hplan : (s.chan c).coll.plan k.group = some p) (hfill : (s.chan c).safety.fill = none)
include htype hreceives hreceive hgroup hplan hfill

theorem exec_param_of_late (hlate : (s.chan c).lateStep (liftStep (s.chan c).nearStep k.step) = true) :
    exec (.param c k) s = .next (u.bump c (kUpd c 0x26)) := by
  refine congrArg Host.Outcome.next ((if_neg (by simp [htype, hreceives])).trans ?_)
  simp only [State.paramArrives, hreceive, hgroup, hplan, hfill, hlate, Bool.not_true, Bool.false_eq_true, if_false, if_true]

theorem exec_param_of_own {step b : Nat} {w : State} (hstep : step = liftStep (s.chan c).nearStep k.step)
    (hb : b = k.segment % 16384) (hintime : (s.chan c).lateStep step = false) (hown : (p.bucket b).owner = g.rank)
    (hw : w = u.takeParam c g p step b (k.tag.toNat % 1024) k) :
    exec (.param c k) s = .next (if (w.chan c).segmentDone k && !p.clip then w.onRun c g.id step b (fun x => { x with gate := true })
      else w) := by
  subst hw hb hstep
  refine congrArg Host.Outcome.next ((if_neg (by simp [htype, hreceives])).trans ?_)
  simp only [State.paramArrives, hreceive, hgroup, hplan, hfill, hintime, hown, beq_self_eq_true, Bool.not_true, Bool.false_eq_true,
    if_false, if_true]

end Params

/-- Settles O56: a bucket by its combiner, a PARTIAL by its tags and its slot, a norm by what is noted, a PARAM by its step. -/
theorem reductionAndParameters : Obligations.ReductionAndParameters := by
  refine ⟨fun c n b step g p w s hgroup hplan hweight hhanded hissues hb hactive hbefore hnew hgate =>
      ⟨fun hother => ?_, fun hown => ⟨fun u hslot => ?_, fun hnone => ?_⟩⟩,
    fun c k g p s htype hreceives hcrc hgroup hplan => ⟨fun htags => ?_, fun htags hlate u hreceive => ?_,
      fun htags hintime hslot => ?_, fun u w child htags hintime hslot hreceive hclaim hchild => ?_⟩,
    fun c e l s u => exec_slotWaitResume_of_freeSlot, fun c k t g a s hdelivered ha => ?_,
    fun c k t u v w g p q s hdelivered hu hplan hstep => ⟨exec_norm_of_noted hdelivered hu hplan hstep,
      exec_norm_of_new hdelivered hu hplan hstep⟩,
    fun c k t u g p s hdelivered hplan hu => ⟨fun hhere => ?_, fun haway => ?_⟩,
    fun c k g p s u => exec_param_of_late,
    fun c k g p step b s u w htype hreceives hreceive hgroup hplan hfill => exec_param_of_own htype hreceives hreceive hgroup hplan hfill,
    fun c s hnone => ?_⟩
  · rw [exec_bucketConvert_of_turn hgroup hplan hweight hhanded hissues hb hactive hbefore hnew hgate, if_neg hother]
  · rw [exec_bucketConvert_of_turn hgroup hplan hweight hhanded hissues hb hactive hbefore hnew hgate, if_pos hown, hslot]
    rfl
  · rw [exec_bucketConvert_of_turn hgroup hplan hweight hhanded hissues hb hactive hbefore hnew hgate, if_pos hown, hnone]
    rfl
  · rw [exec_partialPkt_of_receives htype hreceives, State.partialArrives_of_disagreeing hcrc hgroup hplan htags]
  · rw [exec_partialPkt_of_receives htype hreceives, State.partialArrives_of_late hcrc hgroup hplan htags hlate hreceive]
  · rw [exec_partialPkt_of_receives htype hreceives, State.partialArrives_of_no_slot hcrc hgroup hplan htags hintime hslot]
  · rw [exec_partialPkt_of_receives htype hreceives,
      State.partialArrives_of_slot hcrc hgroup hplan htags hintime hslot hreceive hclaim hchild]
  · refine congrArg _ ((State.onMessage_delivered hdelivered _).trans ?_)
    simp only [ha]
  · rw [exec_reduced_of_plan hdelivered hplan hu, if_pos hhere]
  · rw [exec_reduced_of_plan hdelivered hplan hu, if_neg haway]
  · show execBankWriteResume c s = _
    simp only [execBankWriteResume, hnone, List.foldl_nil]

end Sys2Proof.Machine

/-! ### The commit of a step -/

namespace Sys2Proof.Machine

/-! PREPARED, SEALED, the digests, RECORDED and COMMIT (R366 to R368). -/

section PreparedSend
variable {s : State} {c : Chan}

theorem exec_preparedSend_of_nothing (h : (s.chan c).coll.lowestStep = none ∨ s.commitGroup c = none) :
    exec (.preparedSend c) s = .next s := by
  show execPreparedSend c s = _
  rcases h with hstep | hgroup
  · simp only [execPreparedSend, hstep]
  · cases hstep : (s.chan c).coll.lowestStep with
    | none => simp only [execPreparedSend, hstep]
    | some q => simp only [execPreparedSend, hstep, hgroup]

theorem exec_preparedSend_of_step {q : StepRun} {g : Group} (hstep : (s.chan c).coll.lowestStep = some q)
    (hgroup : s.commitGroup c = some g) :
    exec (.preparedSend c) s = .next (if !g.live || !(s.chan c).linksRun || !(s.chan c).prepared q then s
      else ((s.onStep c q.step (fun q => { q with prepared := true })).setPhase c q.step 1).sendUp c g 0x10 q.step (leBytes 4 1)) := by
  show execPreparedSend c s = _
  simp only [execPreparedSend, hstep, hgroup]

end PreparedSend

section CommitMessages
variable {s t u : State} {c : Chan} {k : Packet} {g : Group}

theorem exec_prepared_of_delivered (hdelivered : s.delivered c k 0x10 false t g) :
    exec (.prepared c k) s = .next (if (t.chan c).coll.hasAborted k.fullStep then t
      else match g.arrivalOf k 0 with
        | none => t
        | some a => t.climb c g a (fun _ => []) (fun s _ => s.broadcast c g 0x11 k.fullStep [])) :=
  congrArg Host.Outcome.next ((State.onMessage_delivered hdelivered _).trans rfl)

theorem exec_digestUp_of_delivered (hdelivered : s.delivered c k 0x12 false t g) :
    exec (.digestUp c k) s = .next (match g.arrivalOf k 0 with
      | none => t
      | some a => t.climb c g a (fun l => List.replicate 12 0#8 ++ joinDigests l) (fun s l =>
        s.broadcast c g 0x13 k.fullStep (List.replicate 16 0#8 ++ joinDigests l))) :=
  congrArg Host.Outcome.next ((State.onMessage_delivered hdelivered _).trans rfl)

theorem exec_recorded_of_delivered (hdelivered : s.delivered c k 0x14 false t g) :
    exec (.recorded c k) s = .next (match g.arrivalOf k 0 with
      | none => t
      | some a => t.climb c g a (fun _ => []) (fun s _ => s.broadcastCommit c g k.fullStep)) :=
  congrArg Host.Outcome.next ((State.onMessage_delivered hdelivered _).trans rfl)

section Sealed
variable (hdelivered : s.delivered c k 0x11 false t g) (hu : u = t.relay c g k)
include hdelivered hu

theorem exec_sealed_of_step (hstep : (u.chan c).coll.phaseStep = k.fullStep) (hlow : (u.chan c).coll.phase ≠ 0)
    (hhigh : (u.chan c).coll.phase ≤ 3) :
    exec (.sealed c k) s = .next ((if (u.chan c).coll.phase = 1 then u.setPhase c k.fullStep 2 else u).sendUp c g 0x12 k.fullStep
      (leBytes 4 1 ++ List.replicate 12 0#8 ++
        ((if (u.chan c).coll.phase = 1 then u.setPhase c k.fullStep 2 else u).chan c).shardDigest k.fullStep)) := by
  subst hu
  exact congrArg Host.Outcome.next ((State.onMessage_delivered hdelivered _).trans
    (if_neg (by simp [hstep, hlow, Nat.not_lt.2 hhigh])))

theorem exec_sealed_of_other
    (h : (u.chan c).coll.phaseStep ≠ k.fullStep ∨ (u.chan c).coll.phase = 0 ∨ 3 < (u.chan c).coll.phase) :
    exec (.sealed c k) s = .next u := by
  subst hu
  refine congrArg Host.Outcome.next ((State.onMessage_delivered hdelivered _).trans (if_pos ?_))
  simpa [or_assoc] using h

end Sealed

section DigestDown
variable (hdelivered : s.delivered c k 0x13 false t g) (hu : u = t.relay c g k)
include hdelivered hu

theorem exec_digestDown_of_stepRun {q : StepRun} (hrun : (u.chan c).coll.stepRun k.fullStep = some q) :
    exec (.digestDown c k) s = .next (if (u.chan c).coll.phaseStep ≠ k.fullStep then u
      else if (u.chan c).coll.phase = 3 then u.sendUp c g 0x14 k.fullStep (leBytes 4 1)
      else if (u.chan c).coll.phase ≠ 2 then u
      else ((u.memWrite c (u.recordAddr c k.fullStep) (u.pendingRecord c g q ((k.data.drop 32).take 64))).setPhase c
        k.fullStep 3).sendUp c g 0x14 k.fullStep (leBytes 4 1)) := by
  subst hu
  refine congrArg Host.Outcome.next ((State.onMessage_delivered hdelivered _).trans ?_)
  simp only [hrun]

theorem exec_digestDown_of_other (h : (u.chan c).coll.stepRun k.fullStep = none ∨ (u.chan c).coll.phaseStep ≠ k.fullStep ∨
    ((u.chan c).coll.phase ≠ 2 ∧ (u.chan c).coll.phase ≠ 3)) : exec (.digestDown c k) s = .next u := by
  cases hrun : (u.chan c).coll.stepRun k.fullStep with
  | none =>
    subst hu
    refine congrArg Host.Outcome.next ((State.onMessage_delivered hdelivered _).trans ?_)
    simp only [hrun]
  | some q =>
    rw [exec_digestDown_of_stepRun hdelivered hu hrun]
    rcases h with hnone | hstep | ⟨hnot2, hnot3⟩
    · rw [hrun] at hnone
      exact absurd hnone (Option.some_ne_none q)
    · rw [if_pos hstep]
    · rw [if_neg hnot3, if_pos hnot2, ite_self]

end DigestDown

section Commit
variable (hdelivered : s.delivered c k 0x15 false t g) (hu : u = t.relay c g k)
include hdelivered hu

theorem exec_commit_of_stepRun {q : StepRun} (hrun : (u.chan c).coll.stepRun k.fullStep = some q) :
    exec (.commit c k) s = .next (if (u.chan c).coll.phaseStep = k.fullStep ∧ (u.chan c).coll.phase = 3
      then u.commitStep c g q k.key else u) := by
  subst hu
  refine congrArg Host.Outcome.next ((State.onMessage_delivered hdelivered _).trans ?_)
  simp only [hrun]

theorem exec_commit_of_other (h : (u.chan c).coll.stepRun k.fullStep = none ∨ (u.chan c).coll.phaseStep ≠ k.fullStep ∨
    (u.chan c).coll.phase ≠ 3) : exec (.commit c k) s = .next u := by
  cases hrun : (u.chan c).coll.stepRun k.fullStep with
  | none =>
    subst hu
    refine congrArg Host.Outcome.next ((State.onMessage_delivered hdelivered _).trans ?_)
    simp only [hrun]
  | some q =>
    rw [exec_commit_of_stepRun hdelivered hu hrun, if_neg]
    rintro ⟨hstep, hphase⟩
    simp [hrun, hstep, hphase] at h

end Commit

/-! ABORT and the questions of a new top (R370 to R372). -/

section Abort
variable (hdelivered : s.delivered c k 0x16 false t g)
include hdelivered

theorem exec_abort_at_top (htop : g.isTop = true) (hother : k.source ≠ t.address c) :
    exec (.abort c k) s = .next (t.topAbort c g k.fullStep (k.field 16 1) (k.field 20 4)) :=
  congrArg Host.Outcome.next ((State.onMessage_delivered hdelivered _).trans (if_pos (by simp [htop, hother])))

theorem exec_abort_at_member (hu : u = t.relay c g k) (hmember : g.isTop = false ∨ k.source = t.address c) :
    exec (.abort c k) s = .next (if ((u.chan c).training.recordSinceSeed && decide (k.fullStep ≤ (u.chan c).lastStep)) ||
        (u.chan c).coll.abortedFor k.fullStep (k.field 16 1) then u
      else u.abortStep c k.fullStep (k.field 16 1) (k.field 20 4)) := by
  subst hu
  refine congrArg Host.Outcome.next ((State.onMessage_delivered hdelivered _).trans (if_neg ?_))
  rcases hmember with h | h <;> simp [h]

end Abort

section Timeouts

theorem exec_stepTimeout_of_none (hnone : s.commitGroup c = none) : exec (.stepTimeout c) s = .next s := by
  show execStepTimeout c s = _
  simp only [execStepTimeout, hnone]

theorem exec_statusQueryTimeout_of_none (hnone : s.commitGroup c = none) : exec (.statusQueryTimeout c) s = .next s := by
  show execStatusQueryTimeout c s = _
  simp only [execStatusQueryTimeout, hnone]

variable (hgroup : s.commitGroup c = some g)
include hgroup

theorem exec_stepTimeout_of_group :
    exec (.stepTimeout c) s = .next (if !g.isTop || !g.live then s
      else match g.arrivals.find? (fun a => a.msg == 0x10) with
        | some a => s.topAbort c g a.step 0x05 (s.address c)
        | none => s) := by
  show execStepTimeout c s = _
  simp only [execStepTimeout, hgroup] <;> rfl

theorem exec_stepTimeout_of_idle (h : g.isTop = false ∨ g.live = false ∨ ∀ a ∈ g.arrivals, a.msg ≠ 0x10) :
    exec (.stepTimeout c) s = .next s := by
  rw [exec_stepTimeout_of_group hgroup]
  rcases h with h | h | h
  · rw [if_pos (by simp [h])]
  · rw [if_pos (by simp [h])]
  · have hnone : g.arrivals.find? (fun a => a.msg == 0x10) = none := List.find?_eq_none.2 (by simpa using h)
    simp only [hnone, ite_self]

theorem exec_statusQueryTimeout_of_group :
    exec (.statusQueryTimeout c) s = .next (if !g.isTop || g.phases.isEmpty || !(s.chan c).linksRun then s
      else (s.actOnPhases c g).onComm c g.id (fun g => { g with phases := [] })) := by
  show execStatusQueryTimeout c s = _
  simp only [execStatusQueryTimeout, hgroup]

end Timeouts

section Status
variable (hdelivered : s.delivered c k 0x18 false t g)
include hdelivered

theorem exec_status_of_member {r : Nat} (hrank : g.rankOf k.source = some r) :
    exec (.status c k) s = .next (if !g.isTop || g.phases.isEmpty then t
      else t.onComm c g.id (fun g => { g with phases := g.phases.filter (fun q => q.1 != r) ++ [(r, k.field 16 1)] })) := by
  refine congrArg Host.Outcome.next ((State.onMessage_delivered hdelivered _).trans ?_)
  simp only [hrank]

theorem exec_status_of_other (h : g.rankOf k.source = none ∨ g.isTop = false ∨ g.phases = []) :
    exec (.status c k) s = .next t := by
  cases hrank : g.rankOf k.source with
  | none =>
    refine congrArg Host.Outcome.next ((State.onMessage_delivered hdelivered _).trans ?_)
    simp only [hrank]
  | some r =>
    rw [exec_status_of_member hdelivered hrank, if_pos]
    simpa [hrank] using h

end Status
end CommitMessages

/-- Settles O57: each message by the phase that it finds, each timer by the top that it runs at. -/
theorem commitOfAStep : Obligations.CommitOfAStep := by
  refine ⟨fun c s => ⟨exec_preparedSend_of_nothing, fun q g hstep hgroup => ⟨fun hidle => ?_, fun hlive hrun hprepared => ?_⟩⟩,
    fun c k t g s hdelivered => ⟨fun h => ?_, fun a hopen ha => ?_⟩,
    fun c k t u g s hdelivered hu => ⟨fun hstep => ⟨fun hphase => ?_, fun hphase => ?_⟩, exec_sealed_of_other hdelivered hu⟩,
    fun c k t g s hdelivered => ⟨fun a ha => ?_, fun hnone => ?_⟩,
    fun c k t u g s hdelivered hu => ⟨fun q hrun hstep => ⟨fun hphase => ?_, fun hphase => ?_⟩, exec_digestDown_of_other hdelivered hu⟩,
    fun c k t g s hdelivered => ⟨fun a ha => ?_, fun hnone => ?_⟩,
    fun c k t u g s hdelivered hu => ⟨fun q hrun hstep hphase => ?_, exec_commit_of_other hdelivered hu⟩,
    fun c k t u g s hdelivered hu => ⟨exec_abort_at_top hdelivered, fun hmember => ⟨fun hrecord haborted => ?_, fun h => ?_⟩⟩,
    fun c s => ⟨fun hnone => ⟨exec_stepTimeout_of_none hnone, exec_statusQueryTimeout_of_none hnone⟩, fun g hgroup =>
      ⟨fun a htop hlive ha => ?_, exec_stepTimeout_of_idle hgroup, fun htop hasks hrun => ?_, fun hidle => ?_⟩⟩,
    fun c k t g s hdelivered => congrArg _ ((State.onMessage_delivered hdelivered _).trans rfl),
    fun c k t g s hdelivered => ⟨fun r hrank htop hasks => ?_, exec_status_of_other hdelivered⟩,
    fun f m hmem c k s hnot => ?_⟩
  · rw [exec_preparedSend_of_step hstep hgroup, if_pos]
    simpa [or_assoc] using hidle
  · rw [exec_preparedSend_of_step hstep hgroup, if_neg]
    simp [hlive, hrun, hprepared]
  · rw [exec_prepared_of_delivered hdelivered]
    rcases h with haborted | hnone
    · rw [if_pos haborted]
    · simp only [hnone, ite_self]
  · rw [exec_prepared_of_delivered hdelivered, if_neg (by simp [hopen]), ha]
  · rw [exec_sealed_of_step hdelivered hu hstep (by omega) (by omega), if_pos hphase]
  · rw [exec_sealed_of_step hdelivered hu hstep (by omega) (by omega), if_neg (by omega)]
  · rw [exec_digestUp_of_delivered hdelivered, ha]
  · rw [exec_digestUp_of_delivered hdelivered, hnone]
  · rw [exec_digestDown_of_stepRun hdelivered hu hrun, if_neg (not_not.2 hstep), if_pos hphase]
  · rw [exec_digestDown_of_stepRun hdelivered hu hrun, if_neg (not_not.2 hstep), if_neg (by omega), if_neg (not_not.2 hphase)]
  · rw [exec_recorded_of_delivered hdelivered, ha]
  · rw [exec_recorded_of_delivered hdelivered, hnone]
  · rw [exec_commit_of_stepRun hdelivered hu hrun, if_pos ⟨hstep, hphase⟩]
  · rw [exec_abort_at_member hdelivered hu hmember, if_neg]
    rcases hrecord with hrecord | hrecord
    · simp [haborted, hrecord]
    · simp [haborted, hrecord]
  · rw [exec_abort_at_member hdelivered hu hmember, if_pos]
    simpa using h
  · rw [exec_stepTimeout_of_group hgroup, if_neg (by simp [htop, hlive]), ha]
  · rw [exec_statusQueryTimeout_of_group hgroup, if_neg]
    simp [htop, hasks, hrun]
  · rw [exec_statusQueryTimeout_of_group hgroup, if_pos]
    simpa [or_assoc] using hidle
  · rw [exec_status_of_member hdelivered hrank, if_neg]
    simp [htop, hasks]
  · simp only [List.mem_cons, Prod.mk.injEq, List.not_mem_nil, or_false] at hmem
    obtain ⟨rfl, rfl⟩ | ⟨rfl, rfl⟩ | ⟨rfl, rfl⟩ | ⟨rfl, rfl⟩ | ⟨rfl, rfl⟩ | ⟨rfl, rfl⟩ | ⟨rfl, rfl⟩ | ⟨rfl, rfl⟩ | ⟨rfl, rfl⟩ := hmem
    · exact congrArg _ (State.onMessage_undelivered hnot _)
    · exact congrArg _ (State.onMessage_undelivered hnot _)
    · exact congrArg _ (State.onMessage_undelivered hnot _)
    · exact congrArg _ (State.onMessage_undelivered hnot _)
    · exact congrArg _ (State.onMessage_undelivered hnot _)
    · exact congrArg _ (State.onMessage_undelivered hnot _)
    · exact congrArg _ (State.onMessage_undelivered hnot _)
    · exact congrArg _ (State.onMessage_undelivered hnot _)
    · exact congrArg _ (State.onMessage_undelivered hnot _)

end Sys2Proof.Machine

/-! ### Streams of replicas, lost members and spares -/

namespace Sys2Proof.Machine

/-! Streams of replicas and what is secured (R379 to R381, R384). -/

section Replicas
variable {s u : State} {c : Chan} {k : Packet} {b : Bool}

theorem exec_replica_of_ignored (h : k.ptype ≠ 0x04 ∨ s.receives c k = false) : exec (.replica c k) s = .next s :=
  congrArg Host.Outcome.next (if_pos (by simpa using h))

section Received
variable (htype : k.ptype = 0x04) (hreceives : s.receives c k = true)
include htype hreceives

theorem exec_replica_of_image (himage : k.tag.toNat / 2 ^ 29 = 4) (hu : s.receive c k true = (u, b)) :
    exec (.replica c k) s = .next (if b && s.ent (kSafe c 9) != 0 then u.takeImage c k else u) := by
  refine congrArg Host.Outcome.next ((if_neg (by simp [htype, hreceives])).trans ((if_pos himage).trans ?_))
  simp only [hu]

theorem exec_replica_of_planned {g : Group} {p : Plan} (hother : k.tag.toNat / 2 ^ 29 ≠ 4) (hu : s.receive c k false = (u, b))
    (hgroup : (s.chan c).comm k.group = some g) (hplan : (s.chan c).coll.plan k.group = some p) :
    exec (.replica c k) s = .next (if b && decide (k.tag.toNat / 2 ^ 29 < 4) then u.takeReplica c g p k else u) := by
  refine congrArg Host.Outcome.next ((if_neg (by simp [htype, hreceives])).trans ((if_neg hother).trans ?_))
  simp only [hu, hgroup, hplan]

theorem exec_replica_of_dropped (hother : k.tag.toNat / 2 ^ 29 ≠ 4) (hu : s.receive c k false = (u, b))
    (h : (s.chan c).comm k.group = none ∨ (s.chan c).coll.plan k.group = none ∨ b = false ∨ 4 < k.tag.toNat / 2 ^ 29) :
    exec (.replica c k) s = .next u := by
  cases hgroup : (s.chan c).comm k.group with
  | none =>
    refine congrArg Host.Outcome.next ((if_neg (by simp [htype, hreceives])).trans ((if_neg hother).trans ?_))
    simp only [hu, hgroup]
  | some g =>
    cases hplan : (s.chan c).coll.plan k.group with
    | none =>
      refine congrArg Host.Outcome.next ((if_neg (by simp [htype, hreceives])).trans ((if_neg hother).trans ?_))
      simp only [hu, hgroup, hplan]
    | some p =>
      rw [exec_replica_of_planned htype hreceives hother hu hgroup hplan, if_neg]
      simp only [hgroup, hplan, reduceCtorEq, false_or] at h
      rcases h with hb | hkind
      · simp [hb]
      · rw [decide_eq_false (Nat.lt_asymm hkind), Bool.and_false]
        exact Bool.false_ne_true

end Received
end Replicas

section StreamMessages
variable {s t u : State} {c : Chan} {k : Packet} {g : Group}

section ReplicaEnd
variable {rcd : List Byte} {r : Replica} (hdelivered : s.delivered c k 0x41 false t g) (hrcd : rcd = (k.data.drop 32).take 256)
include hdelivered hrcd

theorem exec_replicaEnd_of_own {f : Fill} (hfill : (t.chan c).safety.fill = some f) (hreplica : (t.chan c).safety.replica = some r)
    (hrank : fieldOf rcd 36 4 = g.rank) (hrestore : f.restore = k.fullStep) :
    exec (.replicaEnd c k) s = .next (t.restoreShard c g f rcd k.source) := by
  subst hrcd
  refine congrArg Host.Outcome.next ((State.onMessage_delivered hdelivered _).trans ?_)
  simp only [hfill, hreplica]
  exact if_pos ⟨hrank, hrestore⟩

theorem exec_replicaEnd_of_served (hreplica : (t.chan c).safety.replica = some r)
    (hother : ∀ f, (t.chan c).safety.fill = some f → ¬ (fieldOf rcd 36 4 = g.rank ∧ f.restore = k.fullStep)) :
    exec (.replicaEnd c k) s = .next (if (r.served g.rank).contains (fieldOf rcd 36 4)
      then t.verifyServed c r g (fieldOf rcd 36 4) k.fullStep k.source rcd else t) := by
  subst hrcd
  refine congrArg Host.Outcome.next ((State.onMessage_delivered hdelivered _).trans ?_)
  cases hfill : (t.chan c).safety.fill with
  | none => simp only [hfill, hreplica]
  | some f =>
    simp only [hfill, hreplica]
    exact if_neg (hother f hfill)

omit hrcd in
theorem exec_replicaEnd_of_no_replica (hnone : (t.chan c).safety.replica = none) : exec (.replicaEnd c k) s = .next t := by
  refine congrArg Host.Outcome.next ((State.onMessage_delivered hdelivered _).trans ?_)
  cases hfill : (t.chan c).safety.fill with
  | none => simp only [hnone]
  | some f => simp only [hnone]

end ReplicaEnd

section ReplicaVerified
variable (hdelivered : s.delivered c k 0x42 false t g)
include hdelivered

theorem exec_replicaVerified_of_own (hrank : k.field 20 4 = g.rank) (hstep : k.fullStep = (t.chan c).safety.streamStep)
    (hnew : (t.chan c).safety.streamOk = false) :
    exec (.replicaVerified c k) s = .next
      (if k.field 16 1 = 0 then (t.onSafety c (fun f => { f with streamOk := true })).trySecure c g
      else if (t.chan c).safety.streams < 2 then t.streamOwn c g (t.chan c).safety.streamStep
      else t) :=
  congrArg Host.Outcome.next ((State.onMessage_delivered hdelivered _).trans (if_neg (by simp [hrank, hstep, hnew])))

theorem exec_replicaVerified_of_other
    (h : k.field 20 4 ≠ g.rank ∨ k.fullStep ≠ (t.chan c).safety.streamStep ∨ (t.chan c).safety.streamOk = true) :
    exec (.replicaVerified c k) s = .next t :=
  congrArg Host.Outcome.next ((State.onMessage_delivered hdelivered _).trans (if_pos (by simpa [or_assoc] using h)))

end ReplicaVerified

theorem exec_secure_of_delivered (hdelivered : s.delivered c k 0x43 false t g) :
    exec (.secure c k) s = .next (match g.arrivalOf k 0 with
      | none => t
      | some a => if k.field 20 1 = 1 then
          (if g.isTop then t.topUnwind c g k.fullStep 0x06
          else t.tell c g g.top 0x43 k.fullStep (leBytes 4 a.covered ++ leBytes 1 1))
        else t.climbSecure c g a) :=
  congrArg Host.Outcome.next ((State.onMessage_delivered hdelivered _).trans rfl)

theorem exec_unwind_of_delivered (hdelivered : s.delivered c k 0x45 false t g) (hu : u = t.relay c g k) :
    exec (.unwind c k) s = .next
      (if ((u.chan c).training.recordSinceSeed && (u.chan c).lastStep == k.fullStep) || ((u.chan c).coll.stepRun k.fullStep).isSome
      then u.unwindStep c k.fullStep (k.field 16 1) else u) := by
  subst hu
  exact congrArg Host.Outcome.next ((State.onMessage_delivered hdelivered _).trans rfl)

end StreamMessages

/-! Lost members and the spares that are claimed for them (R382, R383, R386, R387). -/

section Losses
variable {s t u : State} {c : Chan} {k : Packet} {g : Group}

theorem exec_memberHeartbeatTimeout_of_none {rank : Nat} (hnone : s.commitGroup c = none) :
    exec (.memberHeartbeatTimeout c rank) s = .next s := by
  show execMemberHeartbeatTimeout c rank s = _
  simp only [execMemberHeartbeatTimeout, hnone]

theorem exec_memberHeartbeatTimeout_of_group {rank : Nat} (hgroup : s.commitGroup c = some g) :
    exec (.memberHeartbeatTimeout c rank) s = .next
      (if !g.live || !(s.chan c).linksRun || !g.isMaster || rank = g.rank || !(g.ranksIn g.block).contains rank ||
        !g.silent (s.chan c).clock.timebase rank then s else s.reportLost c g rank 0) := by
  show execMemberHeartbeatTimeout c rank s = _
  simp only [execMemberHeartbeatTimeout, hgroup]

section MemberLost
variable (hdelivered : s.delivered c k 0x40 false t g)
include hdelivered

theorem exec_memberLost_of_counted {v : State} {step : Nat} (htop : g.isTop = true) (hcommit : g.id = t.ent (kUpd c 1))
    (haddress : g.address (k.field 20 4) = k.field 16 4) (hnew : ∀ l ∈ (t.chan c).safety.lost, l.address ≠ k.field 16 4)
    (hloss : (t.bump c (kSafe c 0x23)).decideLoss c g (k.field 20 4) = (u, step))
    (hv : v = u.drawFree.2.onSafety c (fun f => { f with
      lost := f.lost ++ [⟨k.field 16 4, k.field 20 4⟩], filling := f.filling.filter (· != k.field 20 4), requested := f.requested.filter (· != k.field 20 4), restore := step })) :
    exec (.memberLost c k) s = .next
      (if ((u.chan c).safety.shardsLost (Config.fresh u.free) (k.field 20 4)).isEmpty then v.claimNext c g
      else v.sendShardsLost c g ((u.chan c).safety.shardsLost (Config.fresh u.free) (k.field 20 4))) := by
  have hany : (t.chan c).safety.lost.any (fun l => l.address == k.field 16 4) = false := by simpa using hnew
  subst hv
  refine congrArg Host.Outcome.next ((State.onMessage_delivered hdelivered _).trans
    ((if_neg (by simp [htop, hcommit, haddress, hany])).trans ?_))
  simp only [hloss]
  rfl

theorem exec_memberLost_of_ignored (h : g.isTop = false ∨ g.id ≠ t.ent (kUpd c 1) ∨ g.address (k.field 20 4) ≠ k.field 16 4 ∨
    ∃ l ∈ (t.chan c).safety.lost, l.address = k.field 16 4) : exec (.memberLost c k) s = .next t := by
  refine congrArg Host.Outcome.next ((State.onMessage_delivered hdelivered _).trans (if_pos ?_))
  simpa [or_assoc] using h

end MemberLost

section SpareClaim

theorem exec_spareClaim_of_other (h : k.ptype ≠ 0x05 ∨ k.msg ≠ 0x46) : exec (.spareClaim c k) s = .next s :=
  congrArg Host.Outcome.next (if_pos (by simpa using h))

variable (htype : k.ptype = 0x05) (hmsg : k.msg = 0x46)
include htype hmsg

theorem exec_spareClaim_of_dropped (hu : s.receive c k true = (u, false)) : exec (.spareClaim c k) s = .next u := by
  refine congrArg Host.Outcome.next ((if_neg (by simp [htype, hmsg])).trans ?_)
  simp only [hu, Bool.not_false, if_true]

theorem exec_spareClaim_of_received {w : State} {why : Nat} (hu : s.receive c k true = (u, true)) (hw : w = u.drawFree.2.drawFree.2)
    (hwhy : why = w.declineReason c (Config.fresh u.free) (Config.fresh u.drawFree.2.free)) :
    exec (.spareClaim c k) s = .next ((if why = 0 then w.setEnt (kSafe c 3) k.fullStep else w).message c k.source k.group k.fullEpoch
      0x47 k.fullStep (leBytes 1 why)) := by
  subst hwhy hw
  refine congrArg Host.Outcome.next ((if_neg (by simp [htype, hmsg])).trans ?_)
  simp only [hu, Bool.not_true, Bool.false_eq_true, if_false]
  rfl

end SpareClaim

section SpareAccept
variable (hdelivered : s.delivered c k 0x47 false t g)
include hdelivered

theorem exec_spareAccept_of_claim {q : Claim} (hclaim : (t.chan c).safety.claim = some q) :
    exec (.spareAccept c k) s = .next (if !g.isTop || q.candidates.head? ≠ some k.source then t
      else if k.field 16 1 = 0 then t.replaceWith c g q k.source
      else t.claimFrom c g { q with candidates := q.candidates.drop 1 }) := by
  refine congrArg Host.Outcome.next ((State.onMessage_delivered hdelivered _).trans ?_)
  simp only [hclaim]

theorem exec_spareAccept_of_no_claim (hnone : (t.chan c).safety.claim = none) : exec (.spareAccept c k) s = .next t := by
  refine congrArg Host.Outcome.next ((State.onMessage_delivered hdelivered _).trans ?_)
  simp only [hnone]

end SpareAccept

section ClaimTimers

theorem exec_claimTimers_of_nothing (h : s.commitGroup c = none ∨ (s.chan c).safety.claim = none) :
    exec (.spareClaimTimeout c) s = .next s ∧ exec (.spareRescan c) s = .next s := by
  show execSpareClaimTimeout c s = _ ∧ execSpareRescan c s = _
  rcases h with hgroup | hclaim
  · simp only [execSpareClaimTimeout, execSpareRescan, hgroup, and_self]
  · cases hgroup : s.commitGroup c with
    | none => simp only [execSpareClaimTimeout, execSpareRescan, hgroup, and_self]
    | some g => simp only [execSpareClaimTimeout, execSpareRescan, hgroup, hclaim, and_self]

variable {q : Claim} (hgroup : s.commitGroup c = some g) (hclaim : (s.chan c).safety.claim = some q)
include hgroup hclaim

theorem exec_spareClaimTimeout_of_claim :
    exec (.spareClaimTimeout c) s = .next (if !g.isTop || !(s.chan c).linksRun || q.candidates.isEmpty then s
      else s.claimFrom c g { q with candidates := q.candidates.drop 1 }) := by
  show execSpareClaimTimeout c s = _
  simp only [execSpareClaimTimeout, hgroup, hclaim]

theorem exec_spareRescan_of_claim :
    exec (.spareRescan c) s = .next (if !g.isTop || !(s.chan c).linksRun || !q.dry then s
      else s.claimFrom c g { q with candidates := (s.chan c).candidates g q.lost }) := by
  show execSpareRescan c s = _
  simp only [execSpareRescan, hgroup, hclaim]

end ClaimTimers

theorem exec_replace_of_delivered (hdelivered : s.delivered c k 0x48 (s.laterEpoch c k) t g) :
    exec (.replace c k) s = .next (if !later32 k.fullEpoch g.epoch then t
      else (t.relay c { g with epoch := k.fullEpoch } k).applyReplace c g.id (k.field 16 4) (k.field 20 4) (k.field 24 4)
        (k.field 28 4) k.fullStep k.fullEpoch) :=
  congrArg Host.Outcome.next ((State.onMessage_delivered hdelivered _).trans rfl)

end Losses

/-- Settles O58: streams by what they carry, losses and claims by the top that counts them. -/
theorem streamsLossesAndSpares : Obligations.StreamsLossesAndSpares := by
  refine ⟨fun c k s => ⟨exec_replica_of_ignored, fun htype hreceives => ⟨fun u b himage hu => ⟨fun hb hcount => ?_, fun h => ?_⟩,
      fun u b hother hu => ⟨fun g p hgroup hplan hb hkind => ?_, exec_replica_of_dropped htype hreceives hother hu⟩⟩⟩,
    fun c k t g rcd s hdelivered hrcd => ⟨fun f r => exec_replicaEnd_of_own hdelivered hrcd, fun r hreplica hother =>
      ⟨fun hserved => ?_, fun hunserved => ?_⟩, exec_replicaEnd_of_no_replica hdelivered⟩,
    fun c k t g s hdelivered => ⟨fun hrank hstep hnew => ⟨fun hok => ?_, fun hbad hfew => ?_, fun hbad hmany => ?_⟩,
      exec_replicaVerified_of_other hdelivered⟩,
    fun c k t g s hdelivered => ⟨fun a ha => ⟨fun hbad htop => ?_, fun hbad hmember => ?_, fun hok => ?_⟩, fun hnone => ?_⟩,
    fun c k t g s hdelivered => congrArg _ ((State.onMessage_delivered hdelivered _).trans rfl),
    fun c k t u g s hdelivered hu => ⟨fun h => ?_, fun hlast hnone => ?_⟩,
    fun c rank s => ⟨exec_memberHeartbeatTimeout_of_none, fun g hgroup =>
      ⟨fun hlive hrun hmaster hother hin hsilent => ?_, fun h => ?_⟩⟩,
    fun c k t g s hdelivered => ⟨fun u v step htop hcommit haddress hnew hloss hv => ⟨fun hkept => ?_, fun hgone => ?_⟩,
      exec_memberLost_of_ignored hdelivered⟩,
    fun c k s => ⟨exec_spareClaim_of_other, fun htype hmsg u b hu => ⟨fun hb => ?_, fun hb w why hw hwhy =>
      ⟨fun haccepts => ?_, fun hdeclines => ?_⟩⟩⟩,
    fun c k t g s hdelivered => ⟨fun q hclaim => ⟨fun htop hhead hok => ?_, fun htop hhead hbad => ?_, fun h => ?_⟩,
      exec_spareAccept_of_no_claim hdelivered⟩,
    fun c s => ⟨exec_claimTimers_of_nothing, fun g q hgroup hclaim => ⟨fun htop hrun => ⟨fun hasked => ?_, fun hdry => ?_⟩,
      fun h => ?_, fun h => ?_⟩⟩,
    fun c k t g s hdelivered => ⟨fun hlater => ?_, fun hold => ?_⟩,
    fun f m hmem c k s hnot => ?_,
    fun c k s hnot => congrArg _ (State.onMessage_undelivered hnot _)⟩
  · rw [exec_replica_of_image htype hreceives himage hu, if_pos]
    simp [hb, hcount]
  · rw [exec_replica_of_image htype hreceives himage hu, if_neg]
    rcases h with h | h
    · simp [h]
    · simp [h]
  · rw [exec_replica_of_planned htype hreceives hother hu hgroup hplan, if_pos]
    rw [hb, decide_eq_true hkind, Bool.and_self]
  · rw [exec_replicaEnd_of_served hdelivered hrcd hreplica hother, if_pos (List.contains_iff_mem.2 hserved)]
  · rw [exec_replicaEnd_of_served hdelivered hrcd hreplica hother, if_neg (mt List.contains_iff_mem.1 hunserved)]
  · rw [exec_replicaVerified_of_own hdelivered hrank hstep hnew, if_pos hok]
  · rw [exec_replicaVerified_of_own hdelivered hrank hstep hnew, if_neg hbad, if_pos hfew]
  · rw [exec_replicaVerified_of_own hdelivered hrank hstep hnew, if_neg hbad, if_neg (Nat.not_lt.2 hmany)]
  · simp only [exec_secure_of_delivered hdelivered, ha, if_pos hbad, if_pos htop]
  · simp only [exec_secure_of_delivered hdelivered, ha, if_pos hbad, hmember, Bool.false_eq_true, if_false]
  · simp only [exec_secure_of_delivered hdelivered, ha, if_neg hok, State.climbSecure]
  · rw [exec_secure_of_delivered hdelivered, hnone]
  · rw [exec_unwind_of_delivered hdelivered hu, if_pos]
    simpa [Option.isSome_iff_ne_none] using h
  · rw [exec_unwind_of_delivered hdelivered hu, if_neg]
    rcases hlast with h | h
    · simp [h, hnone]
    · simp [h, hnone]
  · rw [exec_memberHeartbeatTimeout_of_group hgroup, if_neg]
    simp [hlive, hrun, hmaster, hother, hin, hsilent]
  · rw [exec_memberHeartbeatTimeout_of_group hgroup, if_pos]
    simpa [or_assoc] using h
  · rw [exec_memberLost_of_counted hdelivered htop hcommit haddress hnew hloss hv, if_pos (List.isEmpty_iff.2 hkept)]
  · rw [exec_memberLost_of_counted hdelivered htop hcommit haddress hnew hloss hv, if_neg (mt List.isEmpty_iff.1 hgone)]
  · exact exec_spareClaim_of_dropped htype hmsg (hb ▸ hu)
  · rw [exec_spareClaim_of_received htype hmsg (hb ▸ hu) hw hwhy, if_pos haccepts, haccepts]
  · rw [exec_spareClaim_of_received htype hmsg (hb ▸ hu) hw hwhy, if_neg hdeclines]
  · rw [exec_spareAccept_of_claim hdelivered hclaim, if_neg (by simp [htop, hhead]), if_pos hok]
  · rw [exec_spareAccept_of_claim hdelivered hclaim, if_neg (by simp [htop, hhead]), if_neg hbad]
  · rw [exec_spareAccept_of_claim hdelivered hclaim, if_pos]
    simpa using h
  · rw [exec_spareClaimTimeout_of_claim hgroup hclaim, if_neg]
    simp [htop, hrun, hasked]
  · rw [exec_spareRescan_of_claim hgroup hclaim, if_neg]
    simp [htop, hrun, hdry]
  · rw [exec_spareClaimTimeout_of_claim hgroup hclaim, if_pos]
    simpa [or_assoc] using h
  · rw [exec_spareRescan_of_claim hgroup hclaim, if_pos]
    simpa [or_assoc] using h
  · rw [exec_replace_of_delivered hdelivered, if_neg (by simp [hlater])]
  · rw [exec_replace_of_delivered hdelivered, if_pos (by simp [hold])]
  · simp only [List.mem_cons, Prod.mk.injEq, List.not_mem_nil, or_false] at hmem
    obtain ⟨rfl, rfl⟩ | ⟨rfl, rfl⟩ | ⟨rfl, rfl⟩ | ⟨rfl, rfl⟩ | ⟨rfl, rfl⟩ | ⟨rfl, rfl⟩ | ⟨rfl, rfl⟩ := hmem
    · exact congrArg _ (State.onMessage_undelivered hnot _)
    · exact congrArg _ (State.onMessage_undelivered hnot _)
    · exact congrArg _ (State.onMessage_undelivered hnot _)
    · exact congrArg _ (State.onMessage_undelivered hnot _)
    · exact congrArg _ (State.onMessage_undelivered hnot _)
    · exact congrArg _ (State.onMessage_undelivered hnot _)
    · exact congrArg _ (State.onMessage_undelivered hnot _)

end Sys2Proof.Machine

/-! ### Fills of spares and resets of groups -/

namespace Sys2Proof.Machine

/-! The fill of a spare (R391 to R393). -/

section Fill
variable {s : State} {c : Chan}

theorem Channel.id_of_comm {h : Channel} {n : Nat} {g : Group} (hgroup : h.comm n = some g) : g.id = n := by
  simpa using List.find?_some hgroup

/-- A fill descriptor without fault names the channel's COMMIT_GROUP. -/
theorem State.commitGroup_of_fillRefusal_none {a : Nat} (hsound : s.fillRefusal c a = none) :
    ∃ g, s.commitGroup c = some g := by
  unfold State.fillRefusal at hsound
  dsimp only at hsound
  split at hsound
  · exact absurd hsound (Option.some_ne_none _)
  · split at hsound
    · exact absurd hsound (Option.some_ne_none _)
    next g hgroup =>
      split at hsound
      · exact absurd hsound (Option.some_ne_none _)
      next hnamed =>
        have hid : g.id = s.ent (kUpd c 1) := by
          by_contra hne
          simp [hne] at hnamed
        rw [Channel.id_of_comm hgroup] at hid
        exact ⟨g, (congrArg (s.chan c).comm hid).symm.trans hgroup⟩

theorem State.requestFill_of_top {g : Group} {step : Nat}
    (h : (s.chan c).buddy g = none ∨ (s.chan c).buddy g = some g.top) :
    s.requestFill c g step = s.tell c g g.top 0x49 step (leBytes 4 g.rank) := by
  rcases h with hbuddy | hbuddy
  · simp only [State.requestFill, hbuddy]
  · simp only [State.requestFill, hbuddy, if_true]

theorem State.requestFill_of_buddy {g : Group} {step b : Nat} (hbuddy : (s.chan c).buddy g = some b) (hb : b ≠ g.top) :
    s.requestFill c g step = (s.tell c g b 0x49 step (leBytes 4 g.rank)).tell c g g.top 0x49 step (leBytes 4 g.rank) := by
  simp only [State.requestFill, hbuddy, hb, if_false]

section Descriptor
variable {n : Nat} {j : Job} (hready : s.ready c n 0x93 = some j)
include hready

theorem exec_fillDescriptor_of_bad {off : Nat} (hbad : s.fillRefusal c j.addr = some off) :
    exec (.fillDescriptor c n) s = .next (s.refuseJob c j ⟨0x93, j.addr, off, 0⟩) := by
  refine congrArg Host.Outcome.next ((State.withJob_ready hready _).trans ?_)
  cases hgroup : s.commitGroup c with
  | none => simp only [hbad]
  | some g => simp only [hbad]

theorem exec_fillDescriptor_of_sound {u : State} {g : Group} (hsound : s.fillRefusal c j.addr = none)
    (hgroup : s.commitGroup c = some g)
    (hu : u = ((s.onChan c (fun h => h.setJob { j with phase := .group g.id })).onSafety c (fun f => { f with fill := some ⟨j.id, g.id,
      s.ent (kSafe c 3), false, false, [], ((s.chan c).plansOf (s.ent (kSafe c 3))).flatMap (fun p =>
        (List.range p.buckets.length).map (fun b => (p.group, b)))⟩ })).setEnt (kSafe c 1) 2) :
    exec (.fillDescriptor c n) s = .next (u.requestFill c g (s.ent (kSafe c 3))) := by
  subst hu
  refine congrArg Host.Outcome.next ((State.withJob_ready hready _).trans ?_)
  simp only [hsound, hgroup]

end Descriptor
end Fill

section FillMessages
variable {s t u v : State} {c : Chan} {k : Packet} {g : Group}

theorem exec_fillRequest_of_delivered (hdelivered : s.delivered c k 0x49 false t g)
    (hu : u = (match (t.chan c).safety.replica with
      | some r => if (r.served g.rank).contains (k.field 16 4) then t.streamBank c r g (k.field 16 4) k.fullStep else t
      | none => t)) :
    exec (.fillRequest c k) s = .next (if g.isTop then (u.onSafety c (fun f => { f with
        requested := f.requested.filter (· != k.field 16 4) ++ [k.field 16 4] })).broadcast c g 0x4A k.fullStep
          (leBytes 4 (g.address (k.field 16 4)))
      else u) := by
  subst hu
  exact congrArg Host.Outcome.next ((State.onMessage_delivered hdelivered _).trans rfl)

section ParamResend
variable (hdelivered : s.delivered c k 0x4A false t g) (hu : u = t.relay c g k)
include hdelivered hu

theorem exec_paramResend_of_delivered :
    exec (.paramResend c k) s = .next (if k.field 16 4 = u.address c then u
      else if (u.chan c).safety.fill.any (fun f => !f.shardDone) then
        u.onSafety c (fun f => { f with owedParams := f.owedParams ++ [(k.field 16 4, k.fullStep)] })
      else u.answerResend c g (k.field 16 4) k.fullStep) := by
  subst hu
  exact congrArg Host.Outcome.next ((State.onMessage_delivered hdelivered _).trans rfl)

theorem exec_paramResend_of_restored (hother : k.field 16 4 ≠ u.address c)
    (hdone : ∀ f, (u.chan c).safety.fill = some f → f.shardDone = true) :
    exec (.paramResend c k) s = .next (u.answerResend c g (k.field 16 4) k.fullStep) := by
  have hany : (u.chan c).safety.fill.any (fun f => !f.shardDone) = false := by
    cases hfill : (u.chan c).safety.fill with
    | none => rfl
    | some f => simp [hdone f hfill]
  rw [exec_paramResend_of_delivered hdelivered hu, if_neg hother, hany, if_neg Bool.false_ne_true]

end ParamResend

theorem State.answerResend_of_other {spare step : Nat} (hv : v = u.resendParams c spare step)
    (hother : ∀ b, (v.chan c).buddy g = some b → g.address b ≠ spare) : u.answerResend c g spare step = v := by
  subst hv
  cases hbuddy : ((u.resendParams c spare step).chan c).buddy g with
  | none => simp only [State.answerResend, hbuddy]
  | some b => simp only [State.answerResend, hbuddy, if_neg (hother b hbuddy)]

theorem State.answerResend_of_buddy {spare step b : Nat} (hv : v = u.resendParams c spare step)
    (hbuddy : (v.chan c).buddy g = some b) (hspare : g.address b = spare) :
    u.answerResend c g spare step = (v.onSafety c (fun f => { f with streams := 0 })).streamOwn c g step := by
  subst hv
  simp only [State.answerResend, hbuddy, if_pos hspare]

section Filled
variable (hdelivered : s.delivered c k 0x4B false t g)
include hdelivered

theorem exec_filled_of_other (h : g.isTop = false ∨ k.field 16 4 ∉ (t.chan c).safety.filling) : exec (.filled c k) s = .next t :=
  congrArg Host.Outcome.next ((State.onMessage_delivered hdelivered _).trans (if_pos (by simpa using h)))

theorem exec_filled_of_filling (htop : g.isTop = true) (hin : k.field 16 4 ∈ (t.chan c).safety.filling)
    (hu : u = t.onSafety c (fun f => { f with
      filling := (t.chan c).safety.filling.filter (· != k.field 16 4), requested := f.requested.filter (· != k.field 16 4) })) :
    exec (.filled c k) s = .next (if k.field 20 1 = 1 then t.sendShardsLost c g [k.field 16 4]
      else if ((t.chan c).safety.filling.filter (· != k.field 16 4)).isEmpty && (t.chan c).safety.lost.isEmpty then
        u.broadcast c g 0x4C (t.chan c).safety.restore (leBytes 4 (t.chan c).safety.replaced)
      else u) := by
  subst hu
  exact congrArg Host.Outcome.next ((State.onMessage_delivered hdelivered _).trans (if_neg (by simp [htop, hin])))

end Filled

/-- SHARDS_LOST ends the fill of the channel with its descriptor, if it waits for one (R394). -/
theorem exec_shardsLost_of_delivered {r : State} {lost : List Nat} (hdelivered : s.delivered c k 0x4D false t g)
    (hlost : lost = (List.range (min (k.field 16 4) 120)).map (fun i => k.field (20 + 4 * i) 4))
    (hr : r = ((((t.chan c).groups.filter (fun q => q.id == g.id || q.members.any (fun a => (lost.map g.address).contains a))).map
      (fun q => q.id)).foldl (fun s i => s.silenceGroup c i) t).relay c g k)
    (hu : u = r.onChan c (fun h => { h with
      groups := h.groups.map (fun q => if q.id == g.id || q.members.any (fun a => (lost.map g.address).contains a)
        then { q with state := .failed } else q),
      safety := { h.safety with
        lostRanks := lost, fill := none, lost := [], claim := none, filling := [], requested := [], reported := [], filled := none, owedParams := [] } }))
    (hv : v = (((r.chan c).safety.fill.map (fun f => f.job)).bind (u.chan c).job).elim u (fun j => u.failJob c j 0x03 0 0)) :
    exec (.shardsLost c k) s = .next ((((v.orderAbandon c).setEnt (kSafe c 1) 3).bumpBy c (kSafe c 0x27) (k.field 16 4)).raise c 0x0082
      (leBytes 4 (k.field 16 4) ++ leBytes 8 k.fullStep ++ leBytes 4 (lost.headD 0))) := by
  subst hv hu hr hlost
  refine congrArg Host.Outcome.next ((State.onMessage_delivered hdelivered _).trans ?_)
  refine congrArg (fun v : State => (((v.orderAbandon c).setEnt (kSafe c 1) 3).bumpBy c (kSafe c 0x27) (k.field 16 4)).raise c 0x0082 _) ?_
  split
  next j hjob => rw [hjob, Option.elim_some]
  next hnone => rw [hnone, Option.elim_none]

end FillMessages

/-! The reset of a group (R397). -/

section Resets
variable {s t u : State} {c : Chan} {k : Packet} {g : Group}

section Descriptor
variable {n : Nat} {j : Job} (hready : s.ready c n 0x94 = some j)
include hready

theorem exec_resetDescriptor_of_other (hty : (s.chan c).nat j.addr 2 ≠ 0x94) :
    exec (.resetDescriptor c n) s = .next (s.refuseJob c j ⟨0x94, j.addr, 0, 0⟩) :=
  congrArg _ ((State.withJob_ready hready _).trans (if_pos hty))

variable (hty : (s.chan c).nat j.addr 2 = 0x94)
include hty

theorem exec_resetDescriptor_of_unknown (hnone : (s.chan c).comm ((s.chan c).nat (j.addr + 4) 2) = none) :
    exec (.resetDescriptor c n) s = .next (s.refuseJob c j ⟨0x94, j.addr, 4, 0⟩) := by
  refine congrArg Host.Outcome.next ((State.withJob_ready hready _).trans ((if_neg (not_not.2 hty)).trans ?_))
  simp only [hnone]

theorem exec_resetDescriptor_of_group (hgroup : (s.chan c).comm ((s.chan c).nat (j.addr + 4) 2) = some g)
    (hu : u = (s.onChan c (fun h => h.setJob { j with phase := .group g.id })).onComm c g.id
      (fun g => { g with resets := g.resets ++ [j.id] })) :
    exec (.resetDescriptor c n) s = .next (if !g.live then s.refuseJob c j ⟨0x94, j.addr, 4, 0⟩
      else if g.isTop then u.broadcast c g 0x4E 0 [] else u.tell c g g.top 0x4E 0 []) := by
  subst hu
  refine congrArg Host.Outcome.next ((State.withJob_ready hready _).trans ((if_neg (not_not.2 hty)).trans ?_))
  simp only [hgroup]

end Descriptor

section ResetMessage
variable (hdelivered : s.delivered c k 0x4E false t g)
include hdelivered

theorem exec_resetMsg_at_top (htop : g.isTop = true) (hother : k.source ≠ t.address c) :
    exec (.resetMsg c k) s = .next (t.broadcast c g 0x4E 0 []) :=
  congrArg Host.Outcome.next ((State.onMessage_delivered hdelivered _).trans (if_pos (by simp [htop, hother])))

theorem exec_resetMsg_at_member (h : g.isTop = false ∨ k.source = t.address c) :
    exec (.resetMsg c k) s = .next (((t.relay c g k).resetMember c g.id).sendUp c g 0x4F 0 (leBytes 4 1)) := by
  refine congrArg Host.Outcome.next ((State.onMessage_delivered hdelivered _).trans (if_neg ?_))
  rcases h with h | h <;> simp [h]

end ResetMessage

theorem exec_resetDone_of_delivered (hdelivered : s.delivered c k 0x4F false t g) :
    exec (.resetDone c k) s = .next (match g.arrivalOf k 0 with
      | none => t
      | some a => t.climb c g a (fun _ => []) (fun s _ => s.broadcast c g 0x50 0 [])) :=
  congrArg Host.Outcome.next ((State.onMessage_delivered hdelivered _).trans rfl)

theorem exec_resetRelease_of_delivered (hdelivered : s.delivered c k 0x50 false t g)
    (hu : u = (t.relay c g k).onComm c g.id (fun g => { g with resets := [] })) :
    exec (.resetRelease c k) s = .next (g.resets.foldl (fun s i =>
      (((s.chan c).job i).map (fun j => s.completeJob c j 0 0)).getD s) u) := by
  subst hu
  refine congrArg Host.Outcome.next ((State.onMessage_delivered hdelivered _).trans ?_)
  refine congrArg (fun f => List.foldl f _ _) (funext₂ fun s i => ?_)
  cases (s.chan c).job i with
  | none => rfl
  | some j => rfl

end Resets

/-- Settles O59: descriptors by what they name, messages by the part that the channel plays in the rebuild. -/
theorem fillsAndResets : Obligations.FillsAndResets := by
  refine ⟨fun c n j s hready => ⟨fun off => exec_fillDescriptor_of_bad hready, fun hsound => ?_⟩,
    fun c k t u g s hdelivered hu => ⟨fun htop => ?_, fun hmember => ?_⟩,
    fun c k t u v g s hdelivered hu hv => ⟨fun hself => ?_, fun f hother hfill hdone => ?_, fun hother hdone =>
      ⟨fun hfar => ?_, fun b hbuddy hspare => ?_⟩⟩,
    fun c k t u g s hdelivered hu => ⟨exec_filled_of_other hdelivered, fun htop hin => ⟨fun hfailed => ?_, fun hok hlost hall => ?_,
      fun hok hopen => ?_⟩⟩,
    fun c k t u g s hdelivered hu => hu ▸ congrArg _ ((State.onMessage_delivered hdelivered _).trans rfl),
    fun c k t r u w g lost s hdelivered hlost hr hu hw => exec_shardsLost_of_delivered hdelivered hlost hr hu ?_,
    fun c n j s hready => ⟨exec_resetDescriptor_of_other hready, fun hty => ⟨exec_resetDescriptor_of_unknown hready hty,
      fun g u hgroup hu => ⟨fun hdead => ?_, fun hlive htop => ?_, fun hlive hmember => ?_⟩⟩⟩,
    fun f ty hmem c n s hnone => ?_,
    fun c k t g s hdelivered => ⟨exec_resetMsg_at_top hdelivered, exec_resetMsg_at_member hdelivered⟩,
    fun c k t g s hdelivered => ⟨fun a ha => ?_, fun hnone => ?_⟩,
    fun c k t u g s hdelivered hu => ⟨exec_resetRelease_of_delivered hdelivered hu, fun hnone => ?_, fun i j hone hjob => ?_⟩,
    fun f m hmem c k s hnot => ?_⟩
  · obtain ⟨g, hgroup⟩ := State.commitGroup_of_fillRefusal_none hsound
    exact ⟨g, _, hgroup, rfl, exec_fillDescriptor_of_sound hready hsound hgroup rfl, State.requestFill_of_top,
      fun b => State.requestFill_of_buddy⟩
  · rw [exec_fillRequest_of_delivered hdelivered hu, if_pos htop]
  · rw [exec_fillRequest_of_delivered hdelivered hu, if_neg (by simp [hmember])]
  · rw [exec_paramResend_of_delivered hdelivered hu, if_pos hself]
  · rw [exec_paramResend_of_delivered hdelivered hu, if_neg hother, if_pos]
    simp [hfill, hdone]
  · rw [exec_paramResend_of_restored hdelivered hu hother hdone, State.answerResend_of_other hv hfar]
  · rw [exec_paramResend_of_restored hdelivered hu hother hdone, State.answerResend_of_buddy hv hbuddy hspare]
  · rw [exec_filled_of_filling hdelivered htop hin hu, if_pos hfailed]
  · rw [exec_filled_of_filling hdelivered htop hin hu, if_neg hok, if_pos]
    simpa [hlost] using hall
  · rw [exec_filled_of_filling hdelivered htop hin hu, if_neg hok, if_neg]
    rcases hopen with hlost | ⟨r, hr, hne⟩
    · simp [hlost]
    · simpa using fun hall => absurd (hall r hr) hne
  · obtain ⟨rfl, hfill | ⟨f, hfill, hjob⟩⟩ | ⟨f, j, hfill, hjob, rfl⟩ := hw
    · rw [hfill]
      rfl
    · rw [hfill, Option.map_some, Option.bind_some, hjob]
      rfl
    · rw [hfill, Option.map_some, Option.bind_some, hjob]
      rfl
  · rw [exec_resetDescriptor_of_group hready hty hgroup hu, if_pos (by simp [hdead])]
  · rw [exec_resetDescriptor_of_group hready hty hgroup hu, if_neg (by simp [hlive]), if_pos htop]
  · rw [exec_resetDescriptor_of_group hready hty hgroup hu, if_neg (by simp [hlive]), if_neg (by simp [hmember])]
  · simp only [List.mem_cons, Prod.mk.injEq, List.not_mem_nil, or_false] at hmem
    obtain ⟨rfl, rfl⟩ | ⟨rfl, rfl⟩ := hmem
    · exact congrArg _ (State.withJob_none hnone _)
    · exact congrArg _ (State.withJob_none hnone _)
  · rw [exec_resetDone_of_delivered hdelivered, ha]
  · rw [exec_resetDone_of_delivered hdelivered, hnone]
  · rw [exec_resetRelease_of_delivered hdelivered hu, hnone, List.foldl_nil]
  · rw [exec_resetRelease_of_delivered hdelivered hu, hone, List.foldl_cons, List.foldl_nil, hjob, Option.map_some,
      Option.getD_some]
  · simp only [List.mem_cons, Prod.mk.injEq, List.not_mem_nil, or_false] at hmem
    obtain ⟨rfl, rfl⟩ | ⟨rfl, rfl⟩ | ⟨rfl, rfl⟩ | ⟨rfl, rfl⟩ | ⟨rfl, rfl⟩ | ⟨rfl, rfl⟩ | ⟨rfl, rfl⟩ | ⟨rfl, rfl⟩ := hmem
    · exact congrArg _ (State.onMessage_undelivered hnot _)
    · exact congrArg _ (State.onMessage_undelivered hnot _)
    · exact congrArg _ (State.onMessage_undelivered hnot _)
    · exact congrArg _ (State.onMessage_undelivered hnot _)
    · exact congrArg _ (State.onMessage_undelivered hnot _)
    · exact congrArg _ (State.onMessage_undelivered hnot _)
    · exact congrArg _ (State.onMessage_undelivered hnot _)
    · exact congrArg _ (State.onMessage_undelivered hnot _)

end Sys2Proof.Machine

/-! ### Every command completes -/

namespace Sys2Proof.Machine

/-- The three commands of bursts stop where their burst is misplaced; every other one has a next state by its own equation. -/
theorem exec_completes_or_misplaced (i : Instr) (s : State) : (∃ t : State, exec i s = .next t) ∨
    (exec i s = .fault .noSuchBurst ∧
      ((∃ c b m w, i = .accumulateWrite c b m w ∧ burstOk b = false) ∨ (∃ c b, i = .readClear c b ∧ burstOk b = false) ∨
        (∃ c a n, i = .clear c a n ∧ (a % 64 ≠ 0 ∨ n % 64 ≠ 0 ∨ inHbm a n = false)))) := by
  cases i with
  | accumulateWrite c b m w =>
    cases hb : burstOk b with
    | false => exact .inr ⟨exec_accumulateWrite_of_bad hb, .inl ⟨c, b, m, w, rfl, hb⟩⟩
    | true => exact .inl ⟨_, if_neg (by simp [hb])⟩
  | readClear c b =>
    cases hb : burstOk b with
    | false => exact .inr ⟨exec_readClear_of_bad hb, .inr (.inl ⟨c, b, rfl, hb⟩)⟩
    | true => exact .inl ⟨_, if_neg (by simp [hb])⟩
  | clear c a n =>
    by_cases hbad : a % 64 ≠ 0 ∨ n % 64 ≠ 0 ∨ inHbm a n = false
    · exact .inr ⟨exec_clear_of_bad hbad, .inr (.inr ⟨c, a, n, rfl, hbad⟩)⟩
    · exact .inl ⟨_, if_neg (by simpa [or_assoc] using hbad)⟩
  | _ => exact .inl ⟨_, rfl⟩

/-- Settles O60: a command that faults is a misplaced burst, so a queue whose front is none steps on. -/
theorem everyCommandCompletes : Obligations.EveryCommandCompletes := by
  refine ⟨exec_completes_or_misplaced, fun s hfront => ?_⟩
  cases hqueue : s.pending with
  | nil => exact ⟨_, step_of_empty hqueue⟩
  | cons i rest =>
    obtain ⟨haccumulate, hread, hclear⟩ := hfront i (by rw [hqueue, List.head?_cons])
    have hstep : step s = exec i { s with pending := rest } := by rw [step, hqueue]
    rw [hstep]
    obtain hnext | ⟨-, ⟨c, b, m, w, hi, hbad⟩ | ⟨c, b, hi, hbad⟩ | ⟨c, a, n, hi, hbad⟩⟩ :=
      exec_completes_or_misplaced i { s with pending := rest }
    · exact hnext
    · exact absurd hbad (by simp [haccumulate c b m w hi])
    · exact absurd hbad (by simp [hread c b hi])
    · obtain ⟨ha, hn, hin⟩ := hclear c a n hi
      simp [ha, hn, hin] at hbad

end Sys2Proof.Machine
